-- ==== Sys2Proof/Word.lean ====
section
/-!
DEFINITION. The word types of the TG4 and the sparse tables its state is held in. Bit 0 is the least significant
bit of any word (R4); scalar registers are 64 bits, a lane is 32 bits (R5).
-/
namespace Sys2Proof

/-- A scalar register, an address or a special register (64 bits, R5). -/
abbrev Word := BitVec 64

/-- One lane of a vector register (32 bits, R5). -/
abbrev Lane := BitVec 32

/-- One byte of memory. -/
abbrev Byte := BitVec 8

/-- A sparse table: pairs of a key and a value, keys rising. A key that is not listed has the table's default,
which the reader names. -/
abbrev Map (α : Type) := List (Nat × α)

/-- The value of key `k`, or the default `d` where the key is not listed. -/
def Map.get {α : Type} (d : α) : Map α → Nat → α
  | [], _ => d
  | (i, v) :: m, k => if i = k then v else Map.get d m k

/-- The value of key `k`, if the key is listed. -/
def Map.find {α : Type} : Map α → Nat → Option α
  | [], _ => none
  | (i, v) :: m, k => if i = k then some v else Map.find m k

/-- Give key `k` the value `v`. -/
def Map.set {α : Type} : Map α → Nat → α → Map α
  | [], k, v => [(k, v)]
  | (i, u) :: m, k, v =>
    if k < i then (k, v) :: (i, u) :: m
    else if i = k then (k, v) :: m
    else (i, u) :: Map.set m k v

/-- Take key `k` out of the table. -/
def Map.erase {α : Type} : Map α → Nat → Map α
  | [], _ => []
  | (i, u) :: m, k => if i = k then m else (i, u) :: Map.erase m k

/-- Change every listed value. -/
def Map.update {α : Type} (f : Nat → α → α) : Map α → Map α
  | [] => []
  | (i, u) :: m => (i, f i u) :: Map.update f m

end Sys2Proof
end

