-- ==== Sys2Proof/Config.lean ====
section
/-!
DEFINITION. What an implementation fixes, and the free values: constants without a body, of which nothing can be
proved but that the same operands give the same value. Each is named in a log entry of notes/assumptions.
-/
namespace Sys2Proof.Config

/-- Which of the enabled parties and events comes next when the agenda names none (log 1). -/
opaque pick : Nat → Nat

/-- How many cycles of a die's clock pass in a step (R155, R494; log 2). -/
opaque cycles : (tick : Nat) → (die : Nat) → Nat

/-- The order of a dot product's additions: at step `n` of a sum of `k` terms of instruction kind `kind`, the places
of the two partial sums that are added next (R137, R139; log 7). -/
opaque dotPick : (kind k n : Nat) → Nat × Nat

/-- The fraction of the 16-bit NaN that a pack gives for an FP32 NaN whose upper fraction bits are all 0, by the width of that fraction and the FP32
code (R126; log 72). -/
opaque packNan : (frac : Nat) → Lane → Nat

/-- Whether vexp2, vlog2, vsin, vcos (`fn` 0 to 3) return the upper bracketing value (R136; log 8). -/
opaque bracketUp : (fn : Nat) → Lane → Bool

/-- How many places above the lower bracket, less one, the FP32 alpha of a Gaussian lies at a pixel centre, by CX, CY, the conic and OPAC
(R292; log 9). -/
opaque alphaUlp : (fields : List Lane) → (px py : Lane) → Nat

/-- Whether a present L1 line still serves the load (R266, R277; log 10). -/
opaque l1Keeps : Nat → Bool

/-- Which of several held translations an access uses (R238; log 12). -/
opaque tlbPick : Nat → Nat

/-- Which of the oldest entries of a miss queue is walked next, by the die and by which of its walkers (R241; log 81). -/
opaque walkPick : Nat → Nat × Nat

/-- Which of several lines or translations leaves a full cache or TLB (R221, R222, R224, R239; log 81). -/
opaque victim : Nat → Nat

/-- How many further records a sort engine has read by the end of a step (R298; log 13). -/
opaque sortRecords : (tick : Nat) → Nat

/-- A field of an item of a reserving loop whose item region a program has stored into (R314; log 14). -/
opaque openItem : (tick : Nat) → (i : Nat) → (field : Nat) → Nat

/-- Byte `i` of the header of a slot that holds a piece with the fields given (R410, R412; log 86). -/
opaque slotHeader : (fields : List Nat) → (i : Nat) → Byte

/-- A byte whose value the manual leaves open: data of a failing line, a region an engine is writing (R267, R298,
R348; log 14). -/
opaque unpredictable : (tick : Nat) → (i : Nat) → Byte

/-- The place in which `gdes` applies its next addition (R360; log 18). -/
opaque gdesPick : (tick n : Nat) → Nat

/-- COUNT of a completion word whose instruction defines no COUNT for its status (R347, R348; log 23). -/
opaque openCount : Nat → BitVec 32

/-- Which of the codes of R456 is that of the fault that a copy-schedule entry reports for a field out of range (R437; log 25). -/
opaque entryFault : Nat → Nat

/-- Whether `mreuse` takes the held operand (R392; log 19). -/
opaque reusePick : Nat → Bool

/-- PC and `WAVEID` of a THERMAL_STOP fault (R464, R495; log 27). -/
opaque stopPc : Nat → Word
opaque stopWave : Nat → BitVec 32

/-- The full/empty bit that a register beyond a wave's allocation shows in TFEV and TFES: v`n` at `n`, s`n` at
`256 + n` (R462; log 32). -/
opaque spareFull : Nat → Bool

/-- How many further lines the checkpoint engine has copied by the end of a step (R496; log 28). -/
opaque ckptLines : (tick : Nat) → Nat

/-- Whether the part is a TG4-M module, whose PCAP resets to 3,000 W, or a TG4-P package, 2,645 W (R1, R494). -/
opaque isModule : Bool

end Sys2Proof.Config
end

