-- ==== Sys2Proof/Machine/Bits.lean ====
section
/-!
DEFINITION. Bit fields, widths and little-endian bytes (R4, R121, R122), as plain functions on numbers and bit vectors.
-/
namespace Sys2Proof.Machine

/-- Bits [hi:lo] of a number. -/
def field (x hi lo : Nat) : Nat := x / 2 ^ lo % 2 ^ (hi + 1 - lo)

/-- Bits [hi:lo] of a scalar word. -/
def Bits.of (x : Word) (hi lo : Nat) : Nat := field x.toNat hi lo

/-- Bit `i` of a number. -/
def bitAt (x i : Nat) : Bool := x / 2 ^ i % 2 == 1

/-- A number of `n` bits read as two's complement (R121). -/
def signed (n x : Nat) : Int := if x % 2 ^ n < 2 ^ (n - 1) then (x % 2 ^ n : Nat) else (x % 2 ^ n : Nat) - (2 ^ n : Nat)

/-- An exact integer kept to its low `n` bits (R122). -/
def wrap (n : Nat) (x : Int) : Nat := (x % (2 ^ n : Nat)).toNat

/-- The value of the low `n` bits of `x`, by the sign of the type. -/
def valueOf (sgn : Bool) (n x : Nat) : Int := if sgn then signed n x else (x % 2 ^ n : Nat)

/-- An exact integer clamped to the range of an `n`-bit type (R122, R123). -/
def clamp (sgn : Bool) (n : Nat) (x : Int) : Int :=
  let lo : Int := if sgn then -(2 ^ (n - 1) : Nat) else 0
  let hi : Int := if sgn then (2 ^ (n - 1) : Nat) - 1 else (2 ^ n : Nat) - 1
  if x < lo then lo else if hi < x then hi else x

/-- Extend an `n`-bit result to 64 bits as the type's sign directs (R69, R143). -/
def extend (sgn : Bool) (n : Nat) (x : Nat) : Word := BitVec.ofInt 64 (valueOf sgn n x)

/-- A little-endian number from its bytes, the byte at the lowest address first (R4). -/
def fromBytes : List Byte → Nat
  | [] => 0
  | b :: bs => b.toNat + 256 * fromBytes bs

/-- The `n` little-endian bytes of a number (R4). -/
def toBytes : (n : Nat) → Nat → List Byte
  | 0, _ => []
  | n + 1, x => BitVec.ofNat 8 x :: toBytes n (x / 256)

/-- Insert an element in front of the first one that it may precede. -/
def insertBy {α : Type} (le : α → α → Bool) (a : α) : List α → List α
  | [] => [a]
  | b :: l => if le a b then a :: b :: l else b :: insertBy le a l

/-- A list sorted by a total preorder; equal elements keep their order. -/
def sortBy {α : Type} (l : List α) (le : α → α → Bool) : List α := l.foldr (insertBy le) []

/-- Leading zeros of `x` within `n` bits; `n` when `x` is 0. -/
def leadingZeros : (n : Nat) → Nat → Nat
  | 0, _ => 0
  | n + 1, x => if bitAt x n then 0 else 1 + leadingZeros n x

/-- Trailing zeros of `x` within `n` bits; `n` when `x` is 0. -/
def trailingZeros : (n : Nat) → Nat → Nat
  | 0, _ => 0
  | n + 1, x => if x % 2 == 1 then 0 else 1 + trailingZeros n (x / 2)

/-- Number of 1 bits among the low `n`. -/
def popCount : (n : Nat) → Nat → Nat
  | 0, _ => 0
  | n + 1, x => x % 2 + popCount n (x / 2)

/-- The low `n` bits of `x` in reverse order. -/
def bitRev : (n : Nat) → Nat → Nat
  | 0, _ => 0
  | n + 1, x => x % 2 * 2 ^ n + bitRev n (x / 2)

/-- The `32/w` elements of a lane, element 0 in the lowest bits (R72). -/
def elems (w : Nat) (x : Lane) : List Nat := (List.range (32 / w)).map fun e => field x.toNat (w * e + w - 1) (w * e)

/-- A lane from its elements (R72). -/
def packElems (w : Nat) : List Nat → Nat
  | [] => 0
  | x :: xs => x % 2 ^ w + 2 ^ w * packElems w xs

/-- The number with bit `l` set exactly where `p l` holds, over 32 lanes. -/
def laneMask (p : Nat → Bool) : BitVec 32 :=
  BitVec.ofNat 32 ((List.range 32).foldl (fun m l => if p l then m + 2 ^ l else m) 0)

/-- The element of a list at place `i`, or the default. -/
def nth {α : Type} (d : α) (l : List α) (i : Nat) : α := l.getD i d

/-- A list of `n` copies. -/
def copies {α : Type} (n : Nat) (x : α) : List α := List.replicate n x

/-- `n` consecutive numbers from `a`. -/
def upto (a n : Nat) : List Nat := (List.range n).map (a + ·)

/-- Keep the first of equal members. -/
def dedup (l : List Nat) : List Nat := l.foldl (fun acc x => if acc.contains x then acc else acc ++ [x]) []

/-- The smallest member of a list. -/
def smallest : List Nat → Option Nat
  | [] => none
  | x :: xs => match smallest xs with
    | none => some x
    | some y => some (min x y)

end Sys2Proof.Machine
end

