-- ==== Sys2Proof/Machine/Float.lean ====
section
/-!
DEFINITION. The number formats and their arithmetic (05_number_formats.md, R121 to R141): FP32, FP16, BF16 and the
binary8 family, exact intermediate values, one rounding to the destination, and the delivery table of R131.
-/
namespace Sys2Proof.Machine

/-- A floating format: its width, fraction bits, bias, sign, the largest finite magnitude code, the magnitude code of
infinity if there is one, and the canonical NaN (R125, R126, R128). -/
structure FFmt where
  width : Nat
  frac : Nat
  bias : Int
  sgn : Bool
  maxCode : Nat
  infCode : Option Nat
  nanCode : Nat
  ieee : Bool

/-- FP32 (R125). -/
def fp32 : FFmt := ⟨32, 23, 127, true, 0x7f7fffff, some 0x7f800000, 0x7fc00000, true⟩

/-- FP16 (R125). -/
def fp16 : FFmt := ⟨16, 10, 15, true, 0x7bff, some 0x7c00, 0x7e00, true⟩

/-- BF16 (R125). -/
def bf16 : FFmt := ⟨16, 7, 127, true, 0x7f7f, some 0x7f80, 0x7fc0, true⟩

/-- The binary8 format of an FMT8 code 0x40-0x5f (R72, R128). -/
def b8 (code : Nat) : FFmt :=
  let p := code % 8
  let uns := bitAt code 4
  let fin := bitAt code 3
  if uns then ⟨8, p - 1, (2 ^ (8 - p) : Nat), false, if fin then 0xfe else 0xfd, if fin then none else some 0xfe, 0xff, false⟩
  else ⟨8, p - 1, (2 ^ (7 - p) : Nat), true, if fin then 0x7f else 0x7e, if fin then none else some 0x7f, 0x80, false⟩

/-- An exact value: NaN, an infinity, or sign, magnitude and power of two. -/
inductive FVal where
  | nan
  | inf (neg : Bool)
  | num (neg : Bool) (m : Nat) (e : Int)
  deriving DecidableEq, Repr

/-- Decode a code of a format (R125, R128). Subnormals keep their full value (R127). -/
def FFmt.decode (f : FFmt) (c : Nat) : FVal :=
  let neg := f.sgn && bitAt c (f.width - 1)
  let mag := if f.sgn then c % 2 ^ (f.width - 1) else c % 2 ^ f.width
  let isNan := if f.ieee then 2 ^ f.frac * (2 ^ (f.width - 1 - f.frac) - 1) < mag else c % 2 ^ f.width == f.nanCode
  if isNan then .nan
  else if f.infCode == some mag then .inf neg
  else
    let ex := mag / 2 ^ f.frac
    let fr := mag % 2 ^ f.frac
    .num neg (if ex = 0 then fr else 2 ^ f.frac + fr) (max (ex : Int) 1 - f.bias - f.frac)

/-- Bits in a magnitude. -/
def bitLen (m : Nat) : Nat := if m = 0 then 0 else Nat.log2 m + 1

/-- Whether a rounded value moves away from zero, given the direction RND (R130): 0 nearest-even, 1 toward zero, 2 up,
3 down. `cmp` compares the dropped part with one half; `odd` is the parity of the truncated code. -/
def roundsUp (rnd : Nat) (neg : Bool) (inexact : Bool) (cmp : Ordering) (odd : Bool) : Bool :=
  match rnd with
  | 0 => cmp == .gt || (cmp == .eq && odd)
  | 1 => false
  | 2 => inexact && !neg
  | _ => inexact && neg

/-- Compare the remainder of a division by `2^sh` with one half of it. -/
def cmpHalf (m sh : Nat) : Ordering := compare (2 * (m % 2 ^ sh)) (2 ^ sh)

/-- The magnitude code of `m * 2^e` rounded to a format's grid, extended above its largest finite value (R130). -/
def FFmt.roundMag (f : FFmt) (rnd : Nat) (neg : Bool) (m : Nat) (e : Int) : Nat :=
  if m = 0 then 0 else
  let qmin : Int := 1 - f.bias - f.frac
  let q : Int := max (e + bitLen m - 1 - f.frac) qmin
  let base := (q - qmin).toNat * 2 ^ f.frac
  if q ≤ e then m * 2 ^ (e - q).toNat + base
  else
    let sh := (q - e).toNat
    let code := m / 2 ^ sh + base
    if roundsUp rnd neg (m % 2 ^ sh != 0) (cmpHalf m sh) (code % 2 == 1) then code + 1 else code

/-- A magnitude code with its sign. -/
def FFmt.withSign (f : FFmt) (neg : Bool) (code : Nat) : Nat := if f.sgn && neg then code + 2 ^ (f.width - 1) else code

/-- Deliver an exact value into a format (R131): one rounding, then zeros, overflow, infinities, saturation and
unsigned formats as the table gives them. -/
def FFmt.deliver (f : FFmt) (rnd : Nat) (sat : Bool) (x : FVal) : Nat :=
  let top (neg : Bool) : Nat := f.withSign neg f.maxCode
  let infinite (neg : Bool) : Nat := match f.infCode with
    | some c => f.withSign neg c
    | none => f.nanCode
  match x with
  | .nan => f.nanCode
  | .inf neg =>
    if neg && !f.sgn then (if sat then 0 else f.nanCode)
    else if sat then top neg else infinite neg
  | .num neg m e =>
    let code := f.roundMag rnd neg m e
    if code = 0 then (if f.ieee then f.withSign neg 0 else 0)
    else if neg && !f.sgn then (if sat then 0 else f.nanCode)
    else if code ≤ f.maxCode then f.withSign neg code
    else if sat then top neg
    else if rnd == 0 || (rnd == 2 && !neg) || (rnd == 3 && neg) then infinite neg
    else top neg

/-- The sign of a value. -/
def FVal.negative : FVal → Bool
  | .nan => false
  | .inf n => n
  | .num n _ _ => n

/-- The value with its sign changed. -/
def FVal.neg : FVal → FVal
  | .nan => .nan
  | .inf n => .inf !n
  | .num n m e => .num (!n) m e

/-- A finite value as an integer count of `2^e`. -/
def scaled (neg : Bool) (m : Nat) (e q : Int) : Int :=
  let v : Int := (m * 2 ^ (e - q).toNat : Nat)
  if neg then -v else v

/-- The exact sum (IEEE 754); an exact zero is −0 only under RND 3 or when both terms are −0. -/
def FVal.add (rnd : Nat) : FVal → FVal → FVal
  | .nan, _ => .nan
  | _, .nan => .nan
  | .inf a, .inf b => if a == b then .inf a else .nan
  | .inf a, .num .. => .inf a
  | .num .., .inf b => .inf b
  | .num a m e, .num b n g =>
    let q := min e g
    let t := scaled a m e q + scaled b n g q
    if t = 0 then
      if m = 0 ∧ n = 0 ∧ a = b then .num a 0 q else .num (rnd == 3) 0 q
    else .num (t < 0) t.natAbs q

/-- The exact product (IEEE 754). -/
def FVal.mul : FVal → FVal → FVal
  | .nan, _ => .nan
  | _, .nan => .nan
  | .inf a, .inf b => .inf (a != b)
  | .inf a, .num b n _ => if n = 0 then .nan else .inf (a != b)
  | .num a m _, .inf b => if m = 0 then .nan else .inf (a != b)
  | .num a m e, .num b n g => .num (a != b) (m * n) (e + g)

/-- The quotient, exact but for a last bit that is set when the quotient goes on (at least 64 bits are kept). -/
def FVal.div : FVal → FVal → FVal
  | .nan, _ => .nan
  | _, .nan => .nan
  | .inf _, .inf _ => .nan
  | .inf a, .num b _ _ => .inf (a != b)
  | .num a _ e, .inf b => .num (a != b) 0 e
  | .num a m e, .num b n g =>
    if n = 0 then (if m = 0 then .nan else .inf (a != b))
    else
      let k := bitLen n + 64
      let t := m * 2 ^ k
      .num (a != b) (2 * (t / n) + (if t % n = 0 then 0 else 1)) (e - g - k - 1)

/-- The integer square root, by its bits from the highest. -/
def isqrt (bits n : Nat) : Nat :=
  (List.range (bits + 1)).foldl (fun r i => let c := r + 2 ^ (bits - i); if c * c ≤ n then c else r) 0

/-- The square root, exact but for a last bit that is set when the root goes on. -/
def FVal.sqrt : FVal → FVal
  | .nan => .nan
  | .inf n => if n then .nan else .inf false
  | .num n m e =>
    if m = 0 then .num n 0 e
    else if n then .nan
    else
      let k : Nat := if e % 2 = 0 then 128 else 129
      let t := m * 2 ^ k
      let r := isqrt (bitLen t / 2 + 1) t
      .num false (2 * r + (if r * r = t then 0 else 1)) ((e - k) / 2 - 1)

/-- The reciprocal square root, exact but for a last bit that is set when it goes on. -/
def FVal.rsqrt : FVal → FVal
  | .nan => .nan
  | .inf n => if n then .nan else .num false 0 0
  | .num n m e =>
    if m = 0 then .inf n
    else if n then .nan
    else
      let k0 : Nat := bitLen m + 130
      let k : Nat := if (e + k0) % 2 = 0 then k0 else k0 + 1
      let r := isqrt (k / 2 + 1) (2 ^ k / m)
      .num false (2 * r + (if r * r * m = 2 ^ k then 0 else 1)) (-((e + k) / 2) - 1)

/-- Round to an integral value in the direction RND, keeping the sign of a zero (R179, R180). -/
def FVal.rint (rnd : Nat) : FVal → FVal
  | .nan => .nan
  | .inf n => .inf n
  | .num n m e =>
    if 0 ≤ e then .num n m e
    else
      let sh := (-e).toNat
      let t := m / 2 ^ sh
      .num n (if roundsUp rnd n (m % 2 ^ sh != 0) (cmpHalf m sh) (t % 2 == 1) then t + 1 else t) 0

/-- Order of two values that are numbers; −0 and +0 are equal. -/
def FVal.cmp : FVal → FVal → Option Ordering
  | .nan, _ => none
  | _, .nan => none
  | .inf a, .inf b => some (if a == b then .eq else if a then .lt else .gt)
  | .inf a, .num .. => some (if a then .lt else .gt)
  | .num .., .inf b => some (if b then .gt else .lt)
  | .num a m e, .num b n g =>
    let q := min e g
    some (compare (scaled a m e q) (scaled b n g q))

/-- Minimum of R178 on the codes of a format: −0 below +0, a NaN counts as missing data, the operand keeps its bits. -/
def FFmt.min (f : FFmt) (x y : Nat) : Nat :=
  match f.decode x, f.decode y with
  | .nan, .nan => f.nanCode
  | .nan, _ => y
  | _, .nan => x
  | a, b => if a.cmp b == some .lt || (a.cmp b == some .eq && a.negative) then x else y

/-- Maximum of R178 on the codes of a format. -/
def FFmt.max (f : FFmt) (x y : Nat) : Nat :=
  match f.decode x, f.decode y with
  | .nan, .nan => f.nanCode
  | .nan, _ => y
  | _, .nan => x
  | a, b => if a.cmp b == some .gt || (a.cmp b == some .eq && !a.negative) then x else y

/-- The exact integer value of a finite value rounded in direction RND, clamped to an `n`-bit type (R124). -/
def FVal.toInt (rnd : Nat) (sgn : Bool) (n : Nat) : FVal → Int
  | .nan => 0
  | .inf neg => clamp sgn n (if neg then -(2 ^ 64 : Nat) else (2 ^ 64 : Nat))
  | .num neg m e =>
    match FVal.rint rnd (.num neg m e) with
    | .num neg m e => clamp sgn n (scaled neg m e 0)
    | _ => 0

/-- An integer as an exact value (R124). -/
def FVal.ofInt (x : Int) : FVal := .num (x < 0) x.natAbs 0

/-- FP32 shorthands: decode a lane, deliver to a lane with nearest-even and SAT = 0. -/
def f32 (x : Lane) : FVal := fp32.decode x.toNat

/-- Deliver an exact value to FP32 in direction RND, SAT = 0. -/
def toF32 (rnd : Nat) (x : FVal) : Lane := BitVec.ofNat 32 (fp32.deliver rnd false x)

/-- One FP32 addition with nearest-even rounding; a NaN result is canonical. -/
def f32add (x y : Lane) : Lane := toF32 0 ((f32 x).add 0 (f32 y))

/-- Round to a significand of 25 bits, nearest-even: a partial sum of a dot product (R134, R137). -/
def FVal.sig25 : FVal → FVal
  | .num n m e =>
    let len := bitLen m
    if len ≤ 25 then .num n m e
    else
      let sh := len - 25
      let t := m / 2 ^ sh
      .num n (if roundsUp 0 n true (cmpHalf m sh) (t % 2 == 1) then t + 1 else t) (e + sh)
  | x => x

/-- Add up the terms of a dot product in the order that `order` fixes (R137): every sum but the last is rounded to 25
bits; the last is exact. `fuel` is the number of terms. -/
def dotSum (order : Nat → Nat × Nat) (rnd : Nat) : (fuel : Nat) → List FVal → FVal
  | 0, _ => .num false 0 0
  | _ + 1, [] => .num false 0 0
  | _ + 1, [x] => x
  | _ + 1, [x, y] => x.add rnd y
  | n + 1, xs =>
    let (i, j) := order n
    let i := i % xs.length
    let x := nth .nan xs i
    let rest := xs.eraseIdx i
    let j := j % rest.length
    let y := nth .nan rest j
    dotSum order rnd n ((x.add 0 y).sig25 :: rest.eraseIdx j)

/-- How many additions that are rounded to 25 bits an order leads a term through, at most; `xs` holds those behind each partial sum. -/
def dotDepth (order : Nat → Nat × Nat) : (fuel : Nat) → (xs : List Nat) → Nat
  | 0, _ => 0
  | _ + 1, [] => 0
  | _ + 1, [a] => a
  | _ + 1, [a, b] => max a b
  | n + 1, xs =>
    let (i, j) := order n
    let i := i % xs.length
    let rest := xs.eraseIdx i
    let j := j % rest.length
    dotDepth order n ((max (nth 0 xs i) (nth 0 rest j) + 1) :: rest.eraseIdx j)

/-- The fixed order for `k` terms: one that leads no term through more than ⌈log₂ k⌉ + 1 rounded additions, as the bound of R138 asks; the last
two partial sums are added where the free order does not keep to that (log 7). -/
def dotOrder (kind k : Nat) : Nat → Nat × Nat :=
  if dotDepth (Config.dotPick kind k) k (List.replicate k 0) ≤ bitLen (k - 1) + 1 then Config.dotPick kind k else fun n => (n, n - 1)

/-- A dot product delivered to FP32 (R137, R138): the addend first, then the exact products. `kind` names the
instruction and format whose fixed order is used (R139). -/
def dot (kind rnd : Nat) (c : FVal) (products : List FVal) : Lane :=
  let xs := c :: products
  toF32 rnd (dotSum (dotOrder kind xs.length) rnd xs.length xs)

/-- Fraction bits of the fixed-point work below. -/
def fixBits : Nat := 512

/-- The arc tangent of 1/n in fixed point. -/
def atanInv (n : Nat) : Nat :=
  (List.range 260).foldl (fun (s : Nat) k =>
    let t := 2 ^ fixBits / ((2 * k + 1) * n ^ (2 * k + 1))
    if k % 2 = 0 then s + t else s - t) 0

/-- π in fixed point (Machin's formula). -/
def piFix : Nat := 4 * (4 * atanInv 5 - atanInv 239)

/-- Twice the inverse hyperbolic tangent of a/b in fixed point, that is ln((b + a)/(b − a)). -/
def atanh2 (a b : Nat) : Nat :=
  let z := a * 2 ^ fixBits / b
  let z2 := z * z / 2 ^ fixBits
  2 * ((List.range 180).foldl (fun (st : Nat × Nat) k => (st.1 + st.2 / (2 * k + 1), st.2 * z2 / 2 ^ fixBits)) (0, z)).1

/-- ln 2 in fixed point. -/
def ln2Fix : Nat := atanh2 1 3

/-- The exponential of a fixed-point number below 1. -/
def expFix (x : Nat) : Nat :=
  ((List.range 120).foldl (fun (st : Nat × Nat) k => (st.1 + st.2, st.2 * x / 2 ^ fixBits / (k + 1))) (0, 2 ^ fixBits)).1

/-- Sine (`off` 1) or cosine (`off` 0) of a fixed-point number below 2π, by its Taylor series. -/
def trigFix (off : Nat) (x : Nat) : Int :=
  ((List.range 140).foldl (fun (st : Int × Nat) k =>
    let s := if k % 2 = off % 2 then (if (k / 2) % 2 = 0 then st.1 + st.2 else st.1 - st.2) else st.1
    (s, st.2 * x / 2 ^ fixBits / (k + 1))) ((0 : Int), 2 ^ fixBits)).1

/-- An exact value as a fixed-point integer count of `2^-fixBits`, cut toward −∞. -/
def fixOf (neg : Bool) (m : Nat) (e : Int) : Int :=
  let t : Int := e + fixBits
  let v : Int := if 0 ≤ t then (m * 2 ^ t.toNat : Nat) else (m / 2 ^ (-t).toNat : Nat)
  if neg then -v else v

/-- The FP32 result of a function whose exact value is not an FP32 value and whose magnitude lies just above
`m * 2^e`: the lower or the upper bracketing code (R136). -/
def bracket (up : Bool) (neg : Bool) (m : Nat) (e : Int) : Lane :=
  let lo := fp32.roundMag 1 neg m e
  let code := if up then lo + 1 else lo
  BitVec.ofNat 32 (fp32.withSign neg (min code 0x7f800000))

/-- 2^A (R136, R179, R180). -/
def vexp2Lane (x : Lane) : Lane :=
  match f32 x with
  | .nan => 0x7fc00000
  | .inf neg => if neg then 0 else 0x7f800000
  | .num neg m e =>
    if m = 0 then 0x3f800000
    else if 0 ≤ e ∧ 1024 < m * 2 ^ e.toNat then (if neg then bracket (Config.bracketUp 0 x) false 1 (-1000) else 0x7f800000)
    else
      let a := fixOf neg m e
      let n := a / (2 ^ fixBits : Nat)
      let fr := (a % (2 ^ fixBits : Nat)).toNat
      if fr = 0 then (if n < -149 then bracket (Config.bracketUp 0 x) false 1 (-1000) else toF32 0 (.num false 1 n))
      else
        let y := expFix (fr * ln2Fix / 2 ^ fixBits)
        if 128 ≤ n ∨ 0x7f7fffff ≤ fp32.roundMag 1 false y (n - fixBits) then 0x7f800000
        else bracket (Config.bracketUp 0 x) false y (n - fixBits)

/-- log₂ A (R136, R179, R180). -/
def vlog2Lane (x : Lane) : Lane :=
  match f32 x with
  | .nan => 0x7fc00000
  | .inf neg => if neg then 0x7fc00000 else 0x7f800000
  | .num neg m e =>
    if m = 0 then 0xff800000
    else if neg then 0x7fc00000
    else
      let len := bitLen m
      let n : Int := e + len - 1
      if m = 2 ^ (len - 1) then toF32 0 (FVal.ofInt n)
      else
        let p := 2 ^ (len - 1)
        let l := atanh2 (m - p) (m + p) * 2 ^ fixBits / ln2Fix
        let t : Int := n * (2 ^ fixBits : Nat) + l
        bracket (Config.bracketUp 1 x) (t < 0) (if t < 0 then t.natAbs - 1 else t.natAbs) (-fixBits)

/-- sin A or cos A with A in radians (R136, R179, R180); `fn` is 2 for sine and 3 for cosine. -/
def trigLane (fn : Nat) (x : Lane) : Lane :=
  let up := Config.bracketUp fn x
  match f32 x with
  | .nan => 0x7fc00000
  | .inf _ => 0x7fc00000
  | .num neg m e =>
    if m = 0 then (if fn = 2 then x else 0x3f800000)
    else if e + bitLen m < -100 then
      if fn = 2 then (if up then x else x - 1) else (if up then 0x3f800000 else 0x3f7fffff)
    else
      let r := ((fixOf false m e) % (2 * piFix : Nat)).toNat
      let t := trigFix (if fn = 2 then 1 else 0) r
      let s := if fn = 2 ∧ neg then -t else t
      bracket up (s < 0) (s.natAbs) (-fixBits)

end Sys2Proof.Machine
end

