-- ==== Sys2Proof/Syntax.lean ====
section
/-!
DEFINITION. The syntax of the TG4: one constructor of `Instr` per row of spec/opcode_table.json. A wave, a matrix
sequencer or a collective program issues the rows that have an encoding (R87 to R94); the other rows are what the
device does by itself or what reaches it from the host and the fabric. A field that an opcode ignores (R66) is no
operand.
-/
namespace Sys2Proof

/-- The second word of a long vector form (R71). -/
structure VL where
  c : BitVec 8
  pred : BitVec 3
  exh : BitVec 2
  exw : BitVec 2
  fe : BitVec 3
  type : BitVec 4
  rnd : BitVec 2
  sat : Bool
  mod : BitVec 4
  deriving DecidableEq, Repr

/-- The second word of a long memory form (R75). -/
structure ML where
  fmt8 : BitVec 8
  pred : BitVec 3
  exh : BitVec 2
  exw : BitVec 2
  fe : BitVec 3
  acq : Bool
  rel : Bool
  scope : BitVec 3
  rlx : Bool
  nt : Bool
  deriving DecidableEq, Repr

/-- The second word of a long engine form (R78). -/
structure EL where
  c : BitVec 8
  pred : BitVec 3
  exh : BitVec 2
  exw : BitVec 2
  fe : BitVec 3
  acq : Bool
  rel : Bool
  scope : BitVec 3
  rlx : Bool
  deriving DecidableEq, Repr

/-- A write piece on the fabric: the bytes it carries lie in one 64-byte block of the target (R396, R410). `party` numbers the wave or
engine of the source that sent it (R405). -/
structure Piece where
  src : BitVec 16
  dst : BitVec 16
  step : BitVec 64
  seqNo : Nat
  pa : Nat
  bytes : List (Nat × BitVec 8)
  entry : Option (BitVec 8)
  party : Nat
  deriving DecidableEq, Repr

/-- What an ARRIVED tells the root: whether the device takes part in the step (R408), and how many pieces it has sent each target (log 97). -/
structure Arrived where
  part : Bool
  sent : List (Nat × Nat)
  deriving DecidableEq, Repr

/-- What a COMMIT tells a member: the step (R415), and how many pieces each source has sent this member in it (log 97). -/
structure Commit where
  step : BitVec 64
  due : List (Nat × Nat)
  deriving DecidableEq, Repr

/-- A remote read request: `len` bytes of one 64-byte block, to be served after the pieces numbered up to `after`
(R396, R405). `party` sent it; pieces of the same party numbered above `last` are later than it. `spilled` are the pieces to those bytes
that the reader holds in its spill region. -/
structure ReadReq where
  id : Nat
  src : BitVec 16
  dst : BitVec 16
  step : BitVec 64
  pa : Nat
  len : Nat
  after : Nat
  rlx : Bool
  party : Nat
  last : Nat
  spilled : List Piece
  deriving DecidableEq, Repr

/-- A launch packet of the pod's scheduler (R337, R338). -/
structure LaunchPacket where
  src : BitVec 16
  record : List (BitVec 8)
  tag : BitVec 64
  prio : BitVec 3
  asid : BitVec 16
  crec : BitVec 64
  deriving DecidableEq, Repr

/-- A residency report (R337). -/
structure Report where
  tag : BitVec 64
  devid : BitVec 16
  state : BitVec 16
  status : BitVec 32
  resident : BitVec 32
  retired : BitVec 32
  freeq : BitVec 32
  deriving DecidableEq, Repr

/-- The rows of the opcode table. -/
inductive Instr where
  /-- SADD (R144): Scalar add at the width of TYPE, wrapping. -/
  | sadd (d : BitVec 7) (a : BitVec 7) (b : BitVec 7) (t : BitVec 3)
  /-- SSUB (R144): Scalar subtract at the width of TYPE, wrapping. -/
  | ssub (d : BitVec 7) (a : BitVec 7) (b : BitVec 7) (t : BitVec 3)
  /-- SMUL (R144): Low N bits of the scalar product. -/
  | smul (d : BitVec 7) (a : BitVec 7) (b : BitVec 7) (t : BitVec 3)
  /-- SMULH (R144): High N bits of the 2N-bit scalar product, signed or unsigned by TYPE. -/
  | smulh (d : BitVec 7) (a : BitVec 7) (b : BitVec 7) (t : BitVec 3)
  /-- SDIV (R145): Scalar quotient truncated toward zero, with defined results for division by zero and overflow. -/
  | sdiv (d : BitVec 7) (a : BitVec 7) (b : BitVec 7) (t : BitVec 3)
  /-- SREM (R145): Scalar remainder whose sign follows the dividend, never trapping. -/
  | srem (d : BitVec 7) (a : BitVec 7) (b : BitVec 7) (t : BitVec 3)
  /-- SMIN (R144): Smaller of two scalars by TYPE. -/
  | smin (d : BitVec 7) (a : BitVec 7) (b : BitVec 7) (t : BitVec 3)
  /-- SMAX (R144): Larger of two scalars by TYPE. -/
  | smax (d : BitVec 7) (a : BitVec 7) (b : BitVec 7) (t : BitVec 3)
  /-- SAND (R144): Scalar bitwise and. -/
  | sand (d : BitVec 7) (a : BitVec 7) (b : BitVec 7) (t : BitVec 3)
  /-- SOR (R144): Scalar bitwise or. -/
  | sor (d : BitVec 7) (a : BitVec 7) (b : BitVec 7) (t : BitVec 3)
  /-- SXOR (R144): Scalar bitwise xor. -/
  | sxor (d : BitVec 7) (a : BitVec 7) (b : BitVec 7) (t : BitVec 3)
  /-- SANDN (R144): Scalar x and not y. -/
  | sandn (d : BitVec 7) (a : BitVec 7) (b : BitVec 7) (t : BitVec 3)
  /-- SSHL (R144): Scalar shift left by y mod N. -/
  | sshl (d : BitVec 7) (a : BitVec 7) (b : BitVec 7) (t : BitVec 3)
  /-- SSHR (R144): Scalar shift right by y mod N, logical or arithmetic by TYPE. -/
  | sshr (d : BitVec 7) (a : BitVec 7) (b : BitVec 7) (t : BitVec 3)
  /-- SROT (R144): Scalar rotate left within N bits. -/
  | srot (d : BitVec 7) (a : BitVec 7) (b : BitVec 7) (t : BitVec 3)
  /-- SCLZ (R144): Count of leading zeros within N bits. -/
  | sclz (d : BitVec 7) (a : BitVec 7) (t : BitVec 3)
  /-- SEQ (R144): Writes 1 if the scalars are equal, else 0. -/
  | seq (d : BitVec 7) (a : BitVec 7) (b : BitVec 7) (t : BitVec 3)
  /-- SNE (R144): Writes 1 if the scalars differ, else 0. -/
  | sne (d : BitVec 7) (a : BitVec 7) (b : BitVec 7) (t : BitVec 3)
  /-- SLT (R144): Writes 1 if x < y by TYPE, else 0. -/
  | slt (d : BitVec 7) (a : BitVec 7) (b : BitVec 7) (t : BitVec 3)
  /-- SLE (R144): Writes 1 if x <= y by TYPE, else 0. -/
  | sle (d : BitVec 7) (a : BitVec 7) (b : BitVec 7) (t : BitVec 3)
  /-- SSEL (R144): Selects x or y by whether the old destination is nonzero. -/
  | ssel (d : BitVec 7) (a : BitVec 7) (b : BitVec 7) (t : BitVec 3)
  /-- SPOPC (R144): Count of 1 bits of x. -/
  | spopc (d : BitVec 7) (a : BitVec 7) (t : BitVec 3)
  /-- SCTZ (R144): Count of trailing zeros of x. -/
  | sctz (d : BitVec 7) (a : BitVec 7) (t : BitVec 3)
  /-- SBREV (R144): Reverses the N bits of x. -/
  | sbrev (d : BitVec 7) (a : BitVec 7) (t : BitVec 3)
  /-- SBFX (R146): Extracts a bit field given by S[B]. -/
  | sbfx (d : BitVec 7) (a : BitVec 7) (b : BitVec 7) (t : BitVec 3)
  /-- SBFI (R146): Inserts a bit field of x into the destination. -/
  | sbfi (d : BitVec 7) (a : BitVec 7) (b : BitVec 7) (t : BitVec 3)
  /-- SMOV (R144): Copies x, extended by TYPE. -/
  | smov (d : BitVec 7) (a : BitVec 7) (t : BitVec 3)
  /-- SADDI (R147): Adds a sign-extended IMM10 to S[A]. -/
  | saddi (d : BitVec 7) (a : BitVec 7) (imm : BitVec 10)
  /-- SMULI (R147): Low 64 bits of S[A] times the immediate. -/
  | smuli (d : BitVec 7) (a : BitVec 7) (imm : BitVec 10)
  /-- SANDI (R147): S[A] and the immediate. -/
  | sandi (d : BitVec 7) (a : BitVec 7) (imm : BitVec 10)
  /-- SORI (R147): S[A] or the immediate. -/
  | sori (d : BitVec 7) (a : BitVec 7) (imm : BitVec 10)
  /-- SXORI (R147): S[A] xor the immediate. -/
  | sxori (d : BitVec 7) (a : BitVec 7) (imm : BitVec 10)
  /-- SSHLI (R147): S[A] shifted left by an unsigned amount 0-63. -/
  | sshli (d : BitVec 7) (a : BitVec 7) (imm : BitVec 10)
  /-- SSHRI (R147): S[A] shifted right logically by 0-63. -/
  | sshri (d : BitVec 7) (a : BitVec 7) (imm : BitVec 10)
  /-- SSRAI (R147): S[A] shifted right arithmetically by 0-63. -/
  | ssrai (d : BitVec 7) (a : BitVec 7) (imm : BitVec 10)
  /-- SEQI (R147): 1 if S[A] equals the immediate. -/
  | seqi (d : BitVec 7) (a : BitVec 7) (imm : BitVec 10)
  /-- SLTI (R147): 1 if S[A] is below the immediate, signed. -/
  | slti (d : BitVec 7) (a : BitVec 7) (imm : BitVec 10)
  /-- SLTNI (R147): 1 if S[A] is below the immediate, unsigned. -/
  | sltni (d : BitVec 7) (a : BitVec 7) (imm : BitVec 10)
  /-- SMOVI (R147): Sets S[D] to the sign-extended immediate. -/
  | smovi (d : BitVec 7) (imm : BitVec 10)
  /-- SADDI_LONG (R147): Long twin of saddi with IMM32. -/
  | saddiLong (d : BitVec 7) (a : BitVec 7) (imm : BitVec 32)
  /-- SMULI_LONG (R147): Long twin of smuli with IMM32. -/
  | smuliLong (d : BitVec 7) (a : BitVec 7) (imm : BitVec 32)
  /-- SANDI_LONG (R147): Long twin of sandi with IMM32. -/
  | sandiLong (d : BitVec 7) (a : BitVec 7) (imm : BitVec 32)
  /-- SORI_LONG (R147): Long twin of sori with IMM32. -/
  | soriLong (d : BitVec 7) (a : BitVec 7) (imm : BitVec 32)
  /-- SXORI_LONG (R147): Long twin of sxori with IMM32. -/
  | sxoriLong (d : BitVec 7) (a : BitVec 7) (imm : BitVec 32)
  /-- SSHLI_LONG (R147): Long twin of sshli with IMM32. -/
  | sshliLong (d : BitVec 7) (a : BitVec 7) (imm : BitVec 32)
  /-- SSHRI_LONG (R147): Long twin of sshri with IMM32. -/
  | sshriLong (d : BitVec 7) (a : BitVec 7) (imm : BitVec 32)
  /-- SSRAI_LONG (R147): Long twin of ssrai with IMM32. -/
  | ssraiLong (d : BitVec 7) (a : BitVec 7) (imm : BitVec 32)
  /-- SEQI_LONG (R147): Long twin of seqi with IMM32. -/
  | seqiLong (d : BitVec 7) (a : BitVec 7) (imm : BitVec 32)
  /-- SLTI_LONG (R147): Long twin of slti with IMM32. -/
  | sltiLong (d : BitVec 7) (a : BitVec 7) (imm : BitVec 32)
  /-- SLTNI_LONG (R147): Long twin of sltni with IMM32. -/
  | sltniLong (d : BitVec 7) (a : BitVec 7) (imm : BitVec 32)
  /-- SMOVI_LONG (R147): Long twin of smovi with IMM32. -/
  | smoviLong (d : BitVec 7) (imm : BitVec 32)
  /-- SMOVH (R148): Places IMM32 in bits [63:32] of S[D], keeping the low half. -/
  | smovh (d : BitVec 7) (imm : BitVec 32)
  /-- BRA (R150): Jumps to the target clause header and unwinds the loop stack. -/
  | bra (off : BitVec 17)
  /-- BZ (R150): Jumps if S[A] is zero, unwinding when taken. -/
  | bz (a : BitVec 7) (off : BitVec 17)
  /-- BNZ (R150): Jumps if S[A] is nonzero, unwinding when taken. -/
  | bnz (a : BitVec 7) (off : BitVec 17)
  /-- CALL (R150): Writes the return address to S[A] and jumps, never unwinding. -/
  | call (a : BitVec 7) (off : BitVec 17)
  /-- RET (R150): Jumps to S[A] with bits [1:0] cleared, never unwinding. -/
  | ret (a : BitVec 7)
  /-- BRX (R150): Jumps to S[A] plus a word offset, unwinding. -/
  | brx (a : BitVec 7) (off : BitVec 17)
  /-- LOOP (R36): Pushes a loop-stack entry with trip count S[A], or skips the body when the count is zero. -/
  | loop (a : BitVec 7) (off : BitVec 17)
  /-- LPOP (R152): Pops the top loop-stack entry. -/
  | lpop
  /-- EXIT (R43): Ends the wave; its slot stays held until its tracker entries drain. -/
  | exit
  /-- TAIL (R44): Ends the wave and releases its registers once all are full. -/
  | tail
  /-- YIELD (R150): Jumps to the target and hands the pipe to the next ready wave. -/
  | yield (off : BitVec 17)
  /-- NOP (R153): No effect; counts in ICOUNT. -/
  | nop
  /-- BRA_LONG (R149): Long twin of bra with a 32-bit word offset. -/
  | braLong (off : BitVec 32)
  /-- BZ_LONG (R149): Long twin of bz. -/
  | bzLong (a : BitVec 7) (off : BitVec 32)
  /-- BNZ_LONG (R149): Long twin of bnz. -/
  | bnzLong (a : BitVec 7) (off : BitVec 32)
  /-- CALL_LONG (R149): Long twin of call. -/
  | callLong (a : BitVec 7) (off : BitVec 32)
  /-- LOOP_LONG (R149): Long twin of loop. -/
  | loopLong (a : BitVec 7) (off : BitVec 32)
  /-- YIELD_LONG (R149): Long twin of yield. -/
  | yieldLong (off : BitVec 32)
  /-- HINT (R87): One-word hint codes 0xf0-0xff in every class execute as a no-operation. -/
  | hint (lo : BitVec 4)
  /-- MFS (R154): Reads the special register numbered IMM10 into S[D]. -/
  | mfs (d : BitVec 7) (n : BitVec 10)
  /-- MTS (R154): Writes S[A] into a writable special register, with the side effects of that register. -/
  | mts (a : BitVec 7) (n : BitVec 10)
  /-- BAR (R156): Arrives at the barrier of scope .lane to .pkg and waits for its parties. -/
  | bar (n : BitVec 10)
  /-- BAR_POD (R158): Arrives at the pod step boundary and waits for the step's commit. -/
  | barPod
  /-- NBARW (R161): Arrives at a numbered barrier and returns its token without waiting. -/
  | nbarw (d : BitVec 7) (n : BitVec 10)
  /-- NBARR (R161): Arrives at a numbered barrier and waits until its phase passes. -/
  | nbarr (n : BitVec 10)
  /-- NBWAIT (R161): Waits until a numbered barrier passes a given token. -/
  | nbwait (a : BitVec 7) (n : BitVec 10)
  /-- NBINIT (R161): Sets EXPECT of a numbered barrier and clears COUNT. -/
  | nbinit (a : BitVec 7) (n : BitVec 10)
  /-- TRAP (R163): Raises SOFTWARE with the IMM10 code. -/
  | trap (code : BitVec 10)
  /-- RFT (R461): Returns from a trap handler and restores the saved state. -/
  | rft
  /-- BRK (R164): Raises BREAK with the IMM10 code. -/
  | brk (code : BitVec 10)
  /-- PHINT (R167): Marks a save point; stops the wave for a pending save once the named registers are full. -/
  | phint (nm : BitVec 2) (ap : BitVec 6) (smap : BitVec 16) (vmap : BitVec 32)
  /-- VADD (R177): Lane-wise add. -/
  | vadd (d : BitVec 8) (a : BitVec 8) (b : BitVec 8)
  /-- VSUB (R177): Lane-wise subtract. -/
  | vsub (d : BitVec 8) (a : BitVec 8) (b : BitVec 8)
  /-- VMUL (R177): Lane-wise floating multiply. -/
  | vmul (d : BitVec 8) (a : BitVec 8) (b : BitVec 8)
  /-- VFMA (R177): Fused multiply-add with one rounding, addend in D. -/
  | vfma (d : BitVec 8) (a : BitVec 8) (b : BitVec 8)
  /-- VMIN (R178): Lane-wise minimum. -/
  | vmin (d : BitVec 8) (a : BitVec 8) (b : BitVec 8)
  /-- VMAX (R178): Lane-wise maximum. -/
  | vmax (d : BitVec 8) (a : BitVec 8) (b : BitVec 8)
  /-- VADDMIN (R177): Minimum of the delivered sum and the bound. -/
  | vaddmin (d : BitVec 8) (a : BitVec 8) (b : BitVec 8)
  /-- VADDMAX (R177): Maximum of the delivered sum and the bound. -/
  | vaddmax (d : BitVec 8) (a : BitVec 8) (b : BitVec 8)
  /-- VRCP (R179): Correctly rounded reciprocal. -/
  | vrcp (d : BitVec 8) (a : BitVec 8)
  /-- VSQRT (R179): Correctly rounded square root. -/
  | vsqrt (d : BitVec 8) (a : BitVec 8)
  /-- VRSQ (R179): Correctly rounded reciprocal square root. -/
  | vrsq (d : BitVec 8) (a : BitVec 8)
  /-- VEXP2 (R179): 2 to the power A within 1 ulp. -/
  | vexp2 (d : BitVec 8) (a : BitVec 8)
  /-- VLOG2 (R179): Base-2 logarithm within 1 ulp. -/
  | vlog2 (d : BitVec 8) (a : BitVec 8)
  /-- VSIN (R179): Sine within 1 ulp. -/
  | vsin (d : BitVec 8) (a : BitVec 8)
  /-- VCOS (R179): Cosine within 1 ulp. -/
  | vcos (d : BitVec 8) (a : BitVec 8)
  /-- VRINT (R179): Rounds to an integral value in the RND direction. -/
  | vrint (d : BitVec 8) (a : BitVec 8)
  /-- VAND (R181): Lane-wise and. -/
  | vand (d : BitVec 8) (a : BitVec 8) (b : BitVec 8)
  /-- VOR (R181): Lane-wise or. -/
  | vor (d : BitVec 8) (a : BitVec 8) (b : BitVec 8)
  /-- VXOR (R181): Lane-wise xor. -/
  | vxor (d : BitVec 8) (a : BitVec 8) (b : BitVec 8)
  /-- VANDN (R181): Lane-wise A and not B. -/
  | vandn (d : BitVec 8) (a : BitVec 8) (b : BitVec 8)
  /-- VSHL (R181): Element shift left. -/
  | vshl (d : BitVec 8) (a : BitVec 8) (b : BitVec 8)
  /-- VSHR (R181): Element shift right, logical or arithmetic. -/
  | vshr (d : BitVec 8) (a : BitVec 8) (b : BitVec 8)
  /-- VMULLO (R181): Low bits of the integer product. -/
  | vmullo (d : BitVec 8) (a : BitVec 8) (b : BitVec 8)
  /-- VMULHI (R181): High bits of the integer product. -/
  | vmulhi (d : BitVec 8) (a : BitVec 8) (b : BitVec 8)
  /-- VPOPC (R181): Element population count. -/
  | vpopc (d : BitVec 8) (a : BitVec 8)
  /-- VCLZ (R181): Element leading-zero count. -/
  | vclz (d : BitVec 8) (a : BitVec 8)
  /-- VCMP_EQ_F32 (R182): FP32 equal compare into a predicate. -/
  | vcmpEqF32 (d : BitVec 3) (a : BitVec 8) (b : BitVec 8)
  /-- VCMP_NE_F32 (R182): FP32 not-equal compare. -/
  | vcmpNeF32 (d : BitVec 3) (a : BitVec 8) (b : BitVec 8)
  /-- VCMP_LT_F32 (R182): FP32 less-than compare. -/
  | vcmpLtF32 (d : BitVec 3) (a : BitVec 8) (b : BitVec 8)
  /-- VCMP_LE_F32 (R182): FP32 less-or-equal compare. -/
  | vcmpLeF32 (d : BitVec 3) (a : BitVec 8) (b : BitVec 8)
  /-- VCMP_GT_F32 (R182): FP32 greater-than compare. -/
  | vcmpGtF32 (d : BitVec 3) (a : BitVec 8) (b : BitVec 8)
  /-- VCMP_GE_F32 (R182): FP32 greater-or-equal compare. -/
  | vcmpGeF32 (d : BitVec 3) (a : BitVec 8) (b : BitVec 8)
  /-- VCMP_EQ_I32 (R182): Signed equal compare. -/
  | vcmpEqI32 (d : BitVec 3) (a : BitVec 8) (b : BitVec 8)
  /-- VCMP_NE_I32 (R182): Signed not-equal compare. -/
  | vcmpNeI32 (d : BitVec 3) (a : BitVec 8) (b : BitVec 8)
  /-- VCMP_LT_I32 (R182): Signed less-than compare. -/
  | vcmpLtI32 (d : BitVec 3) (a : BitVec 8) (b : BitVec 8)
  /-- VCMP_LE_I32 (R182): Signed less-or-equal compare. -/
  | vcmpLeI32 (d : BitVec 3) (a : BitVec 8) (b : BitVec 8)
  /-- VCMP_GT_I32 (R182): Signed greater-than compare. -/
  | vcmpGtI32 (d : BitVec 3) (a : BitVec 8) (b : BitVec 8)
  /-- VCMP_GE_I32 (R182): Signed greater-or-equal compare. -/
  | vcmpGeI32 (d : BitVec 3) (a : BitVec 8) (b : BitVec 8)
  /-- VCMP_LT_N32 (R182): Unsigned less-than compare. -/
  | vcmpLtN32 (d : BitVec 3) (a : BitVec 8) (b : BitVec 8)
  /-- VCMP_LE_N32 (R182): Unsigned less-or-equal compare. -/
  | vcmpLeN32 (d : BitVec 3) (a : BitVec 8) (b : BitVec 8)
  /-- VCMP_GT_N32 (R182): Unsigned greater-than compare. -/
  | vcmpGtN32 (d : BitVec 3) (a : BitVec 8) (b : BitVec 8)
  /-- VCMP_GE_N32 (R182): Unsigned greater-or-equal compare. -/
  | vcmpGeN32 (d : BitVec 3) (a : BitVec 8) (b : BitVec 8)
  /-- VPACK (R184): Converts A and B into the two 16-bit elements of D. -/
  | vpack (d : BitVec 8) (a : BitVec 8) (b : BitVec 8)
  /-- VUNPLO (R185): Widens element 0 of each lane. -/
  | vunplo (d : BitVec 8) (a : BitVec 8)
  /-- VUNPHI (R185): Widens element 1 of each lane. -/
  | vunphi (d : BitVec 8) (a : BitVec 8)
  /-- VMOV (R187): Copies lane values. -/
  | vmov (d : BitVec 8) (a : BitVec 8)
  /-- VBCST (R187): Broadcasts lane S[B] mod 32 of A. -/
  | vbcst (d : BitVec 8) (a : BitVec 8) (b : BitVec 7)
  /-- VSHFL (R187): Gathers lanes of A indexed by B. -/
  | vshfl (d : BitVec 8) (a : BitVec 8) (b : BitVec 8)
  /-- VBFLY (R187): Butterfly exchange of lanes by xor with S[B]. -/
  | vbfly (d : BitVec 8) (a : BitVec 8) (b : BitVec 7)
  /-- VLSU (R187): Shifts lanes up by S[B]. -/
  | vlsu (d : BitVec 8) (a : BitVec 8) (b : BitVec 7)
  /-- VLSD (R187): Shifts lanes down by S[B]. -/
  | vlsd (d : BitVec 8) (a : BitVec 8) (b : BitVec 7)
  /-- VSCAN (R188): Inclusive prefix sum across taking-part lanes. -/
  | vscan (d : BitVec 8) (a : BitVec 8)
  /-- VDOT2 (R186): Two-term dot product added to D. -/
  | vdot2 (d : BitVec 8) (a : BitVec 8) (b : BitVec 8)
  /-- VADD_LONG (R177): Long twin of vadd. -/
  | vaddLong (d : BitVec 8) (a : BitVec 8) (b : BitVec 8) (l : VL)
  /-- VSUB_LONG (R177): Long twin of vsub. -/
  | vsubLong (d : BitVec 8) (a : BitVec 8) (b : BitVec 8) (l : VL)
  /-- VMUL_LONG (R177): Long twin of vmul. -/
  | vmulLong (d : BitVec 8) (a : BitVec 8) (b : BitVec 8) (l : VL)
  /-- VFMA_LONG (R177): Long twin of vfma with addend in C. -/
  | vfmaLong (d : BitVec 8) (a : BitVec 8) (b : BitVec 8) (l : VL)
  /-- VMIN_LONG (R178): Long twin of vmin. -/
  | vminLong (d : BitVec 8) (a : BitVec 8) (b : BitVec 8) (l : VL)
  /-- VMAX_LONG (R178): Long twin of vmax. -/
  | vmaxLong (d : BitVec 8) (a : BitVec 8) (b : BitVec 8) (l : VL)
  /-- VADDMIN_LONG (R177): Long twin of vaddmin with bound in C. -/
  | vaddminLong (d : BitVec 8) (a : BitVec 8) (b : BitVec 8) (l : VL)
  /-- VADDMAX_LONG (R177): Long twin of vaddmax with bound in C. -/
  | vaddmaxLong (d : BitVec 8) (a : BitVec 8) (b : BitVec 8) (l : VL)
  /-- VRCP_LONG (R179): Long twin of vrcp. -/
  | vrcpLong (d : BitVec 8) (a : BitVec 8) (l : VL)
  /-- VSQRT_LONG (R179): Long twin of vsqrt. -/
  | vsqrtLong (d : BitVec 8) (a : BitVec 8) (l : VL)
  /-- VRSQ_LONG (R179): Long twin of vrsq. -/
  | vrsqLong (d : BitVec 8) (a : BitVec 8) (l : VL)
  /-- VEXP2_LONG (R179): Long twin of vexp2. -/
  | vexp2Long (d : BitVec 8) (a : BitVec 8) (l : VL)
  /-- VLOG2_LONG (R179): Long twin of vlog2. -/
  | vlog2Long (d : BitVec 8) (a : BitVec 8) (l : VL)
  /-- VSIN_LONG (R179): Long twin of vsin. -/
  | vsinLong (d : BitVec 8) (a : BitVec 8) (l : VL)
  /-- VCOS_LONG (R179): Long twin of vcos. -/
  | vcosLong (d : BitVec 8) (a : BitVec 8) (l : VL)
  /-- VRINT_LONG (R179): Long twin of vrint. -/
  | vrintLong (d : BitVec 8) (a : BitVec 8) (l : VL)
  /-- VAND_LONG (R181): Long twin of vand. -/
  | vandLong (d : BitVec 8) (a : BitVec 8) (b : BitVec 8) (l : VL)
  /-- VOR_LONG (R181): Long twin of vor. -/
  | vorLong (d : BitVec 8) (a : BitVec 8) (b : BitVec 8) (l : VL)
  /-- VXOR_LONG (R181): Long twin of vxor. -/
  | vxorLong (d : BitVec 8) (a : BitVec 8) (b : BitVec 8) (l : VL)
  /-- VANDN_LONG (R181): Long twin of vandn. -/
  | vandnLong (d : BitVec 8) (a : BitVec 8) (b : BitVec 8) (l : VL)
  /-- VSHL_LONG (R181): Long twin of vshl. -/
  | vshlLong (d : BitVec 8) (a : BitVec 8) (b : BitVec 8) (l : VL)
  /-- VSHR_LONG (R181): Long twin of vshr. -/
  | vshrLong (d : BitVec 8) (a : BitVec 8) (b : BitVec 8) (l : VL)
  /-- VMULLO_LONG (R181): Long twin of vmullo. -/
  | vmulloLong (d : BitVec 8) (a : BitVec 8) (b : BitVec 8) (l : VL)
  /-- VMULHI_LONG (R181): Long twin of vmulhi. -/
  | vmulhiLong (d : BitVec 8) (a : BitVec 8) (b : BitVec 8) (l : VL)
  /-- VPOPC_LONG (R181): Long twin of vpopc. -/
  | vpopcLong (d : BitVec 8) (a : BitVec 8) (l : VL)
  /-- VCLZ_LONG (R181): Long twin of vclz. -/
  | vclzLong (d : BitVec 8) (a : BitVec 8) (l : VL)
  /-- VCMP_EQ_F32_LONG (R182): Long twin of vcmp.eq.f32. -/
  | vcmpEqF32Long (d : BitVec 3) (a : BitVec 8) (b : BitVec 8) (l : VL)
  /-- VCMP_NE_F32_LONG (R182): Long twin of vcmp.ne.f32. -/
  | vcmpNeF32Long (d : BitVec 3) (a : BitVec 8) (b : BitVec 8) (l : VL)
  /-- VCMP_LT_F32_LONG (R182): Long twin of vcmp.lt.f32. -/
  | vcmpLtF32Long (d : BitVec 3) (a : BitVec 8) (b : BitVec 8) (l : VL)
  /-- VCMP_LE_F32_LONG (R182): Long twin of vcmp.le.f32. -/
  | vcmpLeF32Long (d : BitVec 3) (a : BitVec 8) (b : BitVec 8) (l : VL)
  /-- VCMP_GT_F32_LONG (R182): Long twin of vcmp.gt.f32. -/
  | vcmpGtF32Long (d : BitVec 3) (a : BitVec 8) (b : BitVec 8) (l : VL)
  /-- VCMP_GE_F32_LONG (R182): Long twin of vcmp.ge.f32. -/
  | vcmpGeF32Long (d : BitVec 3) (a : BitVec 8) (b : BitVec 8) (l : VL)
  /-- VCMP_EQ_I32_LONG (R182): Long twin of vcmp.eq.i32. -/
  | vcmpEqI32Long (d : BitVec 3) (a : BitVec 8) (b : BitVec 8) (l : VL)
  /-- VCMP_NE_I32_LONG (R182): Long twin of vcmp.ne.i32. -/
  | vcmpNeI32Long (d : BitVec 3) (a : BitVec 8) (b : BitVec 8) (l : VL)
  /-- VCMP_LT_I32_LONG (R182): Long twin of vcmp.lt.i32. -/
  | vcmpLtI32Long (d : BitVec 3) (a : BitVec 8) (b : BitVec 8) (l : VL)
  /-- VCMP_LE_I32_LONG (R182): Long twin of vcmp.le.i32. -/
  | vcmpLeI32Long (d : BitVec 3) (a : BitVec 8) (b : BitVec 8) (l : VL)
  /-- VCMP_GT_I32_LONG (R182): Long twin of vcmp.gt.i32. -/
  | vcmpGtI32Long (d : BitVec 3) (a : BitVec 8) (b : BitVec 8) (l : VL)
  /-- VCMP_GE_I32_LONG (R182): Long twin of vcmp.ge.i32. -/
  | vcmpGeI32Long (d : BitVec 3) (a : BitVec 8) (b : BitVec 8) (l : VL)
  /-- VCMP_LT_N32_LONG (R182): Long twin of vcmp.lt.n32. -/
  | vcmpLtN32Long (d : BitVec 3) (a : BitVec 8) (b : BitVec 8) (l : VL)
  /-- VCMP_LE_N32_LONG (R182): Long twin of vcmp.le.n32. -/
  | vcmpLeN32Long (d : BitVec 3) (a : BitVec 8) (b : BitVec 8) (l : VL)
  /-- VCMP_GT_N32_LONG (R182): Long twin of vcmp.gt.n32. -/
  | vcmpGtN32Long (d : BitVec 3) (a : BitVec 8) (b : BitVec 8) (l : VL)
  /-- VCMP_GE_N32_LONG (R182): Long twin of vcmp.ge.n32. -/
  | vcmpGeN32Long (d : BitVec 3) (a : BitVec 8) (b : BitVec 8) (l : VL)
  /-- VPACK_LONG (R184): Long twin of vpack. -/
  | vpackLong (d : BitVec 8) (a : BitVec 8) (b : BitVec 8) (l : VL)
  /-- VUNPLO_LONG (R185): Long twin of vunplo. -/
  | vunploLong (d : BitVec 8) (a : BitVec 8) (l : VL)
  /-- VUNPHI_LONG (R185): Long twin of vunphi. -/
  | vunphiLong (d : BitVec 8) (a : BitVec 8) (l : VL)
  /-- VMOV_LONG (R187): Long twin of vmov. -/
  | vmovLong (d : BitVec 8) (a : BitVec 8) (l : VL)
  /-- VBCST_LONG (R187): Long twin of vbcst. -/
  | vbcstLong (d : BitVec 8) (a : BitVec 8) (b : BitVec 7) (l : VL)
  /-- VSHFL_LONG (R187): Long twin of vshfl. -/
  | vshflLong (d : BitVec 8) (a : BitVec 8) (b : BitVec 8) (l : VL)
  /-- VBFLY_LONG (R187): Long twin of vbfly. -/
  | vbflyLong (d : BitVec 8) (a : BitVec 8) (b : BitVec 7) (l : VL)
  /-- VLSU_LONG (R187): Long twin of vlsu. -/
  | vlsuLong (d : BitVec 8) (a : BitVec 8) (b : BitVec 7) (l : VL)
  /-- VLSD_LONG (R187): Long twin of vlsd. -/
  | vlsdLong (d : BitVec 8) (a : BitVec 8) (b : BitVec 7) (l : VL)
  /-- VSCAN_LONG (R188): Long twin of vscan. -/
  | vscanLong (d : BitVec 8) (a : BitVec 8) (l : VL)
  /-- VDOT2_LONG (R186): Long twin of vdot2. -/
  | vdot2Long (d : BitVec 8) (a : BitVec 8) (b : BitVec 8) (l : VL)
  /-- VLANE (R189): Writes each lane's own number. -/
  | vlane (d : BitVec 8)
  /-- VMOVS (R189): Broadcasts the low 32 bits of S[A] to every lane. -/
  | vmovs (d : BitVec 8) (a : BitVec 7)
  /-- VGETR (R190): Copies the vector register indexed by S[A]. -/
  | vgetr (d : BitVec 8) (a : BitVec 7)
  /-- VSETR (R190): Writes A into the vector register indexed by S[D]. -/
  | vsetr (d : BitVec 7) (a : BitVec 8)
  /-- VGETL (R191): Reads one lane into a scalar register. -/
  | vgetl (d : BitVec 7) (a : BitVec 8) (b : BitVec 7)
  /-- VPUTL (R191): Writes one lane from a scalar register. -/
  | vputl (d : BitVec 8) (a : BitVec 7) (b : BitVec 7)
  /-- VPAND (R192): Predicate and. -/
  | vpand (d : BitVec 3) (a : BitVec 3) (b : BitVec 3)
  /-- VPOR (R192): Predicate or. -/
  | vpor (d : BitVec 3) (a : BitVec 3) (b : BitVec 3)
  /-- VPXOR (R192): Predicate xor. -/
  | vpxor (d : BitVec 3) (a : BitVec 3) (b : BitVec 3)
  /-- VPANDN (R192): Predicate and-not. -/
  | vpandn (d : BitVec 3) (a : BitVec 3) (b : BitVec 3)
  /-- VPMOV (R193): Writes a predicate from S[A][31:0]. -/
  | vpmov (d : BitVec 3) (a : BitVec 7)
  /-- VPGET (R193): Reads a predicate into a scalar register. -/
  | vpget (d : BitVec 7) (a : BitVec 3)
  /-- VVALL (R194): Votes whether the predicate holds in every taking-part lane. -/
  | vvall (d : BitVec 7) (a : BitVec 3)
  /-- VVANY (R194): Votes whether the predicate holds in some taking-part lane. -/
  | vvany (d : BitVec 7) (a : BitVec 3)
  /-- VPCNT (R194): Counts taking-part lanes whose predicate bit is 1. -/
  | vpcnt (d : BitVec 7) (a : BitVec 3)
  /-- VMOVI (R189): Writes a signed 8-bit immediate to every lane. -/
  | vmovi (d : BitVec 8) (imm : BitVec 8)
  /-- VCVT (R196): Converts elements between formats, narrowing or widening across registers. -/
  | vcvt (d : BitVec 8) (a : BitVec 8) (dfmt : BitVec 8) (l : VL)
  /-- SLD_N8 (R247): Scalar load of an unsigned byte. -/
  | sldN8 (d : BitVec 7) (a : BitVec 7) (off : BitVec 9)
  /-- SLD_I8 (R247): Scalar load of a signed byte. -/
  | sldI8 (d : BitVec 7) (a : BitVec 7) (off : BitVec 9)
  /-- SLD_N16 (R247): Scalar load of an unsigned halfword. -/
  | sldN16 (d : BitVec 7) (a : BitVec 7) (off : BitVec 9)
  /-- SLD_I16 (R247): Scalar load of a signed halfword. -/
  | sldI16 (d : BitVec 7) (a : BitVec 7) (off : BitVec 9)
  /-- SLD_N32 (R247): Scalar load of an unsigned word. -/
  | sldN32 (d : BitVec 7) (a : BitVec 7) (off : BitVec 9)
  /-- SLD_I32 (R247): Scalar load of a signed word. -/
  | sldI32 (d : BitVec 7) (a : BitVec 7) (off : BitVec 9)
  /-- SLD_N64 (R247): Scalar load of a doubleword. -/
  | sldN64 (d : BitVec 7) (a : BitVec 7) (off : BitVec 9)
  /-- SST_N8 (R247): Scalar store of a byte. -/
  | sstN8 (d : BitVec 7) (a : BitVec 7) (off : BitVec 9)
  /-- SST_N16 (R247): Scalar store of a halfword. -/
  | sstN16 (d : BitVec 7) (a : BitVec 7) (off : BitVec 9)
  /-- SST_N32 (R247): Scalar store of a word. -/
  | sstN32 (d : BitVec 7) (a : BitVec 7) (off : BitVec 9)
  /-- SST_N64 (R247): Scalar store of a doubleword. -/
  | sstN64 (d : BitVec 7) (a : BitVec 7) (off : BitVec 9)
  /-- VLD (R248): Block load of 128-byte rows into vector registers. -/
  | vld (d : BitVec 8) (a : BitVec 7) (off : BitVec 9)
  /-- VST (R248): Block store of vector registers. -/
  | vst (d : BitVec 8) (a : BitVec 7) (off : BitVec 9)
  /-- VLDX (R248): Indexed per-lane load. -/
  | vldx (d : BitVec 8) (a : BitVec 7) (sc : Bool) (x : BitVec 8)
  /-- VSTX (R248): Indexed per-lane store. -/
  | vstx (d : BitVec 8) (a : BitVec 7) (sc : Bool) (x : BitVec 8)
  /-- VLDRO (R249): Block load through the read-only cache. -/
  | vldro (d : BitVec 8) (a : BitVec 7) (off : BitVec 9)
  /-- VLDROX (R249): Indexed load through the read-only cache. -/
  | vldrox (d : BitVec 8) (a : BitVec 7) (sc : Bool) (x : BitVec 8)
  /-- VLDV (R202): Block load from the vault. -/
  | vldv (d : BitVec 8) (a : BitVec 7) (off : BitVec 9)
  /-- VSTV (R202): Block store to the vault. -/
  | vstv (d : BitVec 8) (a : BitVec 7) (off : BitVec 9)
  /-- VLDVX (R251): Indexed load from the vault. -/
  | vldvx (d : BitVec 8) (a : BitVec 7) (sc : Bool) (x : BitVec 8)
  /-- VSTVX (R251): Indexed store to the vault. -/
  | vstvx (d : BitVec 8) (a : BitVec 7) (sc : Bool) (x : BitVec 8)
  /-- VSTS (R252): Stash store writing tile rows plain and transposed. -/
  | vsts (d : BitVec 8) (a : BitVec 7) (off : BitVec 9)
  /-- VAADD (R253): Atomic integer add with return. -/
  | vaadd (d : BitVec 8) (a : BitVec 7) (sc : Bool) (x : BitVec 8)
  /-- VAMIN (R253): Atomic minimum with return. -/
  | vamin (d : BitVec 8) (a : BitVec 7) (sc : Bool) (x : BitVec 8)
  /-- VAMAX (R253): Atomic maximum with return. -/
  | vamax (d : BitVec 8) (a : BitVec 7) (sc : Bool) (x : BitVec 8)
  /-- VAAND (R253): Atomic and with return. -/
  | vaand (d : BitVec 8) (a : BitVec 7) (sc : Bool) (x : BitVec 8)
  /-- VAOR (R253): Atomic or with return. -/
  | vaor (d : BitVec 8) (a : BitVec 7) (sc : Bool) (x : BitVec 8)
  /-- VAXOR (R253): Atomic xor with return. -/
  | vaxor (d : BitVec 8) (a : BitVec 7) (sc : Bool) (x : BitVec 8)
  /-- VAXCHG (R253): Atomic exchange. -/
  | vaxchg (d : BitVec 8) (a : BitVec 7) (sc : Bool) (x : BitVec 8)
  /-- VACAS (R253): Atomic compare-and-swap with the new value in D+1. -/
  | vacas (d : BitVec 8) (a : BitVec 7) (sc : Bool) (x : BitVec 8)
  /-- VAFADD (R253): Atomic FP32 add with return. -/
  | vafadd (d : BitVec 8) (a : BitVec 7) (sc : Bool) (x : BitVec 8)
  /-- VAFMIN (R253): Atomic floating minimum with return. -/
  | vafmin (d : BitVec 8) (a : BitVec 7) (sc : Bool) (x : BitVec 8)
  /-- VAFMAX (R253): Atomic floating maximum with return. -/
  | vafmax (d : BitVec 8) (a : BitVec 7) (sc : Bool) (x : BitVec 8)
  /-- VREDADD (R258): Integer add reduction without return. -/
  | vredadd (d : BitVec 8) (a : BitVec 7) (sc : Bool) (x : BitVec 8)
  /-- VREDMIN (R258): Integer minimum reduction. -/
  | vredmin (d : BitVec 8) (a : BitVec 7) (sc : Bool) (x : BitVec 8)
  /-- VREDMAX (R258): Integer maximum reduction. -/
  | vredmax (d : BitVec 8) (a : BitVec 7) (sc : Bool) (x : BitVec 8)
  /-- VREDAND (R258): And reduction. -/
  | vredand (d : BitVec 8) (a : BitVec 7) (sc : Bool) (x : BitVec 8)
  /-- VREDOR (R258): Or reduction. -/
  | vredor (d : BitVec 8) (a : BitVec 7) (sc : Bool) (x : BitVec 8)
  /-- VREDXOR (R258): Xor reduction. -/
  | vredxor (d : BitVec 8) (a : BitVec 7) (sc : Bool) (x : BitVec 8)
  /-- VREDFADD (R258): Floating add reduction into the reducing cache or an FP32 shadow. -/
  | vredfadd (d : BitVec 8) (a : BitVec 7) (sc : Bool) (x : BitVec 8)
  /-- VREDFMIN (R258): Floating minimum reduction. -/
  | vredfmin (d : BitVec 8) (a : BitVec 7) (sc : Bool) (x : BitVec 8)
  /-- VREDFMAX (R258): Floating maximum reduction. -/
  | vredfmax (d : BitVec 8) (a : BitVec 7) (sc : Bool) (x : BitVec 8)
  /-- SSEQADD (R260): Saturating add to a sequence counter, a release that re-evaluates waiting tasks. -/
  | sseqadd (d : BitVec 7) (a : BitVec 7) (off : BitVec 9)
  /-- SARWAIT (R261): Blocks until a vault arrival word reaches S[D]. -/
  | sarwait (d : BitVec 7) (a : BitVec 7) (off : BitVec 9)
  /-- SAADD (R256): Scalar atomic add with return. -/
  | saadd (d : BitVec 7) (a : BitVec 7) (off : BitVec 9)
  /-- SACAS (R256): Scalar atomic compare-and-swap. -/
  | sacas (d : BitVec 7) (a : BitVec 7) (off : BitVec 9)
  /-- FENCE (R262): Full fence on the named paths at a scope. -/
  | fence (paths : BitVec 8) (scope : BitVec 3)
  /-- FENCE_ACQ (R262): Acquire fence waiting for earlier reads. -/
  | fenceAcq (paths : BitVec 8) (scope : BitVec 3)
  /-- FENCE_REL (R262): Release fence waiting for earlier operations to be performed. -/
  | fenceRel (paths : BitVec 8) (scope : BitVec 3)
  /-- ROINV (R250): Drops every line of the core's read-only cache. -/
  | roinv
  /-- VPREF (R264): Prefetches the rows a vld would read. -/
  | vpref (a : BitVec 7) (off : BitVec 9)
  /-- SPREF (R264): Prefetches one line. -/
  | spref (a : BitVec 7) (off : BitVec 9)
  /-- SLD_N8_LONG (R247): Long twin of sld.n8. -/
  | sldN8Long (d : BitVec 7) (a : BitVec 7) (off : BitVec 9) (l : ML)
  /-- SLD_I8_LONG (R247): Long twin of sld.i8. -/
  | sldI8Long (d : BitVec 7) (a : BitVec 7) (off : BitVec 9) (l : ML)
  /-- SLD_N16_LONG (R247): Long twin of sld.n16. -/
  | sldN16Long (d : BitVec 7) (a : BitVec 7) (off : BitVec 9) (l : ML)
  /-- SLD_I16_LONG (R247): Long twin of sld.i16. -/
  | sldI16Long (d : BitVec 7) (a : BitVec 7) (off : BitVec 9) (l : ML)
  /-- SLD_N32_LONG (R247): Long twin of sld.n32, with acquire and scope. -/
  | sldN32Long (d : BitVec 7) (a : BitVec 7) (off : BitVec 9) (l : ML)
  /-- SLD_I32_LONG (R247): Long twin of sld.i32. -/
  | sldI32Long (d : BitVec 7) (a : BitVec 7) (off : BitVec 9) (l : ML)
  /-- SLD_N64_LONG (R247): Long twin of sld.n64. -/
  | sldN64Long (d : BitVec 7) (a : BitVec 7) (off : BitVec 9) (l : ML)
  /-- SST_N8_LONG (R247): Long twin of sst.n8. -/
  | sstN8Long (d : BitVec 7) (a : BitVec 7) (off : BitVec 9) (l : ML)
  /-- SST_N16_LONG (R247): Long twin of sst.n16. -/
  | sstN16Long (d : BitVec 7) (a : BitVec 7) (off : BitVec 9) (l : ML)
  /-- SST_N32_LONG (R247): Long twin of sst.n32, with release and scope. -/
  | sstN32Long (d : BitVec 7) (a : BitVec 7) (off : BitVec 9) (l : ML)
  /-- SST_N64_LONG (R247): Long twin of sst.n64. -/
  | sstN64Long (d : BitVec 7) (a : BitVec 7) (off : BitVec 9) (l : ML)
  /-- VLD_LONG (R248): Long twin of vld. -/
  | vldLong (d : BitVec 8) (a : BitVec 7) (off : BitVec 9) (l : ML)
  /-- VST_LONG (R248): Long twin of vst. -/
  | vstLong (d : BitVec 8) (a : BitVec 7) (off : BitVec 9) (l : ML)
  /-- VLDX_LONG (R248): Long twin of vldx with an element format. -/
  | vldxLong (d : BitVec 8) (a : BitVec 7) (sc : Bool) (x : BitVec 8) (l : ML)
  /-- VSTX_LONG (R248): Long twin of vstx. -/
  | vstxLong (d : BitVec 8) (a : BitVec 7) (sc : Bool) (x : BitVec 8) (l : ML)
  /-- VLDRO_LONG (R249): Long twin of vldro. -/
  | vldroLong (d : BitVec 8) (a : BitVec 7) (off : BitVec 9) (l : ML)
  /-- VLDROX_LONG (R249): Long twin of vldrox. -/
  | vldroxLong (d : BitVec 8) (a : BitVec 7) (sc : Bool) (x : BitVec 8) (l : ML)
  /-- VLDV_LONG (R202): Long twin of vldv. -/
  | vldvLong (d : BitVec 8) (a : BitVec 7) (off : BitVec 9) (l : ML)
  /-- VSTV_LONG (R202): Long twin of vstv. -/
  | vstvLong (d : BitVec 8) (a : BitVec 7) (off : BitVec 9) (l : ML)
  /-- VLDVX_LONG (R251): Long twin of vldvx. -/
  | vldvxLong (d : BitVec 8) (a : BitVec 7) (sc : Bool) (x : BitVec 8) (l : ML)
  /-- VSTVX_LONG (R251): Long twin of vstvx. -/
  | vstvxLong (d : BitVec 8) (a : BitVec 7) (sc : Bool) (x : BitVec 8) (l : ML)
  /-- VSTS_LONG (R252): Long twin of vsts. -/
  | vstsLong (d : BitVec 8) (a : BitVec 7) (off : BitVec 9) (l : ML)
  /-- VAADD_LONG (R253): Long twin of vaadd. -/
  | vaaddLong (d : BitVec 8) (a : BitVec 7) (sc : Bool) (x : BitVec 8) (l : ML)
  /-- VAMIN_LONG (R253): Long twin of vamin. -/
  | vaminLong (d : BitVec 8) (a : BitVec 7) (sc : Bool) (x : BitVec 8) (l : ML)
  /-- VAMAX_LONG (R253): Long twin of vamax. -/
  | vamaxLong (d : BitVec 8) (a : BitVec 7) (sc : Bool) (x : BitVec 8) (l : ML)
  /-- VAAND_LONG (R253): Long twin of vaand. -/
  | vaandLong (d : BitVec 8) (a : BitVec 7) (sc : Bool) (x : BitVec 8) (l : ML)
  /-- VAOR_LONG (R253): Long twin of vaor. -/
  | vaorLong (d : BitVec 8) (a : BitVec 7) (sc : Bool) (x : BitVec 8) (l : ML)
  /-- VAXOR_LONG (R253): Long twin of vaxor. -/
  | vaxorLong (d : BitVec 8) (a : BitVec 7) (sc : Bool) (x : BitVec 8) (l : ML)
  /-- VAXCHG_LONG (R253): Long twin of vaxchg. -/
  | vaxchgLong (d : BitVec 8) (a : BitVec 7) (sc : Bool) (x : BitVec 8) (l : ML)
  /-- VACAS_LONG (R253): Long twin of vacas. -/
  | vacasLong (d : BitVec 8) (a : BitVec 7) (sc : Bool) (x : BitVec 8) (l : ML)
  /-- VAFADD_LONG (R253): Long twin of vafadd. -/
  | vafaddLong (d : BitVec 8) (a : BitVec 7) (sc : Bool) (x : BitVec 8) (l : ML)
  /-- VAFMIN_LONG (R253): Long twin of vafmin. -/
  | vafminLong (d : BitVec 8) (a : BitVec 7) (sc : Bool) (x : BitVec 8) (l : ML)
  /-- VAFMAX_LONG (R253): Long twin of vafmax. -/
  | vafmaxLong (d : BitVec 8) (a : BitVec 7) (sc : Bool) (x : BitVec 8) (l : ML)
  /-- VREDADD_LONG (R258): Long twin of vredadd. -/
  | vredaddLong (d : BitVec 8) (a : BitVec 7) (sc : Bool) (x : BitVec 8) (l : ML)
  /-- VREDMIN_LONG (R258): Long twin of vredmin. -/
  | vredminLong (d : BitVec 8) (a : BitVec 7) (sc : Bool) (x : BitVec 8) (l : ML)
  /-- VREDMAX_LONG (R258): Long twin of vredmax. -/
  | vredmaxLong (d : BitVec 8) (a : BitVec 7) (sc : Bool) (x : BitVec 8) (l : ML)
  /-- VREDAND_LONG (R258): Long twin of vredand. -/
  | vredandLong (d : BitVec 8) (a : BitVec 7) (sc : Bool) (x : BitVec 8) (l : ML)
  /-- VREDOR_LONG (R258): Long twin of vredor. -/
  | vredorLong (d : BitVec 8) (a : BitVec 7) (sc : Bool) (x : BitVec 8) (l : ML)
  /-- VREDXOR_LONG (R258): Long twin of vredxor. -/
  | vredxorLong (d : BitVec 8) (a : BitVec 7) (sc : Bool) (x : BitVec 8) (l : ML)
  /-- VREDFADD_LONG (R258): Long twin of vredfadd, selecting a BF16 or binary8 shadow format. -/
  | vredfaddLong (d : BitVec 8) (a : BitVec 7) (sc : Bool) (x : BitVec 8) (l : ML)
  /-- VREDFMIN_LONG (R258): Long twin of vredfmin. -/
  | vredfminLong (d : BitVec 8) (a : BitVec 7) (sc : Bool) (x : BitVec 8) (l : ML)
  /-- VREDFMAX_LONG (R258): Long twin of vredfmax. -/
  | vredfmaxLong (d : BitVec 8) (a : BitVec 7) (sc : Bool) (x : BitVec 8) (l : ML)
  /-- SSEQADD_LONG (R260): Long twin of sseqadd. -/
  | sseqaddLong (d : BitVec 7) (a : BitVec 7) (off : BitVec 9) (l : ML)
  /-- SARWAIT_LONG (R261): Long twin of sarwait. -/
  | sarwaitLong (d : BitVec 7) (a : BitVec 7) (off : BitVec 9) (l : ML)
  /-- SAADD_LONG (R256): Long twin of saadd with a 32-bit format. -/
  | saaddLong (d : BitVec 7) (a : BitVec 7) (off : BitVec 9) (l : ML)
  /-- SACAS_LONG (R256): Long twin of sacas. -/
  | sacasLong (d : BitVec 7) (a : BitVec 7) (off : BitVec 9) (l : ML)
  /-- MMA (R426): Multiplies X by the transpose of Y into a tile, unit by unit. -/
  | mma (t : BitVec 7) (x : BitVec 5) (y : BitVec 5) (qn : Bool) (q : BitVec 4)
  /-- MDUAL (R427): Computes G times X transpose and Y transpose times G into two tiles. -/
  | mdual (t : BitVec 7) (x : BitVec 5) (y : BitVec 5) (qn : Bool) (q : BitVec 4)
  /-- MCLR (R428): Sets every element of a tile to +0. -/
  | mclr (t : BitVec 7) (qn : Bool) (q : BitVec 4)
  /-- MDRAIN (R429): Writes a tile's rows to memory or a ring stage. -/
  | mdrain (t : BitVec 7) (x : BitVec 5) (qn : Bool) (q : BitVec 4)
  /-- MSTASH (R393): Writes a tile plain and transposed. -/
  | mstash (t : BitVec 7) (x : BitVec 5) (qn : Bool) (q : BitVec 4)
  /-- MMAXR (R430): Writes and resets the maximum-magnitude capture. -/
  | mmaxr (x : BitVec 5) (qn : Bool) (q : BitVec 4)
  /-- MMA_LONG (R426): Long twin of mma with the ZA bit. -/
  | mmaLong (t : BitVec 7) (x : BitVec 5) (y : BitVec 5) (qn : Bool) (q : BitVec 4) (imm : BitVec 32)
  /-- MDUAL_LONG (R427): Long twin of mdual naming the G source. -/
  | mdualLong (t : BitVec 7) (x : BitVec 5) (y : BitVec 5) (qn : Bool) (q : BitVec 4) (imm : BitVec 32)
  /-- MDRAIN_LONG (R429): Long twin of mdrain with a conversion word. -/
  | mdrainLong (t : BitVec 7) (x : BitVec 5) (qn : Bool) (q : BitVec 4) (imm : BitVec 32)
  /-- MSTASH_LONG (R429): Long twin of mstash with a conversion word. -/
  | mstashLong (t : BitVec 7) (x : BitVec 5) (qn : Bool) (q : BitVec 4) (imm : BitVec 32)
  /-- MRING_CONFIG (R384): Copies descriptor md N into ring N. -/
  | mringConfig (n : BitVec 8)
  /-- MRING_ADVANCE (R384): Advances a ring's head and may arrive at its free barrier. -/
  | mringAdvance (n : BitVec 8)
  /-- MTQSET (R431): Sets a tile predicate from an immediate or a memory word. -/
  | mtqset (n : BitVec 8) (imm : BitVec 16)
  /-- MWAIT (R382): Sequencer arrives at a numbered barrier and waits for it to pass. -/
  | mwait (n : BitVec 8)
  /-- MARRIVE (R382): Sequencer arrives at a numbered barrier without waiting. -/
  | marrive (n : BitVec 8)
  /-- MFMT (R385): Loads the operand format block. -/
  | mfmt (n : BitVec 8)
  /-- MEND (R369): Ends the matrix stream once its drains are written. -/
  | mend
  /-- MREUSE (R392): Lets the next tile instruction take held operands. -/
  | mreuse (sel : BitVec 3)
  /-- MNOP (R431): No effect. -/
  | mnop
  /-- MFMT_LONG (R385): Long twin of mfmt with an offset. -/
  | mfmtLong (n : BitVec 8) (imm : BitVec 32)
  /-- MDESC (R431): Loads a descriptor from the argument block. -/
  | mdesc (n : BitVec 8) (imm : BitVec 32)
  /-- MLOOP (R432): Pushes a sequencer counted loop. -/
  | mloop (count : BitVec 16) (off : BitVec 32)
  /-- MBRA (R432): Branches on a tile predicate. -/
  | mbra (n : BitVec 8) (inv : Bool) (off : BitVec 32)
  /-- KEMIT (R352): Appends one key record per lane to a key buffer. -/
  | kemit (d : BitVec 8) (a : BitVec 7) (b : BitVec 7)
  /-- SRTRUN (R353): Submits a radix sort command. -/
  | srtrun (d : BitVec 7) (a : BitVec 7) (b : BitVec 7)
  /-- SRTMRG (R353): Submits a merge of up to 16 runs. -/
  | srtmrg (d : BitVec 7) (a : BitVec 7) (b : BitVec 7)
  /-- SRTTAB (R353): Submits a range-table command. -/
  | srttab (d : BitVec 7) (a : BitVec 7) (b : BitVec 7)
  /-- VBLEND (R355): Blends one list entry front to back over a tile. -/
  | vblend (d : BitVec 7) (a : BitVec 7) (b : BitVec 7)
  /-- VBLENDG (R356): Replays one list entry back to front, producing its gradient record. -/
  | vblendg (d : BitVec 7) (a : BitVec 7) (b : BitVec 7)
  /-- GDEG (R359): Submits a deduplicating gather. -/
  | gdeg (d : BitVec 7) (a : BitVec 7) (b : BitVec 7)
  /-- GDES (R360): Submits a scatter-add. -/
  | gdes (d : BitVec 7) (a : BitVec 7) (b : BitVec 7)
  /-- CLAIM_POST (R285): Posts one item with its claimed pitches per lane. -/
  | claimPost (d : BitVec 7) (a : BitVec 7) (b : BitVec 7)
  /-- CLAIM_TAKE (R286): Fetches the items admitted to this body wave. -/
  | claimTake (d : BitVec 7) (a : BitVec 7) (b : BitVec 7)
  /-- CLAIM_DONE (R362): Releases the body wave's pitches. -/
  | claimDone (d : BitVec 7)
  /-- TASK_PUSH (R363): Pushes a record into a node bin. -/
  | taskPush (d : BitVec 7) (a : BitVec 7) (b : BitVec 7)
  /-- TASK_SPAWN (R364): Submits a launch record to readiness. -/
  | taskSpawn (d : BitVec 7) (a : BitVec 7) (b : BitVec 7)
  /-- WPSET (R365): Arms a memory watchpoint. -/
  | wpset (d : BitVec 7) (a : BitVec 7) (b : BitVec 7)
  /-- WPCLR (R366): Disarms a watchpoint by handle. -/
  | wpclr (d : BitVec 7) (a : BitVec 7)
  /-- CPY (R433): Submits an ad hoc copy. -/
  | cpy (d : BitVec 7) (a : BitVec 7) (b : BitVec 7)
  /-- CPYM (R438): Parks rows in a crossbar holding slot. -/
  | cpym (d : BitVec 7) (a : BitVec 7) (b : BitVec 7)
  /-- CPYDRN (R438): Drains a parked slot into the vault. -/
  | cpydrn (d : BitVec 7) (a : BitVec 7) (b : BitVec 7)
  /-- CSTAGE (R437): Advances the stage counter releasing copy-schedule entries. -/
  | cstage (d : BitVec 7) (a : BitVec 7)
  /-- COL_RUN (R370): Hands a collective program to the collective engine. -/
  | colRun (d : BitVec 7) (a : BitVec 7) (b : BitVec 7)
  /-- COL_SEND (R373): Program word: stages remote stores of the current slot. -/
  | colSend (a : BitVec 7) (b : BitVec 7)
  /-- COL_RED (R373): Program word: adds a slot into another locally. -/
  | colRed (a : BitVec 7) (b : BitVec 7)
  /-- COL_STEP (R373): Program word: arrives at the pod step boundary and waits for its outcome. -/
  | colStep
  /-- COL_END (R373): Program word: ends the program once its writes are performed. -/
  | colEnd
  /-- COL_SIG (R373): Program word: adds to a sequence counter as sseqadd does. -/
  | colSig (a : BitVec 7) (b : BitVec 7)
  /-- FBLKW (R443): Bulk remote write, optionally counted into an arrival entry. -/
  | fblkw (d : BitVec 7) (a : BitVec 7) (b : BitVec 7)
  /-- FBLKR (R444): Bulk remote read into local memory. -/
  | fblkr (d : BitVec 7) (a : BitVec 7) (b : BitVec 7)
  /-- FLD (R445): Loads one remote doubleword. -/
  | fld (d : BitVec 7) (a : BitVec 7)
  /-- FST (R445): Stores one remote doubleword and reports its step. -/
  | fst (d : BitVec 7) (a : BitVec 7) (b : BitVec 7)
  /-- STEP_ARRIVE (R446): Marks the wave arrived at the current step. -/
  | stepArrive (d : BitVec 7)
  /-- STEP_WAIT (R446): Waits for the outcome of the wave's step. -/
  | stepWait (d : BitVec 7)
  /-- ARRTGT (R447): Arms an arrival entry. -/
  | arrtgt (d : BitVec 7) (a : BitVec 7)
  /-- LNKDRN (R448): Sends drain markers on a port's data channels. -/
  | lnkdrn (d : BitVec 7) (a : BitVec 7)
  /-- LNKCTL_READ (R448): lnkctl operation 0: reports the port state. -/
  | lnkctlRead (d : BitVec 7) (a : BitVec 7) (b : BitVec 7)
  /-- LNKCTL_HOLD (R448): lnkctl operation 1: puts the port in HELD, or records a HOLD on a DOWN port. -/
  | lnkctlHold (d : BitVec 7) (a : BitVec 7) (b : BitVec 7)
  /-- LNKCTL_RELEASE (R448): lnkctl operation 2: returns a port held by HOLD to UP. -/
  | lnkctlRelease (d : BitVec 7) (a : BitVec 7) (b : BitVec 7)
  /-- LNKCTL_DISABLE (R448): lnkctl operation 3: turns the laser off, taking the port DOWN. -/
  | lnkctlDisable (d : BitVec 7) (a : BitVec 7) (b : BitVec 7)
  /-- LNKCTL_ENABLE (R448): lnkctl operation 4: makes the port try to lock. -/
  | lnkctlEnable (d : BitVec 7) (a : BitVec 7) (b : BitVec 7)
  /-- KEMIT_LONG (R352): Long twin of kemit. -/
  | kemitLong (d : BitVec 8) (a : BitVec 7) (b : BitVec 7) (l : EL)
  /-- SRTRUN_LONG (R353): Long twin of srtrun with release and acquire. -/
  | srtrunLong (d : BitVec 7) (a : BitVec 7) (b : BitVec 7) (l : EL)
  /-- SRTMRG_LONG (R353): Long twin of srtmrg. -/
  | srtmrgLong (d : BitVec 7) (a : BitVec 7) (b : BitVec 7) (l : EL)
  /-- SRTTAB_LONG (R353): Long twin of srttab. -/
  | srttabLong (d : BitVec 7) (a : BitVec 7) (b : BitVec 7) (l : EL)
  /-- VBLEND_LONG (R355): Long twin of vblend. -/
  | vblendLong (d : BitVec 7) (a : BitVec 7) (b : BitVec 7) (l : EL)
  /-- VBLENDG_LONG (R356): Long twin of vblendg. -/
  | vblendgLong (d : BitVec 7) (a : BitVec 7) (b : BitVec 7) (l : EL)
  /-- GDEG_LONG (R359): Long twin of gdeg. -/
  | gdegLong (d : BitVec 7) (a : BitVec 7) (b : BitVec 7) (l : EL)
  /-- GDES_LONG (R360): Long twin of gdes. -/
  | gdesLong (d : BitVec 7) (a : BitVec 7) (b : BitVec 7) (l : EL)
  /-- CLAIM_POST_LONG (R285): Long twin of claim.post. -/
  | claimPostLong (d : BitVec 7) (a : BitVec 7) (b : BitVec 7) (l : EL)
  /-- CLAIM_TAKE_LONG (R286): Long twin of claim.take. -/
  | claimTakeLong (d : BitVec 7) (a : BitVec 7) (b : BitVec 7) (l : EL)
  /-- CLAIM_DONE_LONG (R362): Long twin of claim.done. -/
  | claimDoneLong (d : BitVec 7) (l : EL)
  /-- TASK_PUSH_LONG (R363): Long twin of task.push. -/
  | taskPushLong (d : BitVec 7) (a : BitVec 7) (b : BitVec 7) (l : EL)
  /-- TASK_SPAWN_LONG (R364): Long twin of task.spawn. -/
  | taskSpawnLong (d : BitVec 7) (a : BitVec 7) (b : BitVec 7) (l : EL)
  /-- WPSET_LONG (R365): Long twin of wpset. -/
  | wpsetLong (d : BitVec 7) (a : BitVec 7) (b : BitVec 7) (l : EL)
  /-- WPCLR_LONG (R366): Long twin of wpclr. -/
  | wpclrLong (d : BitVec 7) (a : BitVec 7) (l : EL)
  /-- CPY_LONG (R433): Long twin of cpy; also the form of a copy-schedule entry. -/
  | cpyLong (d : BitVec 7) (a : BitVec 7) (b : BitVec 7) (l : EL)
  /-- CPYM_LONG (R438): Long twin of cpym; also a schedule entry form. -/
  | cpymLong (d : BitVec 7) (a : BitVec 7) (b : BitVec 7) (l : EL)
  /-- CPYDRN_LONG (R438): Long twin of cpydrn. -/
  | cpydrnLong (d : BitVec 7) (a : BitVec 7) (b : BitVec 7) (l : EL)
  /-- CSTAGE_LONG (R437): Long twin of cstage. -/
  | cstageLong (d : BitVec 7) (a : BitVec 7) (l : EL)
  /-- COL_RUN_LONG (R370): Long twin of col.run. -/
  | colRunLong (d : BitVec 7) (a : BitVec 7) (b : BitVec 7) (l : EL)
  /-- FBLKW_LONG (R443): Long twin of fblkw with RLX. -/
  | fblkwLong (d : BitVec 7) (a : BitVec 7) (b : BitVec 7) (l : EL)
  /-- FBLKR_LONG (R444): Long twin of fblkr. -/
  | fblkrLong (d : BitVec 7) (a : BitVec 7) (b : BitVec 7) (l : EL)
  /-- FLD_LONG (R445): Long twin of fld. -/
  | fldLong (d : BitVec 7) (a : BitVec 7) (l : EL)
  /-- FST_LONG (R445): Long twin of fst. -/
  | fstLong (d : BitVec 7) (a : BitVec 7) (b : BitVec 7) (l : EL)
  /-- STEP_ARRIVE_LONG (R446): Long twin of step.arrive. -/
  | stepArriveLong (d : BitVec 7) (l : EL)
  /-- STEP_WAIT_LONG (R446): Long twin of step.wait. -/
  | stepWaitLong (d : BitVec 7) (l : EL)
  /-- ARRTGT_LONG (R447): Long twin of arrtgt. -/
  | arrtgtLong (d : BitVec 7) (a : BitVec 7) (l : EL)
  /-- LNKDRN_LONG (R448): Long twin of lnkdrn. -/
  | lnkdrnLong (d : BitVec 7) (a : BitVec 7) (l : EL)
  /-- LNKCTL_LONG (R448): Long twin of lnkctl. -/
  | lnkctlLong (d : BitVec 7) (a : BitVec 7) (b : BitVec 7) (l : EL)
  /-- CLAUSE_FETCH (R60): A wave or sequencer fetches a clause header and its words and checks the header. -/
  | clauseFetch
  /-- CLAUSE_WAIT_MET (R60): The header's wait conditions hold together and the first instruction may issue. -/
  | clauseWaitMet
  /-- WATCHDOG_BUDGET (R49): ICOUNT reaches a nonzero BUDGET and WATCHDOG replaces the next issue. -/
  | watchdogBudget
  /-- WATCHDOG_STALL (R49): A wave stays blocked for the stall limit and raises WATCHDOG. -/
  | watchdogStall
  /-- IMPRECISE_FAULT_DELIVER (R458): An imprecise fault returns through the tracker and is delivered to its wave or recorded. -/
  | impreciseFaultDeliver (w : Nat)
  /-- LOAD_DATA_ARRIVE (R80): A load's data returns and fills its destination registers. -/
  | loadDataArrive (op : Nat)
  /-- ATOMIC_RESULT_RETURN (R257): An atomic with return delivers its old values, or meets a memory-side fault with a done mask. -/
  | atomicResultReturn (op : Nat)
  /-- TRACKER_ACK (R42): A store, copy or atomic without return is acknowledged and frees its tracker entry. -/
  | trackerAck (op : Nat)
  /-- REDUCE_FLUSH_APPLY (R227): The memory controller applies a flushed REDUCE line to HBM4. -/
  | reduceFlushApply (line : Nat)
  /-- PAGE_WALK (R241): A free walker takes the oldest queued TLB miss and walks the tables. -/
  | pageWalk
  /-- BIN_TIMER_EXPIRE (R332): A bin timer reaches 0 and the bin closes its batch. -/
  | binTimerExpire (die : Nat) (node : Nat)
  /-- GANG_PLACE (R342): The dispatcher places a ready gang on a quad that fits it. -/
  | gangPlace (die : Nat)
  /-- GANG_AGE (R341): A gang waits AGE cycles at a level and moves up one level. -/
  | gangAge (entry : Nat)
  /-- GANG_BLOCKING (R342): A passed-over head waits AGE cycles and becomes blocking. -/
  | gangBlocking (entry : Nat)
  /-- SAVE_BUDGET_EXPIRE (R466): The save budget runs out and the remaining waves are stopped and saved whole. -/
  | saveBudgetExpire (gang : Nat)
  /-- SAVE_WRITE (R466): Once waves, copies, sequencer and tracker are quiet, the gang image is written and resources freed. -/
  | saveWrite (gang : Nat)
  /-- GANG_RESTORE (R470): A saved gang is rebuilt from its image on a quad before any wave issues. -/
  | gangRestore (gang : Nat) (die : Nat)
  /-- GANG_RETIRE (R47): A gang whose waves ended and whose sequencers, copies and tracker are done retires. -/
  | gangRetire (gang : Nat)
  /-- LAUNCH_COMPLETION (R339): Every access of a launch is performed and its completion record is written. -/
  | launchCompletion (launch : Nat)
  /-- BODY_PHASE_START (R312): Every scout wave has ended and drained, so the reserving loop enters its body phase. -/
  | bodyPhaseStart (launch : Nat)
  /-- BODY_WAVE_FORM (R317): A wave former requests pitches for candidates and places a body wave. -/
  | bodyWaveForm (launch : Nat) (die : Nat)
  /-- PITCH_REQUEST (R316): A home slice applies a pitch request and grants or denies it. -/
  | pitchRequest (req : Nat)
  /-- PITCH_RELEASE (R316): A home slice applies a release of a HELD pitch. -/
  | pitchRelease (rel : Nat)
  /-- SORT_START (R302): The sort engine takes its next queued command and runs it. -/
  | sortStart (die : Nat)
  /-- GDE_START (R350): The gather-dedup engine starts a queued command. -/
  | gdeStart (die : Nat)
  /-- COPY_START (R436): The copy engine starts a queued copy command. -/
  | copyStart (quad : Nat)
  /-- SCHEDULE_ENTRY_START (R437): A released copy-schedule entry starts. -/
  | scheduleEntryStart (gang : Nat)
  /-- COLLECTIVE_START (R370): The collective engine starts the next queued program. -/
  | collectiveStart
  /-- ENGINE_COMPLETION (R350): An engine command finishes and writes its completion word, or forwards it for a saved gang. -/
  | engineCompletion (cmd : Nat)
  /-- CHAIN_TAIL_WRITE (R490): The host raises a chain's TAIL, waking the device if idle. -/
  | chainTailWrite (c : Nat) (tail : BitVec 64)
  /-- CHAIN_ENABLE (R490): The host sets or clears ENABLE of a chain. -/
  | chainEnable (c : Nat) (on : Bool)
  /-- CHAIN_RESET (R490): RESET sets HEAD to TAIL, clears STATUS and accepts any SEQ. -/
  | chainReset (c : Nat)
  /-- CHAIN_LAUNCH (R325): A LAUNCH entry is read and submitted to readiness. -/
  | chainLaunch (c : Nat)
  /-- CHAIN_SIGNAL (R325): A SIGNAL entry adds VALUE to a counter as sseqadd. -/
  | chainSignal (c : Nat)
  /-- CHAIN_NODEDEF (R331): A NODEDEF entry installs a node on all dies. -/
  | chainNodedef (c : Nat)
  /-- CHAIN_NOP (R325): A NOP entry completes at once. -/
  | chainNop (c : Nat)
  /-- LAUNCH_PACKET_SEND (R338): A write of 1 to LPGO sends a launch packet. -/
  | launchPacketSend (go : BitVec 64)
  /-- LAUNCH_PACKET_ACK (R338): The target acknowledges a launch packet and LPGO reads 0. -/
  | launchPacketAck
  /-- LAUNCH_PACKET_RECEIVE (R337): A launch packet arrives and enters readiness or is refused. -/
  | launchPacketReceive (pkt : LaunchPacket)
  /-- RESIDENCY_REPORT_RECEIVE (R338): A residency report arrives and is written into the report ring or dropped. -/
  | residencyReportReceive (rep : Report)
  /-- PIECE_ARRIVE (R403): A write piece arrives at its target, is checked and staged or denied. -/
  | pieceArrive (piece : Piece)
  /-- PIECE_ACK (R401): An acknowledgement or negative acknowledgement of a piece reaches its source. -/
  | pieceAck (dst : BitVec 16) (step : BitVec 64) (seqNo : Nat) (denied : Bool)
  /-- PIECE_RETRANSMIT (R418): RETX expires for an unacknowledged piece and it is resent. -/
  | pieceRetransmit (dst : BitVec 16) (step : BitVec 64) (seqNo : Nat)
  /-- REMOTE_READ_REQUEST (R405): A target serves a remote read request with committed state and overlay. -/
  | remoteReadRequest (req : ReadReq)
  /-- REMOTE_READ_REPLY (R401): A remote read reply arrives and fills the destination. -/
  | remoteReadReply (req : Nat) (data : List (BitVec 8)) (denied : Bool)
  /-- VC_ESCAPE (R399): A packet's progress timer expires and it moves to an escape channel. -/
  | vcEscape (glob : Bool) (port : Nat) (crossed : Bool)
  /-- STEP_ARRIVED_SEND (R414): A device's arrival conditions hold and it sends ARRIVED or LOST to the root. -/
  | stepArrivedSend
  /-- STEP_ARRIVED_RECEIVE (R415): The root receives ARRIVED and commits when all members have arrived. -/
  | stepArrivedReceive (dev : BitVec 16) (step : BitVec 64) (msg : Arrived)
  /-- STEP_LOST_RECEIVE (R415): The root receives LOST and aborts the step. -/
  | stepLostReceive (dev : BitVec 16) (step : BitVec 64)
  /-- STEP_OPEN_RECEIVE (R408): A member receives OPEN from the root for a step with no participant. -/
  | stepOpenReceive (step : BitVec 64)
  /-- STEP_TIMEOUT (R415): STEPTO elapses with a member missing and the root aborts the step. -/
  | stepTimeout
  /-- STEP_COMMIT (R416): A member receives COMMIT and applies the step's pieces and arrival words. -/
  | stepCommit (msg : Commit)
  /-- STEP_ABORT (R417): A member receives ABORT and discards the step's pieces. -/
  | stepAbort (step : BitVec 64)
  /-- STEP_OUTCOME_ACK (R415): The root receives a member's acknowledgement of an outcome. -/
  | stepOutcomeAck (dev : BitVec 16) (step : BitVec 64)
  /-- STEP_APPLY_COMPLETE (R416): Every element of a committed step is performed and waiting step waits complete. -/
  | stepApplyComplete
  /-- LINK_LOSS (R423): A port loses light or lock and goes DOWN. -/
  | linkLoss (glob : Bool) (port : Nat)
  /-- LINK_LOCK (R423): A port regains lock, going UP or HELD on a changed neighbour. -/
  | linkLock (glob : Bool) (port : Nat) (nbr : BitVec 16)
  /-- NO_ROUTE_TIMEOUT (R423): No route to a target for STEPTO, so the source sends LOST. -/
  | noRouteTimeout (dst : BitVec 16)
  /-- DRAIN_MARKER_RETURN (R448): The neighbour returns every drain marker and lnkdrn completes. -/
  | drainMarkerReturn (cmd : Nat)
  /-- LINK_ENABLE_TIMEOUT (R448): An ENABLE gets no lock within 100 ms and completes with LINKDOWN. -/
  | linkEnableTimeout (cmd : Nat)
  /-- POD_FORM (R406): FORM = 1 forms a pod from the descriptor or refuses it. -/
  | podForm
  /-- POD_DISSOLVE (R453): FORM = 2 dissolves the device's pod. -/
  | podDissolve
  /-- TLB_INVALIDATE (R486): INVGO starts a host invalidation of TLBs and read-only caches. -/
  | tlbInvalidate
  /-- INVALIDATE_COMPLETE (R240): The invalidation completes and INVGO reads 0. -/
  | invalidateComplete
  /-- LINE_REPAIR (R465): A write to REPAIR marks a line repaired and the slice replays parked requests. -/
  | lineRepair (pa : BitVec 64)
  /-- SERVICE_WRITE (R491): A write of SERVICE sets the service mode; leaving service ends parked requests. -/
  | serviceWrite (v : BitVec 64)
  /-- THERMAL_RESUME (R495): A write of TRESUME asks to end a thermal hold. -/
  | thermalResume
  /-- EVSTAT_CLEAR (R498): A write of 1s clears EVSTAT causes, signalling again if an unmasked cause remains. -/
  | evstatClear (m : BitVec 64)
  /-- WPCLEAR_HANDLE (R484): WPCLEAR with bit 8 clear disarms one watchpoint by handle. -/
  | wpclearHandle (h : BitVec 8)
  /-- WPCLEAR_ASID (R484): WPCLEAR with bit 8 set disarms every watchpoint of an ASID. -/
  | wpclearAsid (asid : BitVec 16)
  /-- WPCLEAR_ALL (R484): WPCLEAR with bit 9 set disarms every watchpoint. -/
  | wpclearAll
  /-- ROUTE_WRITE (R485): A route entry is rewritten, clearing NBRCHG of a HELD port it names. -/
  | routeWrite (group : Nat) (v : BitVec 64)
  /-- CHECKPOINT_GO (R496): A write of 1 to GO starts the checkpoint copy. -/
  | checkpointGo
  /-- CHECKPOINT_DONE (R496): The checkpoint copy ends and CKPT is set. -/
  | checkpointDone (err : Bool)
  /-- MSIX_VECTOR_UNMASK (R498): Unmasking an MSI-X vector sends its pending message. -/
  | msixVectorUnmask (vec : Nat)
  /-- REGISTER_WRITE (R483): A host write to a BAR0 register with no behaviour of its own. -/
  | registerWrite (off : Nat) (v : BitVec 64)
  /-- DEVICE_RESET (R492): Power good starts the reset sequence into START service. -/
  | deviceReset
  /-- POWER_STATE_ENTER (R493): The device drops to the deepest power state its conditions and LTOL allow. -/
  | powerStateEnter
  /-- POWER_WAKE (R493): A TAIL write, launch packet or BAR0 access wakes the device. -/
  | powerWake
  /-- POWER_EXIT_COMPLETE (R493): The exit latency ends and the device serves the waking access. -/
  | powerExitComplete
  /-- THERMAL_TRIP (R495): A junction reaches 105 °C and a thermal hold begins. -/
  | thermalTrip (die : Nat)
  /-- THERMAL_HOLD_END (R495): TRESUME was written and junctions are below 95 °C, so the hold ends. -/
  | thermalHoldEnd
  /-- UNASSIGNED_OPCODE (R87): An instruction word whose code no table assigns, or an untwinned long code, raises ILLEGAL at issue with no effect. -/
  | unassignedOpcode (w : BitVec 32)
  /-- DRAIN_PERFORMED (R389): The bytes of a sequencer drain, stash or mmaxr write are applied at their home slices; this can release mend into ENDED, a fence naming MTX, or gang retirement, or can record an imprecise UNCORR or POISON. -/
  | drainPerformed (op : Nat)
  /-- STEP_OUTCOME_RESEND (R415): The root sends a step outcome again to each member that has not yet acknowledged it. -/
  | stepOutcomeResend (step : BitVec 64)
  /-- ARITHMETIC_CLOCK_CHANGE (R494): The device lowers the arithmetic clock below 1.4 GHz to stay within PCAP, or raises it again, which changes the rate of CLK and of the bin timers. -/
  | arithmeticClockChange (mhz : Nat)
  deriving DecidableEq, Repr

end Sys2Proof
end

