-- ==== Sys2Proof/Machine/State.lean ====
section
/-!
DEFINITION. The state of one TG4 device as plain data, and the state after reset. INVENTORY.md lists every field with
the rule that names it. Tables (`Map`) are sparse: a key that is not listed has the default its reader names.
-/
namespace Sys2Proof.Machine

/-- A scalar register and its full/empty bit (R22, R80). -/
structure SReg where
  v : Word
  full : Bool
  deriving DecidableEq, Repr

/-- A vector register: 32 lanes and one full/empty bit (R22, R80). -/
structure VReg where
  lanes : List Lane
  full : Bool
  deriving DecidableEq, Repr

/-- A loop-stack entry (R36), of a wave or of a sequencer's LOOP (R379). -/
structure LoopEntry where
  start : Word
  fin : Word
  count : Word
  deriving DecidableEq, Repr

/-- Where a party stands with its clause (R60): it has to fetch the clause at its address, it waits at the header, or
it issues the words of the clause. -/
inductive Phase where
  | fetch
  | wait
  | issue
  deriving DecidableEq, Repr

/-- How far a wave slot has come (R43, R44): never placed, running, ended by `exit` or a fault, ended by `tail`,
saved with its gang, or released. -/
inductive WStatus where
  | vacant
  | live
  | ended
  | tailed
  | saved
  | gone
  deriving DecidableEq, Repr

/-- A fault that the memory side or the fabric reports after issue (R46, R458). -/
structure ImpFault where
  code : BitVec 8
  pc : Word
  waveid : BitVec 32
  deriving DecidableEq, Repr

/-- The trap-state registers 0x100-0x11f (R462), and whether THADDR was written in the handler (R461). -/
structure TrapState where
  cause : Word
  pc : Word
  info : Word
  kind : Word
  haddr : Word
  haddrWritten : Bool
  hdr : BitVec 32
  next : BitVec 4
  mstat : Word
  mpc : Word
  done : Map (BitVec 32)
  unfetched : Bool
  past : Bool
  words : List (BitVec 32)
  deriving DecidableEq, Repr

/-- How the next clause fetch of a wave begins (R63, R461, R468): at a header as usual, at a header whose clause starts
at word `idx`, in a saved clause whose header is kept, at word `idx`, with the wait conditions checked if `hwait`, or at the word
behind the instruction at its address, the end of a loop that was not entered (R36). -/
inductive Resume where
  | no
  | past
  | fresh (idx : Nat)
  | kept (idx : Nat) (hwait : Bool)
  deriving DecidableEq, Repr

/-- The outcome of a step, as the root decides it (R415). -/
inductive StepOut where
  | commit
  | abort
  deriving DecidableEq, Repr

/-- What a wave waits for inside an instruction it has begun (R159, R257, R261, R446). A wait for a step says whether it
is that of `bar.pod`, and, where its pod was dissolved, how it ends: with the outcome, and whether the apply conflicted (R453). -/
inductive Waiting where
  | bar (scope : Nat) (phase : Nat)
  | nb (n : Nat) (token : BitVec 32)
  | nbwait (n : Nat) (token : BitVec 32)
  | step (n : Word) (atBar : Bool) (ends : Option (StepOut × Bool))
  | atomic (op : Nat)
  deriving DecidableEq, Repr

/-- A wave (R15 to R23). `blockedAt` is the cycle from which its blocked time counts (R49); `held` says that its last turn did not
issue its instruction (R51, R61). `stepArr` holds the step that its `step.arrive` counts for, unless that step was aborted before the device
arrived (R417), and the step of its last one (R446). -/
structure Wave where
  waveid : BitVec 32
  gang : Nat
  wg : Nat
  no : Nat
  core : Nat
  status : WStatus
  sregN : Nat
  vregN : Nat
  s : Map SReg
  v : Map VReg
  vp : Map (BitVec 32)
  phase : Phase
  pc : Word
  hdr : BitVec 32
  words : List (BitVec 32)
  idx : Nat
  ls : List LoopEntry
  icount : Word
  budget : BitVec 32
  stall : BitVec 16
  blockedAt : Option Nat
  held : Bool
  resume : Resume
  vstat : BitVec 32
  inHandler : Bool
  trap : TrapState
  tfev : BitVec 256
  redo : Option (Map (BitVec 32))
  waiting : Option Waiting
  acqs : List (Nat × Nat)
  pend : List ImpFault
  stepArr : Option (Option Word × Word)
  items : List (Nat × Nat)
  bodyNo : Option Nat
  taken : Bool
  released : Bool
  saveMap : Option (BitVec 16 × BitVec 32)
  deriving DecidableEq, Repr

/-- A numbered barrier (R160). `behind` numbers the stores that came before its arrivals and that the end of a wait
makes visible (R162). -/
structure NBar where
  expect : Nat
  count : Nat
  phase : BitVec 32
  behind : List Nat
  deriving DecidableEq, Repr

/-- A workgroup: its core, its waves, its numbered barriers and the phase of its core barrier (R24, R26, R30). -/
structure Wg where
  core : Nat
  waves : Nat
  seq : Bool
  nb : Map NBar
  barPhase : Nat
  deriving DecidableEq, Repr

/-- The kernel descriptor as read at submission (R477, R479). -/
structure Kernel where
  code : Word
  mstream : Word
  csched : Word
  ncsch : Nat
  scout : Nat
  body : Nat
  trap : BitVec 32
  budget : BitVec 32
  stall : BitVec 16
  vregs : Nat
  sregs : Nat
  wg : Nat
  waves : Nat
  mseq : Bool
  mode : Nat
  bscope : Nat
  vault : Nat
  deriving DecidableEq, Repr

/-- How far a gang has come (R27, R29, R47, R466). -/
inductive GStatus where
  | ready
  | resident
  | saving
  | saved
  | retired
  deriving DecidableEq, Repr

/-- A parked block of `cpym` at a quad's crossbar (R438). -/
structure Slot where
  quad : Nat
  gang : Nat
  tag : Nat
  rmask : Nat
  drained : Nat
  bytes : List Byte
  deriving DecidableEq, Repr

/-- A gang (R24 to R29): its place, its workgroups, its vault allocation (R212), its barrier phases and its copy
schedule (R437), with the stage that each `cstage` released up to, its wave, `WAVEID` and PC. `level`, `age` and `skipped` are its place in the ready queue (R341, R342). -/
structure Gang where
  launch : Nat
  gangid : BitVec 32
  asid : BitVec 16
  status : GStatus
  die : Nat
  quad : Nat
  wgs : List Wg
  barPhase : Nat
  vaultSize : Nat
  vault : List Host.Cell
  stage : Nat
  nextEntry : Nat
  releases : List (Nat × Nat × BitVec 32 × Word)
  s0 : Word
  s1 : Word
  entryPc : Word
  placed : Nat
  saveAt : Option Nat
  phintRanges : List (Nat × Nat)
  resLevel : Nat
  batch : Option (Nat × Nat × Nat)
  deriving DecidableEq, Repr

/-- An entry of a die's ready queue (R341): a gang, a unit admitted under R33, or a reserving loop's former (R499). -/
inductive QKind where
  | gang (g : Nat)
  | unit (launch : Nat)
  | former (launch : Nat)
  deriving DecidableEq, Repr

/-- One place in a ready queue (R330, R341, R342). -/
structure QEntry where
  kind : QKind
  dies : List Nat
  level : Nat
  since : Nat
  skippedAt : Option Nat
  blocking : Bool
  deriving DecidableEq, Repr

/-- An item of a reserving loop (R314). -/
structure Item where
  state : Nat
  pay : List Lane
  pits : List Nat
  body : Nat
  trial : Bool
  deriving DecidableEq, Repr

/-- Which phase a launch is in. -/
inductive LStatus where
  | waiting
  | ready
  | done
  deriving DecidableEq, Repr

/-- A launch: its record (R478), with the address of its completion record if there is one, and whether each used readiness counter
had reached its threshold when it was last read (R328); its kernel, its counts and its completion (R339), its die and package barriers (R30)
and its reserving loop (R311 to R323); `tainted` says that a program has stored into its item region (R314). -/
structure Launch where
  kernel : Kernel
  args : Word
  gangs : Nat
  items : Nat
  itemreg : Word
  prio : Nat
  diemask : Nat
  grants : Nat
  faultrec : Word
  trace : Word
  tracesz : Nat
  ready : List (Word × Word)
  seen : List Bool
  cbtab : Word
  ncb : Nat
  crec : Option Word
  lrec : Word
  asid : BitVec 16
  status : LStatus
  code : Nat
  nfault : Nat
  retired : Nat
  placedN : Nat
  first : Option ImpFault
  lastDie : Nat
  chain : Option (Nat × Nat)
  reporter : Option (BitVec 16 × Word)
  watch : Option Nat
  dieBar : List Nat
  pkgBar : Nat
  bodyPhase : Bool
  nextBody : Nat
  bodies : Nat
  posted : Nat
  discarded : Nat
  item : Map Item
  traceN : Map (Nat × Nat)
  stepPc : Option (Word × BitVec 32)
  tainted : Bool
  deriving DecidableEq, Repr

/-- A place a memory access acts on: a physical address, or a word offset of a gang's vault; `ungranted` is an ungranted
vault word, which reads zero and takes no write (R216). -/
inductive Place where
  | phys (pa : Nat)
  | vault (gang : Nat) (off : Nat)
  | ungranted
  deriving DecidableEq, Repr

/-- An atomic or reduction at a word's home (R253, R256, R258, R260). `cas` carries the new value. -/
inductive Rmw where
  | add
  | minS
  | minU
  | maxS
  | maxU
  | and
  | or
  | xor
  | xchg
  | cas (y : Word)
  | fadd
  | fmin
  | fmax
  | redFadd
  | shadow (fmt : BitVec 8)
  | seqAdd
  deriving DecidableEq, Repr

/-- What one access does: read `n` bytes to byte `dst` on of the operation's result, write bytes, or read, change and
write a word of `w` bytes, its old value going to byte `dst` on of the result. One access lies in one aligned 8-byte word
(R245). -/
inductive AccKind where
  | read (dst n : Nat)
  | write (bs : List Byte)
  | rmw (op : Rmw) (x : Word) (w : Nat) (dst : Nat)
  deriving DecidableEq, Repr

/-- One access of a memory operation that has not been performed yet. `va` is kept for traces (R259) and for faults;
`cached` says that its page may be held by the L1 (R221), `parked` at which step it came to the fault queue of its slice (R465). -/
structure Acc where
  at_ : Place
  va : Nat
  expz : Bool
  cached : Bool
  kind : AccKind
  parked : Option Nat := none
  deriving DecidableEq, Repr

/-- Where returned data goes (R243, R247, R254). `emit` is `kemit` (R352): the slot vector, the key buffer, its capacity,
and the lane, key and value of each record. -/
inductive Fill where
  | none
  | emit (d : Nat) (h cap : Nat) (recs : List (Nat × Nat × Nat))
  | scalar (d : Nat) (w : Nat) (signed : Bool)
  | vector (regs : List (Nat × Nat)) (lanes : List (Nat × Nat × Nat × Nat × Bool))
  deriving DecidableEq, Repr

/-- The path of an operation (R263, R268). -/
inductive Path where
  | gen
  | ro
  | fab
  deriving DecidableEq, Repr

/-- The count of a clause header that an operation is outstanding in (R60, R265). -/
inductive Counted where
  | vm
  | sm
  | none
  deriving DecidableEq, Repr

/-- A memory operation that has issued and is not yet complete (R42, R60, R265). `acc` holds the accesses still to be
performed, `res` the bytes already returned; `entered` says that no release holds it back from its core's channels any more
(R255, R270), and `fired` lists the watchpoints it has fired (R335). `ord` is its place in the order of its core's accesses (R246): its number, or, from
the slots of a `kemit` on, that of the record stores (R352). -/
structure MemOp where
  id : Nat
  core : Nat
  wave : Nat
  waveid : BitVec 32
  gang : Nat
  launch : Nat
  pc : Word
  path : Path
  counted : Counted
  tracker : Bool
  atomic : Bool
  seqctr : Option Nat
  acc : List Acc
  res : Map Byte
  fill : Fill
  rel : Option Nat
  acq : Option Nat
  reads : List Nat
  bad : Option (BitVec 8 × Nat)
  pieces : List (BitVec 16 × Nat)
  denied : Bool
  expzFull : Bool
  entered : Bool
  fired : List Nat
  ord : Nat
  deriving DecidableEq, Repr

/-- A cached line: core, line number (address / 128) and its bytes (R221, R222). -/
structure Line where
  core : Nat
  line : Nat
  bytes : List Byte
  deriving DecidableEq, Repr

/-- A REDUCE line (R226): the partial sums of its touched words, who added to it, where it was first opened, and at which
step its flush was parked (R228, R465). -/
structure ReduceLine where
  line : Nat
  sums : Map Lane
  waves : List Nat
  launches : List Nat
  va : Nat
  parked : Option Nat
  deriving DecidableEq, Repr

/-- A SHADOW line (R229): its storage format and its FP32 elements. -/
structure ShadowLine where
  line : Nat
  fmt : BitVec 8
  elems : List Lane
  launches : List Nat
  va : Nat
  deriving DecidableEq, Repr

/-- An entry of a reduce trace that is still to be written: its launch, its die and its 16 bytes (R259). -/
structure Trace where
  launch : Nat
  die : Nat
  bytes : List Byte
  deriving DecidableEq, Repr

/-- A line that the L2 holds DIRTY: the bytes that HBM4 still holds (R224), whether it has an overflow slot of an
EXPZ page (R234), and the launches whose stores and additions it holds (R283). -/
structure DirtyLine where
  line : Nat
  old : List Byte
  expz : Bool
  launches : List Nat
  deriving DecidableEq, Repr

/-- A translation held by a TLB (R239): which TLB holds it, address space, first page number (address / 2^18), number of 256 KiB
pages, and the leaf entry. TLBs are numbered: a core's L1 TLB, a die's L2 TLB, and those of the engines. -/
structure TlbEntry where
  unit : Nat
  asid : BitVec 16
  page : Nat
  span : Nat
  pte : Word
  deriving DecidableEq, Repr

/-- An entry of a die's miss queue (R241): address space, 256 KiB page, and the parties that wait on it, each with its TLB. -/
structure Miss where
  die : Nat
  asid : BitVec 16
  page : Nat
  waiters : List (Nat × Nat)
  deriving DecidableEq, Repr

/-- What a walk has returned to a waiter, until the waiter's instruction uses it (R241): the fault, or the leaf entry and its span. -/
structure Walked where
  asid : BitVec 16
  page : Nat
  waiter : Nat
  fault : Option (BitVec 8)
  pte : Word
  span : Nat
  deriving DecidableEq, Repr

/-- A host invalidation as it was asked for (R240, R486): the registers as they stood at the write of INVGO. -/
structure Inval where
  asid : Word
  va : Word
  len : Word
  deriving DecidableEq, Repr

/-- A launch record that a watchpoint or an arrival word submits (R336, R422), once the operations numbered, which its writer issued
before the matching store, are performed. -/
structure Fire where
  watch : Option Nat
  lrec : Word
  asid : BitVec 16
  behind : List Nat
  deriving DecidableEq, Repr

/-- A watchpoint of a home slice (R335, R365). -/
structure Watch where
  pa : Nat
  len : Nat
  v : Word
  m : Word
  lrec : Word
  asid : BitVec 16
  oneshot : Bool
  armed : Bool
  overflow : Bool
  queued : Nat
  deriving DecidableEq, Repr

/-- A work-graph node (R331). -/
structure Node where
  rsize : Nat
  coal : Nat
  timer : Nat
  nbatch : Nat
  lrec : Word
  batch : Word
  asid : BitVec 16
  deriving DecidableEq, Repr

/-- A node bin of one die (R332): its records, when its timer runs out, and its batch slots in use. -/
structure Bin where
  recs : List (List Byte)
  deadline : Option Nat
  slots : List Nat
  deriving DecidableEq, Repr

/-- What an accepted engine command does (R349, R433, R438, R443, R448). -/
inductive CmdOp where
  | sort (inp out scr n : Nat)
  | merge (out : Nat) (runs : List (Nat × Nat))
  | table (inp tab n nt : Nat)
  | gather (idx tab rows k rowsz nrows : Nat) (vrows : Bool)
  | scatter (idx tab rows k rowsz nrows : Nat) (vrows : Bool) (fmt : Nat)
  | copy (src dst rowsz nrows sstride dstride : Nat) (ctl : Word)
  | park (src rowsz nrows sstride : Nat) (ctl : Word)
  | drain (off tag : Nat)
  | collective (rank size chunk : Nat) (words : List (BitVec 32)) (p : Map Word)
  | bulkWrite (pieces : List Nat)
  | bulkRead (dst : Nat) (lv : Bool)
  | fabLoad
  | fabStore (step : Word)
  | claimDone
  | claimPost (posts : List (Nat × List Lane × List Nat))
  | linkDrain (glob : Bool) (port : Nat)
  | linkEnable (glob : Bool) (port : Nat)
  deriving DecidableEq, Repr

/-- How far a command has come (R350). -/
inductive CStatus where
  | queued
  | running
  | done
  deriving DecidableEq, Repr

/-- An engine command of a wave, or a started entry of a copy schedule (R347, R350, R437). `dreg` is the scalar
register that gets the completion word; `word` is that word once it is known. A sort command counts the records it has read and the
passes it has made (R297); `spoiled` says that a store has reached a region that it is writing (R298), and `fired` lists the watchpoints that
it has fired (R335). -/
structure Cmd where
  id : Nat
  eng : Nat
  unit : Nat
  core : Nat
  wave : Nat
  waveid : BitVec 32
  gang : Nat
  asid : BitVec 16
  pc : Word
  dreg : Option Nat
  op : CmdOp
  status : CStatus
  word : Word
  data : List Byte
  acq : Option Nat
  tracker : Bool
  reserved : Bool
  deadline : Option Nat
  pieces : List (BitVec 16 × Nat)
  denied : Bool
  bad : List (BitVec 8)
  pos : Nat
  passes : Nat
  spoiled : Bool
  fired : List Nat
  deriving DecidableEq, Repr

/-- The running collective program (R373). -/
structure ColRun where
  cmd : Nat
  pos : Nat
  k : Nat
  waiting : Option Word
  fired : List Nat
  deriving DecidableEq, Repr

/-- A vault ring of a sequencer (R384). -/
structure Ring where
  base : Nat
  stride : Nat
  nstage : Nat
  head : Nat
  freeb : Nat
  freeen : Bool
  deriving DecidableEq, Repr

/-- An address descriptor md0-md15 (R379, R383). -/
structure MDesc where
  base : Word
  stride : BitVec 32
  cfg : BitVec 32
  deriving DecidableEq, Repr

/-- The format state of one operand (R385). -/
structure MFmt where
  fmt8 : BitVec 8
  blen : Nat
  scaled : Bool
  scale : Word
  deriving DecidableEq, Repr

/-- The states of a sequencer (R381). -/
inductive SeqStatus where
  | run
  | wait
  | fault
  | stopped
  | saved
  | ended
  deriving DecidableEq, Repr

/-- An operand copy kept for `mreuse` (R392): the key under which it was read and its bytes. -/
structure Hold where
  key : List Nat
  bytes : List Byte
  deriving DecidableEq, Repr

/-- A matrix sequencer (R379). `inst` counts its instructions, and `fired` lists the watchpoints that the writes of the present one have
fired (R335). `rearm` says that a save has withdrawn the arrival of the `mwait` it stands at (R394). -/
structure Seqr where
  gang : Nat
  wg : Nat
  core : Nat
  asid : BitVec 16
  args : Word
  status : SeqStatus
  before : SeqStatus
  rearm : Bool
  phase : Phase
  mpc : Word
  hdr : BitVec 32
  words : List (BitVec 32)
  widx : Nat
  tiles : Map (Map Lane)
  md : Map MDesc
  rings : Map Ring
  fmtx : MFmt
  fmty : MFmt
  tq : BitVec 16
  maxmag : Lane
  nan : Bool
  tokens : Map (BitVec 32)
  loop : List LoopEntry
  mstat : Word
  holdx : Option Hold
  holdy : Option Hold
  holdg : Option Hold
  reuse : BitVec 3
  work : List (Nat × List Byte)
  inst : Nat
  fired : List Nat
  deriving DecidableEq, Repr

/-- Bytes that a drain, stash or `mmaxr` has yet to apply at their home slices (R389). `arrival` counts the sequencer's
arrivals before it, per barrier, for a fence that names MTX (R263). -/
structure Drain where
  id : Nat
  seq : Nat
  gang : Nat
  wg : Nat
  launch : Nat
  pc : Word
  writes : List Acc
  released : List (Nat × BitVec 32)
  inst : Nat
  fired : List Nat
  deriving DecidableEq, Repr

/-- An entry of a chain that its completion word does not cover yet (R324, R326): a number of its own, its SEQ, whether it is
complete, and whether it asks for an interrupt. -/
structure ChainOpen where
  id : Nat
  seq : Word
  done : Bool
  irq : Bool
  deriving DecidableEq, Repr

/-- A host command chain (R490). -/
structure Chain where
  base : Word
  entries : Nat
  asid : BitVec 16
  tail : Word
  head : Word
  cword : Word
  status : Nat
  enable : Bool
  lastSeq : Option Word
  open_ : List ChainOpen
  deriving DecidableEq, Repr

/-- The states of a port (R423). -/
inductive PortState where
  | down
  | up
  | held
  deriving DecidableEq, Repr

/-- A port block (R485, R423, R448). `light` is false after DISABLE. -/
structure Port where
  timer : Nat
  esccnt : Word
  nbr : BitVec 16
  state : PortState
  locked : Bool
  nbrchg : Bool
  hold : Bool
  light : Bool
  deriving DecidableEq, Repr

/-- An entry of the Range Permission Table as its four 8-byte words (R402). -/
abbrev RptEntry := List Word

/-- The pod a device belongs to, from its descriptor (R406). -/
structure Pod where
  number : BitVec 16
  root : BitVec 16
  members : List (BitVec 16)
  cocoon : Nat
  bank : Nat
  part : Nat
  allow : Nat
  spill : Nat
  spillsz : Nat
  stepto : Nat
  retx : Nat
  clog : Nat
  clogsz : Nat
  deriving DecidableEq, Repr

/-- A piece the device has sent and that is not yet acknowledged (R418), or that it has spilled into a slot of its spill region
(R412). -/
structure Sent where
  piece : Piece
  op : Option Nat
  cmd : Option Nat
  pc : Word
  waveid : BitVec 32
  wave : Nat
  gang : Nat
  launch : Nat
  acked : Bool
  spilled : Bool
  deadline : Nat
  rlx : Bool
  col : Bool
  slot : Nat
  deriving DecidableEq, Repr

/-- A piece that the device, as target, has staged, with the rule it was checked under and its slot of its bank, if it has one (R403, R410). -/
structure Staged where
  piece : Piece
  rule : Nat
  slot : Option Nat
  deriving DecidableEq, Repr

/-- A piece that came ahead of its number, with the rule under which its check at arrival passed it, none where it denied it (R403,
R404). -/
structure Early where
  piece : Piece
  rule : Option Nat
  deriving DecidableEq, Repr

/-- An arrival entry (R422, R447). -/
structure Arrival where
  gang : Nat
  off : Nat
  target : Word
  lrec : Word
  held : Word
  deriving DecidableEq, Repr

/-- What the root of a pod holds for a step (R415). `counts` holds, for each device that arrived, how many pieces of the step it has sent each
target (R412, log 97). -/
structure RootStep where
  step : Word
  arrived : List (BitVec 16)
  counts : List (BitVec 16 × List (Nat × Nat))
  lost : Bool
  since : Option Nat
  opened : Bool
  outcome : Option StepOut
  acks : List (BitVec 16)
  deriving DecidableEq, Repr

/-- Control packets the device sends (R396). -/
inductive Packet where
  | piece (p : Piece)
  | readReq (r : ReadReq)
  | readReply (dst : BitVec 16) (id : Nat) (bytes : List Byte) (denied : Bool)
  | pieceAck (dst : BitVec 16) (step : Word) (seqNo : Nat) (denied : Bool)
  | arrived (step : Word) (part : Bool) (sent : List (Nat × Nat))
  | lost (step : Word)
  | openStep (dst : BitVec 16) (step : Word)
  | outcome (dst : BitVec 16) (step : Word) (out : StepOut) (due : List (Nat × Nat))
  | outcomeAck (step : Word)
  | launch (dst : BitVec 16) (p : LaunchPacket)
  | launchAck (dst : BitVec 16) (tag : Word)
  | report (dst : BitVec 16) (r : Report)
  | marker (glob : Bool) (port : Nat) (cmd : Nat)
  deriving DecidableEq, Repr

/-- The device's own standing in the step protocol (R408 to R417). `stepno` is STEPNO; `written` says that the elements of the step that is
being applied have gone to their home slices (R416), `fired` which watchpoints they have fired (R335), and `due` how many pieces each source has
sent this device in it (R412, log 97). `openFor` holds the steps that a root has opened (R408). -/
structure StepState where
  stepno : Word
  colArrived : Bool
  reported : Option Word
  applying : Option Word
  applied : Word
  openFor : List Word
  written : Bool
  fired : List Nat
  due : List (Nat × Nat)
  outcomes : List (Word × StepOut × Bool)
  left : Bool
  deriving DecidableEq, Repr

/-- A pitch-table entry's holder (R316). -/
inductive Pitch where
  | held (w : Nat)
  | reserved (j : Nat)
  deriving DecidableEq, Repr

/-- A Pitch Table entry: the loop (launch), the pitch, its owner and the lowest denied index (R316). -/
structure PitchEntry where
  loop : Nat
  pitch : Nat
  owner : Pitch
  denied : Option Nat
  deriving DecidableEq, Repr

/-- A request to a home slice for a pitch (R316, R317). -/
structure PitchReq where
  id : Nat
  loop : Nat
  pitch : Nat
  item : Nat
  body : Nat
  prio : Bool
  answer : Option Bool
  deriving DecidableEq, Repr

/-- A formation in progress at a core's wave former (R317). `req` are the requests of the item on trial. -/
structure Former where
  loop : Nat
  core : Nat
  pipe : Nat
  level : Nat
  body : Nat
  cands : List (Nat × Bool)
  taken : List Nat
  denied : List Nat
  asked : Bool
  deriving DecidableEq, Repr

/-- A saved gang's place in the save area and what its image holds (R466 to R469). The waves, the gang and the
sequencers keep their saved values in `waves`, `gangs` and `seqs`; `image` is the header and parts written. -/
structure Saved where
  gang : Nat
  first : Nat
  units : Nat
  level : Nat
  unit : Bool
  deriving DecidableEq, Repr

/-- The power states (R493) and a thermal hold (R495). -/
inductive PState where
  | l0
  | l1
  | l2
  | l3
  deriving DecidableEq, Repr

/-- Registers of BAR0 that the host writes and the device reads (R484 to R491, R338, R496). Each is named as its rule
names it. -/
structure HostRegs where
  ltol : BitVec 32
  service : BitVec 2
  tresume : Bool
  pcap : BitVec 16
  evstat : BitVec 32
  evmask : BitVec 32
  sched : BitVec 17
  age : BitVec 32
  prelevel : BitVec 4
  savebud : BitVec 32
  memerrpa : Word
  memerrn : Word
  routectl : Bool
  portev0 : BitVec 32
  portev1 : Word
  portev2 : BitVec 32
  asidtab : Word
  invasid : Word
  invva : Word
  invlen : Word
  invgo : Bool
  expztab : Word
  expztop : Word
  ovfbase : Word
  ovfslots : Word
  savebase : Word
  savesize : Word
  dbgsel : BitVec 32
  poddesc : List Word
  form : BitVec 8
  arrdrop : Word
  clogn : Word
  cloglost : Word
  lprec : Word
  lpdest : Word
  lptag : Word
  lpcrec : Word
  lpgo : BitVec 2
  rptbase : Word
  rptsize : Word
  rpttail : Word
  rpthead : Word
  rptlost : Word
  ckSrc : Word
  ckDst : Word
  ckLen : Word
  ckStatus : BitVec 2
  deriving DecidableEq, Repr

/-- Which kind of party issues the instruction that `exec` runs (R268). -/
inductive Party where
  | wave
  | seq
  | col
  deriving DecidableEq, Repr

/-- Who moves next: a wave or a sequencer takes its turn, the collective engine takes its program's next instruction,
a channel performs the accesses of an operation, a device event or an input happens, the host stores to memory, a line
leaves its L2 slice, a TLB or a read-only cache drops an entry, an L1 or engine TLB takes an entry of its die's L2 TLB, a line of HBM4
or of a vault begins to fail, reset goes on to its next step, or the host masks an MSI-X vector. -/
inductive Act where
  | wave (k : Nat)
  | seq (k : Nat)
  | col
  | perform (op : Nat) (chan : Nat)
  | event (e : Instr)
  | hostWrite (pa : Nat) (bytes : List Byte)
  | evict (line : Nat)
  | tlbDrop (i : Nat)
  | roDrop (i : Nat)
  | tlbFill (i unit : Nat)
  | lineFail (line : Nat) (code : BitVec 8)
  | vaultFail (gang line : Nat)
  | bringUp
  | msixMask (vec : Nat)
  deriving DecidableEq, Repr

/-- The state of one TG4 device. `applyQ` holds the elements of steps that are parked: since when, their word, and their bytes (R416, R465). `tick`, `agenda` and `nextId` are the model's own (logs 1, 2, 14): what has still to
move, and numbers for free values and for parties. -/
structure State where
  agenda : List Act
  tick : Nat
  party : Party
  cur : Nat
  seq : Nat
  nextId : Nat
  waves : Map Wave
  gangs : Map Gang
  launches : Map Launch
  seqs : Map Seqr
  mem : List Host.Cell
  dirty : List DirtyLine
  reduce : List ReduceLine
  flushQ : List ReduceLine
  shadow : List ShadowLine
  traceQ : List Trace
  bad : Map (BitVec 8)
  badVault : List (Nat × Nat)
  fires : List Fire
  l1 : List Line
  ro : List Line
  tlb : List TlbEntry
  missQ : List Miss
  walked : List Walked
  ops : List MemOp
  cmds : List Cmd
  col : Option ColRun
  slots : List Slot
  drains : List Drain
  queue : Map QEntry
  nodes : Map Node
  bins : Map Bin
  watch : Map Watch
  pitch : List PitchEntry
  pitchReqs : List PitchReq
  pitchRels : List (Nat × Nat × Nat × Nat)
  formers : List Former
  chains : Map Chain
  saved : List Saved
  hr : HostRegs
  rpt : Map RptEntry
  routes : Map Word
  lports : Map Port
  gports : Map Port
  devid : BitVec 16
  clk : List Word
  mhz : Nat
  pod : Option Pod
  step : StepState
  root : List RootStep
  recvNo : Map Nat
  refused : List (Nat × Nat)
  applyQ : List (Nat × Nat × List (Nat × Byte))
  staged : List Staged
  sent : List Sent
  seqNos : Map Nat
  allowance : Map Nat
  early : List Early
  reads : List (ReadReq × List (Nat × Nat))
  waitReads : List (ReadReq × Bool)
  arrivals : Map Arrival
  gens : Map Nat
  netOut : List Packet
  power : PState
  waking : Option PState
  thold : Bool
  ckPos : Nat
  msixMask : List Nat
  msixPend : List Nat
  msixSent : List Nat
  invRun : Option Inval
  invHeld : List Inval
  bringUp : Nat
  rr : Map Nat
  noRoute : Map Nat
  deriving DecidableEq, Repr

/-- The faults of the model: none of the spec's own traps is one of them, since taking a trap is a next state. -/
inductive Fault where
  /-- Raised by a device-side access to a physical address that R232 gives no memory (R232 names the range). Safe: the
  machine stops where the spec says no memory exists. -/
  | noMemory (pa : Nat)
  deriving DecidableEq, Repr

/-- The refusals of the model. -/
inductive Refusal where
  /-- Raised by an arm of `exec` whose instruction has no meaning yet. Safe: nothing is claimed of it. -/
  | notModelled (mnemonic : String)
  deriving DecidableEq, Repr

/-- The BAR0 registers after reset (R484 to R491). -/
def HostRegs.reset : HostRegs :=
  { ltol := 0, service := 1, tresume := false, pcap := if Config.isModule then 3000 else 2645, evstat := 0, evmask := 0,
    sched := 0, age := 0x100000, prelevel := 4, savebud := 65536, memerrpa := 0, memerrn := 0, routectl := false,
    portev0 := 0, portev1 := 0, portev2 := 0, asidtab := 0, invasid := 0, invva := 0, invlen := 0, invgo := false,
    expztab := 0, expztop := 0, ovfbase := 0, ovfslots := 0, savebase := 0, savesize := 0, dbgsel := 0,
    poddesc := List.replicate 10 0, form := 0, arrdrop := 0, clogn := 0, cloglost := 0, lprec := 0, lpdest := 0, lptag := 0,
    lpcrec := 0, lpgo := 0, rptbase := 0, rptsize := 0, rpttail := 0, rpthead := 0, rptlost := 0, ckSrc := 0, ckDst := 0,
    ckLen := 0, ckStatus := 0 }

/-- A device that has made no step. -/
def StepState.reset : StepState :=
  { stepno := 0, colArrived := false, reported := none, applying := none, applied := 0, openFor := [], written := false, fired := [],
    due := [], outcomes := [],
    left := false }

/-- The machine right after reset, at step 1 of R492: in state L3, with SERVICE at its reset value, no gang, no launch, no pod, `CLK` 0,
memory as it is when nothing has written it (log 3). -/
def State.reset : State :=
  { agenda := [], tick := 0, party := .wave, cur := 0, seq := 0, nextId := 0, waves := [], gangs := [], launches := [],
    seqs := [], mem := [], dirty := [], reduce := [], flushQ := [], shadow := [], traceQ := [], bad := [], badVault := [], fires := [], l1 := [], ro := [],
    tlb := [], missQ := [], walked := [], ops := [], cmds := [], col := none, slots := [], drains := [], queue := [],
    nodes := [], bins := [], watch := [], pitch := [], pitchReqs := [], pitchRels := [], formers := [], chains := [],
    saved := [], hr := HostRegs.reset, rpt := [], routes := [], lports := [], gports := [], devid := 0, clk := [0, 0, 0, 0],
    mhz := 1400, pod := none, step := StepState.reset, root := [], recvNo := [], refused := [], applyQ := [], staged := [], sent := [], seqNos := [],
    allowance := [], early := [], reads := [], waitReads := [], arrivals := [], gens := [], netOut := [], power := .l3,
    waking := none, thold := false, ckPos := 0, msixMask := List.range 66, msixPend := [], msixSent := [], invRun := none,
    invHeld := [], bringUp := 1, rr := [], noRoute := [] }

end Sys2Proof.Machine
end

