-- ==== Sys2Proof/Machine/Ops.lean ====
section
/-!
DEFINITION. The named operations over the state: registers, memory, translation, reporting faults, taking a trap and
returning from one, closing a clause, ending a wave, barriers.
-/
namespace Sys2Proof.Machine

/-! ### Codes of traps and faults (R456) -/

/-- The trap codes of R456. -/
abbrev Code := BitVec 8

namespace Code
def illegal : Code := 0x01
def empty : Code := 0x02
def watchdog : Code := 0x03
def loopDepth : Code := 0x04
def nbarState : Code := 0x05
def software : Code := 0x06
def break_ : Code := 0x07
def nested : Code := 0x08
def thermalStop : Code := 0x09
def addrRange : Code := 0x10
def align : Code := 0x11
def pageFault : Code := 0x12
def pteBad : Code := 0x13
def permFault : Code := 0x14
def mtxFault : Code := 0x15
def uncorr : Code := 0x20
def poison : Code := 0x21
def expzFull : Code := 0x22
def seqAbandoned : Code := 0x23
def stepAbort : Code := 0x30
def stepConflict : Code := 0x31
def stepSpillFull : Code := 0x32
def fabNotMember : Code := 0x33
def fabDenied : Code := 0x34
end Code

/-! ### Registers (R6, R16, R22, R80) -/

/-- The trap state before any trap (R462). -/
def TrapState.blank : TrapState := ⟨0, 0, 0, 0, 0, false, 0, 0, 0, 0, [], false, false, []⟩

/-- A wave slot that holds no wave. -/
def Wave.blank : Wave :=
  { waveid := 0, gang := 0, wg := 0, no := 0, core := 0, status := .vacant, sregN := 0, vregN := 0, s := [], v := [],
    vp := [], phase := .fetch, pc := 0, hdr := 0, words := [], idx := 0, ls := [], icount := 0, budget := 0, stall := 0,
    blockedAt := none, held := false, resume := .no, vstat := 0, inHandler := false, trap := TrapState.blank, tfev := 0, redo := none,
    waiting := none, acqs := [], pend := [], stepArr := none, items := [], bodyNo := none, taken := false,
    released := false, saveMap := none }

/-- Value of s`n`; a register nothing has written reads 0 (R6). -/
def Wave.sreg (w : Wave) (n : Nat) : Word := (w.s.get ⟨0, true⟩ n).v

/-- Whether s`n` is full (R80). -/
def Wave.sFull (w : Wave) (n : Nat) : Bool := (w.s.get ⟨0, true⟩ n).full

/-- Write s`n` and fill it (R80). -/
def Wave.setS (w : Wave) (n : Nat) (x : Word) : Wave := { w with s := w.s.set n ⟨x, true⟩ }

/-- Empty s`n` (R80). -/
def Wave.emptyS (w : Wave) (n : Nat) : Wave := { w with s := w.s.set n ⟨w.sreg n, false⟩ }

/-- 32 lanes of zero. -/
def zeroLanes : List Lane := copies 32 0

/-- The lanes of v`n`; a register nothing has written reads 0 (R6). -/
def Wave.vreg (w : Wave) (n : Nat) : List Lane := (w.v.get ⟨zeroLanes, true⟩ n).lanes

/-- Lane `l` of v`n`. -/
def Wave.lane (w : Wave) (n l : Nat) : Lane := nth 0 (w.vreg n) l

/-- Whether v`n` is full. -/
def Wave.vFull (w : Wave) (n : Nat) : Bool := (w.v.get ⟨zeroLanes, true⟩ n).full

/-- Write all lanes of v`n` and fill it. -/
def Wave.setV (w : Wave) (n : Nat) (x : List Lane) : Wave := { w with v := w.v.set n ⟨x, true⟩ }

/-- Empty v`n`. -/
def Wave.emptyV (w : Wave) (n : Nat) : Wave := { w with v := w.v.set n ⟨w.vreg n, false⟩ }

/-- Set the full/empty bit of v`n`. -/
def Wave.setVFull (w : Wave) (n : Nat) (b : Bool) : Wave := { w with v := w.v.set n ⟨w.vreg n, b⟩ }

/-- Change one lane of v`n`, keeping its full/empty bit. -/
def Wave.setLane (w : Wave) (n l : Nat) (x : Lane) : Wave :=
  { w with v := w.v.set n ⟨(w.vreg n).set l x, w.vFull n⟩ }

/-- The lane predicate vp`p`: vp0 always reads all ones (R16). -/
def Wave.pred (w : Wave) (p : Nat) : BitVec 32 := if p = 0 then 0xffffffff else w.vp.get 0 p

/-- Write vp`p`; a write to vp0 is ignored (R174). -/
def Wave.setPred (w : Wave) (p : Nat) (x : BitVec 32) : Wave := if p = 0 then w else { w with vp := w.vp.set p x }

/-- Whether lane `l` takes part under vp`p` (R16). -/
def Wave.takes (w : Wave) (p l : Nat) : Bool := bitAt (w.pred p).toNat l

/-- Every register of the wave is full (R44). -/
def Wave.allFull (w : Wave) : Bool := w.s.all (fun r => r.2.full) && w.v.all (fun r => r.2.full)

/-- Bits `64k` to `64k + 63` of a row of bits. -/
def fullWord (full : Nat → Bool) (k : Nat) : Word :=
  BitVec.ofNat 64 ((List.range 64).foldl (fun m i => if full (64 * k + i) then m + 2 ^ i else m) 0)

/-- The full/empty bit of v`n` as TFEV shows it (R462); for a register beyond the allocation the manual gives none, and
the bit is a free value (log 32). -/
def Wave.vShown (w : Wave) (n : Nat) : Bool := if n < w.vregN then w.vFull n else Config.spareFull n

/-- The full/empty bit of s`n` as TFES shows it (R462; log 32). -/
def Wave.sShown (w : Wave) (n : Nat) : Bool := if n < w.sregN then w.sFull n else Config.spareFull (256 + n)

/-! ### Parties -/

/-- A gang that holds nothing. -/
def Gang.blank : Gang :=
  { launch := 0, gangid := 0, asid := 0, status := .retired, die := 0, quad := 0, wgs := [], barPhase := 0,
    vaultSize := 0, vault := [], stage := 0, nextEntry := 0, releases := [], s0 := 0, s1 := 0, entryPc := 0, placed := 0,
    saveAt := none, phintRanges := [], resLevel := 0, batch := none }

/-- A kernel descriptor of zeros, with no trap entry. -/
def Kernel.blank : Kernel :=
  { code := 0, mstream := 0, csched := 0, ncsch := 0, scout := 0, body := 0, trap := 0xffffffff, budget := 0, stall := 0,
    vregs := 0, sregs := 0, wg := 0, waves := 0, mseq := false, mode := 0, bscope := 0, vault := 0 }

/-- A launch that never was. -/
def Launch.blank : Launch :=
  { kernel := Kernel.blank, args := 0, gangs := 0, items := 0, itemreg := 0, prio := 0, diemask := 0, grants := 0,
    faultrec := 0, trace := 0, tracesz := 0, ready := [], seen := [], cbtab := 0, ncb := 0, crec := none, lrec := 0, asid := 0,
    status := .done, code := 0, nfault := 0, retired := 0, placedN := 0, first := none, lastDie := 0,
    chain := none, reporter := none, watch := none, dieBar := [0, 0, 0, 0], pkgBar := 0, bodyPhase := false,
    nextBody := 0, bodies := 0, posted := 0, discarded := 0, item := [], traceN := [], stepPc := none, tainted := false }

/-- A sequencer as it is placed (R379). -/
def Seqr.blank : Seqr :=
  { gang := 0, wg := 0, core := 0, asid := 0, args := 0, status := .stopped, before := .run, rearm := false, phase := .fetch, mpc := 0,
    hdr := 0, words := [], widx := 0, tiles := [], md := [], rings := [], fmtx := ⟨3, 16, false, 0⟩,
    fmty := ⟨3, 16, false, 0⟩, tq := 1, maxmag := 0, nan := false, tokens := [], loop := [], mstat := 0, holdx := none,
    holdy := none, holdg := none, reuse := 0, work := [], inst := 0, fired := [] }

/-- The wave whose turn it is. -/
def State.wave (s : State) : Wave := s.waves.get Wave.blank s.cur

/-- Wave `k`. -/
def State.waveAt (s : State) (k : Nat) : Wave := s.waves.get Wave.blank k

/-- Replace wave `k`. -/
def State.setWaveAt (s : State) (k : Nat) (w : Wave) : State := { s with waves := s.waves.set k w }

/-- Replace the wave whose turn it is. -/
def State.setWave (s : State) (w : Wave) : State := s.setWaveAt s.cur w

/-- Change the wave whose turn it is. -/
def State.modWave (s : State) (f : Wave → Wave) : State := s.setWave (f s.wave)

/-- Gang `g`. -/
def State.gang (s : State) (g : Nat) : Gang := s.gangs.get Gang.blank g

/-- Change gang `g`. -/
def State.modGang (s : State) (g : Nat) (f : Gang → Gang) : State := { s with gangs := s.gangs.set g (f (s.gang g)) }

/-- Launch `l`. -/
def State.launch (s : State) (l : Nat) : Launch := s.launches.get Launch.blank l

/-- Change launch `l`. -/
def State.modLaunch (s : State) (l : Nat) (f : Launch → Launch) : State :=
  { s with launches := s.launches.set l (f (s.launch l)) }

/-- The gang of the wave whose turn it is. -/
def State.myGang (s : State) : Gang := s.gang s.wave.gang

/-- The launch of the wave whose turn it is. -/
def State.myLaunch (s : State) : Launch := s.launch s.myGang.launch

/-- The sequencer whose turn it is. -/
def State.sq (s : State) : Seqr := s.seqs.get Seqr.blank s.seq

/-- Change the sequencer whose turn it is. -/
def State.modSeq (s : State) (f : Seqr → Seqr) : State := { s with seqs := s.seqs.set s.seq (f s.sq) }

/-- Workgroup `i` of a gang. -/
def Gang.wgAt (g : Gang) (i : Nat) : Wg := nth ⟨0, 0, false, [], 0⟩ g.wgs i

/-- Change workgroup `i` of a gang. -/
def Gang.modWg (g : Gang) (i : Nat) (f : Wg → Wg) : Gang := { g with wgs := g.wgs.set i (f (g.wgAt i)) }

/-- The key of the sequencer of workgroup `wg` of gang `g`. -/
def seqKey (g wg : Nat) : Nat := 4 * g + wg

/-- The die of a core, counting cores over the package. -/
def dieOf (core : Nat) : Nat := core / 144

/-- The quad of a core, counting quads over the package (R20). -/
def quadOf (core : Nat) : Nat := core / 4

/-- The cycle counter of a die (R155). -/
def State.clock (s : State) (die : Nat) : Nat := (nth 0 s.clk die).toNat

/-- The waves of a gang that have not ended, with their keys: those that run and those stopped for a save. -/
def State.liveOf (s : State) (g : Nat) : List (Nat × Wave) :=
  s.waves.filter fun w => w.2.gang == g && (w.2.status == .live || w.2.status == .saved)

/-- Take a fresh number. -/
def State.fresh (s : State) : Nat × State := (s.nextId, { s with nextId := s.nextId + 1 })

/-! ### Memory (R4, R208, R232) -/

/-- What a byte of memory that nothing has written reads as (log 3). -/
def memDefault : Byte := 0

namespace Memory

/-- The byte at an address. -/
def get : List Host.Cell → Nat → Byte
  | [], _ => memDefault
  | (i, b) :: m, a => if i = a then b else get m a

/-- Put a byte into a cell list in rising order, leaving out a byte equal to what an unlisted address reads as. -/
def set : List Host.Cell → Nat → Byte → List Host.Cell
  | [], a, b => if b = memDefault then [] else [(a, b)]
  | (i, c) :: m, a, b =>
    if a < i then (if b = memDefault then (i, c) :: m else (a, b) :: (i, c) :: m)
    else if i = a then (if b = memDefault then m else (a, b) :: m)
    else (i, c) :: set m a b

/-- Every address of a list lies above `lo`, addresses rise, and no entry holds the unlisted value. -/
def wfFrom : (lo : Option Nat) → List Host.Cell → Bool
  | _, [] => true
  | lo, (i, b) :: m => (match lo with
    | none => true
    | some l => decide (l < i)) && decide (b ≠ memDefault) && wfFrom (some i) m

/-- The canonical form: addresses strictly rising, no entry equal to what an unlisted address reads as. -/
def wf (m : List Host.Cell) : Bool := wfFrom none m

/-- Bytes from an address on. -/
def read (m : List Host.Cell) (a n : Nat) : List Byte := (List.range n).map fun i => get m (a + i)

/-- Store bytes from an address on. -/
def write (m : List Host.Cell) : Nat → List Byte → List Host.Cell
  | _, [] => m
  | a, b :: bs => write (set m a b) (a + 1) bs

end Memory

/-- HBM4 lies below this physical address (R232). -/
def hbmTop : Nat := 2 ^ 39

/-- Host memory starts at this physical address (R232). -/
def hostBase : Nat := 2 ^ 51

/-- Whether R232 gives a physical address memory. -/
def hasMemory (pa : Nat) : Bool := pa < hbmTop || (hostBase ≤ pa && pa < 2 ^ 52)

/-- The 128-byte line of an address. -/
def lineOf (pa : Nat) : Nat := pa / 128

/-- Home die of an HBM4 address (R223). -/
def homeDie (pa : Nat) : Nat := (field pa 12 11) ^^^ (field pa 31 30)

/-- Home slice of an HBM4 address within its home die (R223). -/
def homeSlice (pa : Nat) : Nat := pa / 2 ^ 13 % 36

/-- Note that a line becomes DIRTY, with the bytes HBM4 still holds (R224), with an overflow slot if it is an EXPZ line (R234), and with the
launches whose access it holds (R283). -/
def State.soil (s : State) (line : Nat) (expz : Bool) (ls : List Nat := []) : State :=
  if hbmTop ≤ 128 * line then s
  else if s.dirty.any (fun d => d.line == line) then
    { s with dirty := s.dirty.map fun (d : DirtyLine) =>
        if d.line == line then { d with expz := d.expz || expz, launches := ls.filter (fun l => !d.launches.contains l) ++ d.launches } else d }
  else { s with dirty := ⟨line, Memory.read s.mem (128 * line) 128, expz, ls⟩ :: s.dirty }

/-- Overflow slots in use (R234). -/
def State.expzUsed (s : State) : Nat := (s.dirty.filter (·.expz)).length

/-- Whether an access would make an EXPZ line DIRTY with no overflow slot free (R234). -/
def State.noSlot (s : State) (pa : Nat) (expz : Bool) : Bool :=
  expz && !s.dirty.any (fun d => d.line == lineOf pa && d.expz) && decide (s.hr.ovfslots.toNat ≤ s.expzUsed)

/-- A line leaves the L2 for HBM4: it is written back and its overflow slot returned (R224, R234). -/
def State.writeBack (s : State) (line : Nat) : State := { s with dirty := s.dirty.filter (fun d => d.line != line) }

/-- The byte that HBM4 itself holds, DIRTY lines left out (R224, R496). -/
def State.hbmByte (s : State) (pa : Nat) : Byte :=
  match s.dirty.find? (fun d => d.line == lineOf pa) with
  | some d => nth 0 d.old (pa % 128)
  | none => Memory.get s.mem pa

/-- Overwrite bytes of a list from place `i` on. -/
def patch (l : List Byte) : Nat → List Byte → List Byte
  | _, [] => l
  | i, b :: bs => patch (l.set i b) (i + 1) bs

/-- A store writes through and updates the issuing core's L1 line only if it is present (R221). The bytes lie in one
line. -/
def State.l1Store (s : State) (core pa : Nat) (bs : List Byte) : State :=
  { s with l1 := s.l1.map fun x =>
      if x.core == core && x.line == lineOf pa then { x with bytes := patch x.bytes (pa % 128) bs } else x }

/-- Empty a core's L1 (R277). -/
def State.emptyL1 (s : State) (core : Nat) : State := { s with l1 := s.l1.filter (fun x => x.core != core) }

/-- Drop a core's read-only cache (R250). -/
def State.dropRo (s : State) (core : Nat) : State := { s with ro := s.ro.filter (fun x => x.core != core) }

/-- Store bytes of one line at their home slice: the line becomes DIRTY (R224). What the controller keeps in HBM4 for an EXPZ page, the size
table and the compressed lines of the overflow region, has no format in the spec and no place in memory here (R233; log 103). -/
def State.storeLine (s : State) (pa : Nat) (bs : List Byte) (expz : Bool) (ls : List Nat := []) : State :=
  let s := s.soil (lineOf pa) expz ls
  { s with mem := Memory.write s.mem pa bs }

/-- Bytes at physical addresses, as the home slices hold them. -/
def State.load (s : State) (pa n : Nat) : List Byte := Memory.read s.mem pa n

/-- A 64-bit word at a physical address. -/
def State.load64 (s : State) (pa : Nat) : Word := BitVec.ofNat 64 (fromBytes (s.load pa 8))

/-! ### Device events (R498) -/

/-- Signal an MSI-X vector: sent, or held pending while it is masked. -/
def State.msix (s : State) (vec : Nat) : State :=
  if s.msixMask.contains vec then { s with msixPend := if s.msixPend.contains vec then s.msixPend else s.msixPend ++ [vec] }
  else { s with msixSent := s.msixSent ++ [vec] }

/-- Set a cause of EVSTAT; a message goes out when an unmasked bit goes from 0 to 1. -/
def State.raise (s : State) (bit : Nat) : State :=
  if s.hr.evstat.getLsbD bit then s
  else
    let s := { s with hr := { s.hr with evstat := s.hr.evstat ||| BitVec.twoPow 32 bit } }
    if s.hr.evmask.getLsbD bit then s else s.msix 0

/-- The causes of EVSTAT. -/
def evThermal : Nat := 0
def evPort : Nat := 1
def evNbrchg : Nat := 2
def evStepAbort : Nat := 3
def evStepConf : Nat := 4
def evFaultq : Nat := 5
def evChainStop : Nat := 6
def evWpovf : Nat := 7
def evCkpt : Nat := 8
def evSaveRef : Nat := 9
def evRptLost : Nat := 10
def evMemErr : Nat := 11

/-- Record a memory error that has no wave to report to (R484). -/
def State.memErr (s : State) (pa : Nat) : State :=
  { s with hr := { s.hr with memerrpa := BitVec.ofNat 64 pa, memerrn := s.hr.memerrn + 1 } }.raise evMemErr

/-! ### Waking (R493) -/

/-- A wake-up begins the exit from the device's power state, if it is in one and no thermal hold lasts; before step 3 of reset the dies have not
started (R492). -/
def State.wake (s : State) : State :=
  if s.power = .l0 ∨ s.thold ∨ s.bringUp < 3 then s
  else { s with waking := match s.waking with
    | none => some s.power
    | some p => some p }

/-- A window of BAR0 answers (R492): Control and Debug from step 2 of reset, the others from step 4. A write that comes before has no effect
(log 98). -/
def State.answers (s : State) (window : Nat) : Bool := if window = 0 ∨ window = 7 then decide (2 ≤ s.bringUp) else decide (4 ≤ s.bringUp)

/-- The host writes a register of a window: it wakes the device (R493). -/
def State.host {α : Type} (s : State) (window : Nat) (no : State → α) (eff : State → α) : α := if s.answers window then eff s.wake else no s

/-! ### REDUCE lines and shadows (R226 to R231) -/

/-- A REDUCE line of this line number is open. -/
def State.isReduce (s : State) (line : Nat) : Bool := s.reduce.any (fun r => r.line == line)

/-- A flush of this line has begun and is not yet applied (R227). -/
def State.isFlushing (s : State) (line : Nat) : Bool := s.flushQ.any (fun r => r.line == line)

/-- Apply one flushed REDUCE line to memory: only touched words, each by one FP32 addition (R227). -/
def applySums (m : List Host.Cell) (line : Nat) : Map Lane → List Host.Cell
  | [] => m
  | (w, p) :: ps =>
    let a := 128 * line + 4 * w
    let x : Lane := BitVec.ofNat 32 (fromBytes (Memory.read m a 4))
    applySums (Memory.write m a (toBytes 4 (f32add x p).toNat)) line ps

/-- The storage format of a shadow's FMT8 code (R229). -/
def shadowFmt (fmt : BitVec 8) : FFmt := if fmt = 0x07 then bf16 else b8 fmt.toNat

/-- Bytes of a rounded shadow (R230, R141): every element by nearest-even under SAT = 0. -/
def shadowBytes (sh : ShadowLine) : List Byte :=
  let f := shadowFmt sh.fmt
  sh.elems.flatMap fun x => toBytes (f.width / 8) (f.deliver 0 false (f32 x))

/-! ### Translation (R235 to R241) -/

/-- Fields of a leaf page-table entry (R236). -/
def pteV (p : Word) : Bool := bitAt p.toNat 0
def pteLeaf (p : Word) : Bool := bitAt p.toNat 1
def pteR (p : Word) : Bool := bitAt p.toNat 2
def pteW (p : Word) : Bool := bitAt p.toNat 3
def pteX (p : Word) : Bool := bitAt p.toNat 4
def pteExpz (p : Word) : Bool := bitAt p.toNat 5
def pteRmt (p : Word) : Bool := bitAt p.toNat 6
def pteMt (p : Word) : Nat := Bits.of p 8 7
def pteG (p : Word) : Bool := bitAt p.toNat 9

/-- The physical address a leaf gives: bits of the frame number below the page size are ignored (R236). -/
def ptePa (p : Word) (span va : Nat) : Nat :=
  let size := span * 2 ^ 18
  let frame := if pteRmt p then Bits.of p 38 18 * 2 ^ 18 else Bits.of p 51 18 * 2 ^ 18
  frame / size * size + va % size

/-- The device that an RMT leaf names (R236). -/
def pteDev (p : Word) : BitVec 16 := BitVec.ofNat 16 (Bits.of p 55 40)

/-- Regions that no page-table entry reaches: a pod's Cocoon banks and spill region (R232, R237). -/
def State.reserved (s : State) (pa size : Nat) : Bool :=
  match s.pod with
  | none => false
  | some p =>
    (pa < p.cocoon + 2 * p.bank * 2 ^ 30 && p.cocoon < pa + size) || (p.spillsz != 0 && pa < p.spill + p.spillsz && p.spill < pa + size)

/-- Check a leaf entry (R237): PTE_BAD for a reserved MT, a forbidden EXPZ, a page outside memory, or host memory with
MT 0. -/
def State.leafBad (s : State) (p : Word) (span : Nat) : Bool :=
  let size := span * 2 ^ 18
  let pa := ptePa p span 0
  let host := hostBase ≤ pa
  2 ≤ pteMt p || (pteExpz p && (pteMt p == 1 || pteRmt p || s.hr.expztop.toNat < pa + size)) ||
    (!pteRmt p && (!(hasMemory pa && hasMemory (pa + size - 1)) || s.reserved pa size || (host && pteMt p == 0)))

/-- The walk from a table of a level on (R235): the leaf entry with its span in 256 KiB pages, or the fault. -/
def State.walkFrom (s : State) (va : Nat) : (levels : List (Nat × Nat)) → (table : Nat) → Except Code (Word × Nat)
  | [], _ => .error Code.pteBad
  | (shift, bits) :: rest, table =>
    let p := s.load64 (table + 8 * (va / 2 ^ shift % 2 ^ bits))
    if !pteV p then .error Code.pageFault
    else if pteLeaf p then
      if shift = 43 then .error Code.pteBad
      else if s.leafBad p (2 ^ (shift - 18)) then .error Code.pteBad
      else .ok (p, 2 ^ (shift - 18))
    else
      let align := if shift = 43 then 2 ^ 16 else 2 ^ 9
      State.walkFrom s va rest (Bits.of p 51 9 * 2 ^ 9 / align * align)

/-- A whole walk: the ASID table entry, then four levels (R235, R486). -/
def State.walk (s : State) (asid : BitVec 16) (va : Nat) : Except Code (Word × Nat) :=
  let e := s.load64 (s.hr.asidtab.toNat + 8 * asid.toNat)
  if !bitAt e.toNat 0 then .error Code.pageFault
  else s.walkFrom va [(43, 13), (30, 13), (24, 6), (18, 6)] (Bits.of e 51 16 * 2 ^ 16)

/-- A held translation matches an address space and address; a global entry matches every ASID (R236). -/
def TlbEntry.hits (e : TlbEntry) (asid : BitVec 16) (va : Nat) : Bool :=
  (e.asid == asid || pteG e.pte) && decide (e.page ≤ va / 2 ^ 18) && decide (va / 2 ^ 18 < e.page + e.span)

/-- The numbers of the TLBs (R239): the L1 TLB of a core has the core's number, and then come the L2 TLBs of the dies and those of the
matrix load pipes, the copy engines, the sort and gather-dedup engines and the collective engine. -/
def tlbL2 (die : Nat) : Nat := 576 + die
def tlbMtx (core : Nat) : Nat := 580 + core
def tlbCopy (quad : Nat) : Nat := 1156 + quad
def tlbSort (die : Nat) : Nat := 1300 + die
def tlbGde (die : Nat) : Nat := 1304 + die
def tlbCol : Nat := 1308

/-- The die whose L2 TLB and walkers stand behind a TLB; for the collective engine it is CD0 (log 81). -/
def tlbDie (unit : Nat) : Nat :=
  if unit < 576 then unit / 144
  else if unit < 580 then unit - 576
  else if unit < 1156 then (unit - 580) / 144
  else if unit < 1300 then (unit - 1156) / 36
  else if unit < 1304 then unit - 1300
  else if unit < 1308 then unit - 1304
  else 0

/-- One of a list, by a free number. -/
def pickOf {α : Type} (l : List α) (n : Nat) : Option α :=
  match l with
  | [] => none
  | [x] => some x
  | l => l[n % l.length]?

/-- The translation of a TLB that an access uses (R238): the one it holds, or one of those it holds. -/
def State.tlbFind (s : State) (unit : Nat) (asid : BitVec 16) (va : Nat) : Option (Word × Nat) :=
  (pickOf (s.tlb.filter fun e => e.unit == unit && e.hits asid va) (Config.tlbPick s.tick)).map fun e => (e.pte, e.span)

/-- Entries that a new one competes with for room, and how many of them there may be (R3, R239): an L1 TLB has 64 entries, a set of an L2
TLB 8; which set a page belongs to is the model's choice, and the engines' TLBs have no stated size (log 81). -/
def TlbEntry.rivals (e : TlbEntry) (l : List TlbEntry) : List TlbEntry × Nat :=
  if e.unit < 576 then (l.filter fun x => x.unit == e.unit, 64)
  else if e.unit < 580 then (l.filter fun x => x.unit == e.unit && x.page / x.span % 1024 == e.page / e.span % 1024, 8)
  else ([], 1)

/-- Put a translation into its TLB; where that is full another one leaves it. -/
def State.tlbPut (s : State) (e : TlbEntry) : State :=
  if s.tlb.contains e then s
  else
    let (rs, cap) := e.rivals s.tlb
    let l := if rs.length < cap then s.tlb else match pickOf rs (Config.victim s.tick) with
      | some x => s.tlb.erase x
      | none => s.tlb
    { s with tlb := e :: l }

/-- Hold a translation in a TLB. -/
def State.tlbAdd (s : State) (unit : Nat) (asid : BitVec 16) (va : Nat) (pte : Word) (span : Nat) : State :=
  s.tlbPut ⟨unit, asid, va / 2 ^ 18 / span * span, span, pte⟩

/-- What an instruction learns of an address: its leaf, that the walk is still to come, or a fault. -/
inductive Trans where
  | ok (pte : Word) (span : Nat)
  | miss
  | fault (c : Code)
  deriving DecidableEq, Repr

/-- The waiters of the miss queues: waves, sequencers, the collective engine and the commands of the other engines. -/
def waveWaiter (k : Nat) : Nat := 4 * k
def seqWaiter (k : Nat) : Nat := 4 * k + 1
def colWaiter : Nat := 2
def cmdWaiter (id : Nat) : Nat := 4 * id + 3

/-- The waiter and the TLB of the party whose turn it is. -/
def State.me (s : State) : Nat := match s.party with
  | .wave => waveWaiter s.cur
  | .seq => seqWaiter s.seq
  | .col => colWaiter

def State.myTlb (s : State) : Nat := match s.party with
  | .wave => s.wave.core
  | .seq => tlbMtx s.sq.core
  | .col => tlbCol

/-- Forget what walks have returned to a waiter. -/
def State.forget (s : State) (waiter : Nat) : State :=
  { s with walked := s.walked.filter fun f => f.waiter != waiter }

/-- Queue a translation for a walk on behalf of a waiter, once for a 256 KiB page (R241); nothing is queued while the queue of the die is
full. -/
def State.missAs (s : State) (unit waiter : Nat) (asid : BitVec 16) (va : Nat) : State :=
  let page := va / 2 ^ 18
  let die := tlbDie unit
  if s.missQ.any (fun m => m.die == die && m.asid == asid && m.page == page) then
    { s with missQ := s.missQ.map fun (m : Miss) =>
        if m.die == die && m.asid == asid && m.page == page then { m with waiters := m.waiters.filter (· != (waiter, unit)) ++ [(waiter, unit)] } else m }
  else if 2048 ≤ (s.missQ.filter fun m => m.die == die).length then s
  else { s with missQ := s.missQ ++ [⟨die, asid, page, [(waiter, unit)]⟩] }

/-- The same for the party whose turn it is. -/
def State.miss (s : State) (asid : BitVec 16) (va : Nat) : State := s.missAs s.myTlb s.me asid va

/-- Translate through a TLB for a waiter: an entry that the TLB holds, or what a walk has returned, or an entry of the die's L2 TLB; else
the translation misses (R239, R241). -/
def State.transAs (s : State) (unit waiter : Nat) (asid : BitVec 16) (va : Nat) : Trans :=
  if 2 ^ 56 ≤ va then .fault Code.addrRange
  else match s.tlbFind unit asid va with
    | some (p, n) => .ok p n
    | none => match s.walked.find? fun f => f.waiter == waiter && f.asid == asid && f.page == va / 2 ^ 18 with
      | some f => match f.fault with
        | some c => .fault c
        | none => .ok f.pte f.span
      | none => match s.tlbFind (tlbL2 (tlbDie unit)) asid va with
        | some (p, n) => .ok p n
        | none => .miss

/-- Translate for the party whose turn it is. -/
def State.trans (s : State) (asid : BitVec 16) (va : Nat) : Trans := s.transAs s.myTlb s.me asid va

/-- Translate for the device's own reads and writes of records, walking at once: the spec gives them no TLB, and an entry of any L2 TLB may
serve them (R238; log 81). -/
def State.transNow (s : State) (asid : BitVec 16) (va : Nat) : Except Code (Word × Nat) :=
  if 2 ^ 56 ≤ va then .error Code.addrRange
  else match pickOf (s.tlb.filter fun e => decide (576 ≤ e.unit ∧ e.unit < 580) && e.hits asid va) (Config.tlbPick s.tick) with
    | some e => .ok (e.pte, e.span)
    | none => s.walk asid va

/-- The entries of a table that are not zero: no other one is valid (R235). -/
def State.entriesOf (s : State) (table n : Nat) : List Nat :=
  dedup ((s.mem.filter fun c => decide (table ≤ c.1 ∧ c.1 < table + 8 * n)).map fun c => (c.1 - table) / 8)

/-- A leaf puts a physical address on an EXPZ page. -/
def expzLeaf (p : Word) (span pa : Nat) : Bool :=
  pteExpz p && !pteRmt p && decide (ptePa p span 0 ≤ pa ∧ pa < ptePa p span 0 + span * 2 ^ 18)

/-- Some leaf that a walk from a table of a level on can reach does so. -/
def State.expzFrom (s : State) (pa : Nat) : (levels : List (Nat × Nat)) → (table : Nat) → Bool
  | [], _ => false
  | (shift, bits) :: rest, table => (s.entriesOf table (2 ^ bits)).any fun i =>
    let p := s.load64 (table + 8 * i)
    if !pteV p then false
    else if pteLeaf p then shift != 43 && !s.leafBad p (2 ^ (shift - 18)) && expzLeaf p (2 ^ (shift - 18)) pa
    else
      let align := if shift = 43 then 2 ^ 16 else 2 ^ 9
      State.expzFrom s pa rest (Bits.of p 51 9 * 2 ^ 9 / align * align)

/-- A physical line lies on an EXPZ page, by a translation that a TLB holds or by the page tables: how a store without a translation of its
own learns of it (R234, R236; log 82). No such page lies above EXPZTOP (R237). -/
def State.isExpz (s : State) (pa : Nat) : Bool :=
  decide (pa < s.hr.expztop.toNat) && (s.tlb.any (fun e => expzLeaf e.pte e.span pa) ||
    (s.entriesOf s.hr.asidtab.toNat 65536).any fun i =>
      let e := s.load64 (s.hr.asidtab.toNat + 8 * i)
      bitAt e.toNat 0 && s.expzFrom pa [(43, 13), (30, 13), (24, 6), (18, 6)] (Bits.of e 51 16 * 2 ^ 16))

/-- The physical address of a byte that the device itself reads or writes through translation, on a page with the
rights asked that is not RMT (R480, R490), and whether the page is EXPZ. -/
def State.devPage (s : State) (asid : BitVec 16) (w : Bool) (va : Nat) : Option (Nat × Bool) :=
  match s.transNow asid va with
  | .error _ => none
  | .ok (p, n) => if pteRmt p || !(if w then pteW p else pteR p) then none else some (ptePa p n va, pteExpz p)

/-- That physical address alone. -/
def State.devPa (s : State) (asid : BitVec 16) (w : Bool) (va : Nat) : Option Nat := (s.devPage asid w va).map (·.1)

/-- Every page of a region has the rights asked. -/
def State.devOk (s : State) (asid : BitVec 16) (w : Bool) (va len : Nat) : Bool :=
  len = 0 || (List.range ((va + len - 1) / 2 ^ 18 - va / 2 ^ 18 + 1)).all fun i =>
    (s.devPa asid w (if i = 0 then va else (va / 2 ^ 18 + i) * 2 ^ 18)).isSome

/-- Bytes that the device reads through translation; nothing if a page fails. -/
def State.devRead (s : State) (asid : BitVec 16) (va n : Nat) : Option (List Byte) :=
  (List.range n).mapM fun i => (s.devPa asid false (va + i)).map (Memory.get s.mem)

/-- A little-endian number that the device reads. -/
def State.devNum (s : State) (asid : BitVec 16) (va n : Nat) : Option Nat := (s.devRead asid va n).map fromBytes

/-- Bytes that the device writes through translation; a byte that fails, or whose EXPZ line finds no slot (R234), is left out (R480). -/
def State.devWrite (s : State) (asid : BitVec 16) : Nat → List Byte → State
  | _, [] => s
  | va, b :: bs =>
    let s := match s.devPage asid true va with
      | some (pa, z) => if s.noSlot pa z then s else s.storeLine pa [b] z
      | none => s
    State.devWrite s asid (va + 1) bs

/-! ### Reduce traces (R259) -/

/-- An event at a home slice for the trace of launch `l`, in the part of a die; its entry is written to the region later in the step. -/
def State.traceOne (s : State) (l die : Nat) (kind : Nat) (va : Nat) (data src : BitVec 32) : State :=
  if (s.launch l).trace = 0 then s
  else { s with traceQ := s.traceQ ++ [⟨l, die, toBytes 8 (va % 2 ^ 56 + 2 ^ 56 * kind) ++ toBytes 4 data.toNat ++ toBytes 4 src.toNat⟩] }

/-- The same for every launch of a list. -/
def State.traceAll (s : State) (ls : List Nat) (die kind va : Nat) (data : BitVec 32) : State :=
  ls.foldl (fun s l => s.traceOne l die kind va data 0) s

/-! ### Watchpoints (R335, R336) -/

/-- The watchpoint matches the aligned 8-byte word at a physical address. -/
def Watch.matches (w : Watch) (word : Nat) (v : Word) : Bool :=
  w.armed && decide (w.pa ≤ word ∧ word + 8 ≤ w.pa + w.len) && (v &&& w.m) == (w.v &&& w.m)

/-- Fire watchpoint `h`: its launch record is to be submitted, unless 16 submissions are queued (R336). -/
def State.fire (s : State) (h : Nat) (w : Watch) : State :=
  let w := { w with armed := w.armed && !w.oneshot }
  if w.queued ≥ 16 then
    let s := { s with watch := s.watch.set h { w with overflow := true } }
    if w.overflow then s else s.raise evWpovf
  else { s with watch := s.watch.set h { w with queued := w.queued + 1 }, fires := s.fires ++ [⟨some h, w.lrec, w.asid, []⟩] }

/-- A value has been applied to the 8-byte word that holds a physical address; `fired` lists the watchpoints that the
same write has fired already. -/
def State.applied (s : State) (fired : List Nat) (pa : Nat) : State × List Nat :=
  let word := pa / 8 * 8
  s.watch.foldl (fun (x : State × List Nat) hw =>
    if x.2.contains hw.1 || !hw.2.matches word (x.1.load64 word) then x
    else (x.1.fire hw.1 (x.1.watch.get hw.2 hw.1), hw.1 :: x.2)) (s, fired)

/-- The same for every word from `pa` on over `n` bytes. -/
def State.appliedOver (s : State) (fired : List Nat) (pa n : Nat) : State × List Nat :=
  if n = 0 then (s, fired)
  else (List.range ((pa + n - 1) / 8 - pa / 8 + 1)).foldl (fun x i => x.1.applied x.2 (8 * (pa / 8 + i))) (s, fired)

/-! ### Flushes and roundings (R226 to R231) -/

/-- Begin the flush of the REDUCE line of a line number, if one is open. -/
def State.startFlush (s : State) (line : Nat) : State :=
  match s.reduce.find? (fun r => r.line == line) with
  | none => s
  | some r =>
    let s := { s with reduce := s.reduce.filter (fun x => x.line != line), flushQ := s.flushQ ++ [r] }
    s.traceAll r.launches (homeDie (128 * line)) 2 r.va (laneMask fun w => (r.sums.find w).isSome)

/-- Apply a flush that has begun; a failing line is marked poisoned and recorded, and takes no sum (R228). -/
def State.applyFlush (s : State) (r : ReduceLine) : State :=
  match s.bad.find r.line with
  | some _ => { s with bad := s.bad.set r.line Code.poison }.memErr (128 * r.line)
  | none =>
    let s := { s with mem := applySums s.mem r.line r.sums }
    (r.sums.foldl (fun x w => x.1.applied x.2 (128 * r.line + 4 * w.1)) (s, [])).1

/-- The lines of an operation whose accesses are parked: one request of a slice's fault queue each (R465; log 83). -/
def MemOp.parkedLines (o : MemOp) : List Nat := dedup (o.acc.filterMap fun a => match a.at_ with
  | .phys p => if a.parked.isSome then some (lineOf p) else none
  | _ => none)

/-- Two physical addresses have one home slice. -/
def sameSlice (a b : Nat) : Bool := homeDie a == homeDie b && homeSlice a == homeSlice b

/-- Requests parked at the home slice of an address: lines of operations, flushes, and elements of a step (R416, R465). -/
def State.parkedAt (s : State) (pa : Nat) : Nat :=
  ((s.ops.flatMap MemOp.parkedLines).filter fun l => sameSlice (128 * l) pa).length +
    (s.flushQ.filter fun r => r.parked.isSome && sameSlice (128 * r.line) pa).length + (s.applyQ.filter fun q => sameSlice q.2.1 pa).length

/-- Under service, a flush that meets a failing line is parked while the slice's queue has room (R228, R465). -/
def State.flushParks (s : State) (r : ReduceLine) : Bool :=
  s.hr.service != 0 && (s.bad.find r.line).isSome && (r.parked.isSome || decide (s.parkedAt (128 * r.line) < 64))

/-- Apply a flush that has begun, or park it. -/
def State.doFlush (s : State) (r : ReduceLine) : State :=
  if !s.flushParks r then { s with flushQ := s.flushQ.erase r }.applyFlush r
  else if r.parked.isSome then s
  else { s with flushQ := s.flushQ.map fun (q : ReduceLine) => if q == r then { q with parked := some s.tick } else q }.raise evFaultq

/-- Apply every flush of one line that has begun, in the order in which they left the slice (R227). -/
def State.drainFlushes (s : State) (line : Nat) : State :=
  (s.flushQ.filter (fun r => r.line == line)).foldl (fun (s : State) r => s.doFlush r) s

/-- Round the shadow of a line, if there is one (R230): the line becomes DIRTY with the rounded elements. -/
def State.roundLine (s : State) (line : Nat) : State :=
  match s.shadow.find? (fun r => r.line == line) with
  | none => s
  | some sh =>
    let s := { s with shadow := s.shadow.filter (fun x => x.line != line) }
    let s := s.storeLine (128 * line) (shadowBytes sh) (s.isExpz (128 * line)) sh.launches
    let s := s.traceAll sh.launches (homeDie (128 * line)) 4 sh.va 0
    (s.appliedOver [] (128 * line) 128).1

/-- Bring memory up to date for an access that reads or writes a line plainly (R227, R230). -/
def State.clean (s : State) (line : Nat) : State := ((s.startFlush line).drainFlushes line).roundLine line

/-- The same for every line of a region. -/
def State.cleanOver (s : State) (pa n : Nat) : State :=
  if n = 0 then s
  else (List.range ((pa + n - 1) / 128 - pa / 128 + 1)).foldl (fun s i => s.clean (pa / 128 + i)) s

/-- Store bytes from a physical address on; a byte of an EXPZ line that finds no overflow slot is left out (R234; log 82). -/
def State.storeAll (s : State) : Nat → List Byte → State
  | _, [] => s
  | pa, b :: bs => State.storeAll (if s.noSlot pa (s.isExpz pa) then s else s.storeLine pa [b] (s.isExpz pa)) (pa + 1) bs

/-- Bytes that the device, or the host, stores at physical addresses, over lines that are brought up to date (R224). -/
def State.physPut (s : State) (pa : Nat) (bs : List Byte) : State := (s.cleanOver pa bs.length).storeAll pa bs

/-- Bring memory up to date under the lines of a virtual region. -/
def State.devClean (s : State) (asid : BitVec 16) (va n : Nat) : State :=
  if n = 0 then s
  else (List.range ((va + n - 1) / 128 - va / 128 + 1)).foldl (fun s i =>
    match s.devPa asid false (128 * (va / 128 + i)) with
    | some pa => s.clean (lineOf pa)
    | none => match s.devPa asid true (128 * (va / 128 + i)) with
      | some pa => s.clean (lineOf pa)
      | none => s) s

/-- Bytes that the device writes through translation, over lines that are brought up to date (R227). -/
def State.devPut (s : State) (asid : BitVec 16) (va : Nat) (bs : List Byte) : State :=
  (s.devClean asid va bs.length).devWrite asid va bs

/-- Bytes that the device reads through translation, from lines that are brought up to date (R227). -/
def State.devGet (s : State) (asid : BitVec 16) (va n : Nat) : State × Option (List Byte) :=
  let s := s.devClean asid va n
  (s, s.devRead asid va n)

/-- Write one entry of a trace, or count it as dropped; the header of the part says how many of both there are (R259). A region too short
for its headers takes nothing. -/
def State.writeTrace (s : State) (q : Trace) : State :=
  let x := s.launch q.launch
  let part := x.tracesz / 4
  let base := x.trace.toNat + q.die * part
  let (n, d) := x.traceN.get (0, 0) q.die
  if part < 16 then s
  else
    let fits := decide (16 + 16 * (n + 1) ≤ part)
    let (n', d') := if fits then (n + 1, d) else (n, d + 1)
    let s := s.modLaunch q.launch fun x => { x with traceN := x.traceN.set q.die (n', d') }
    let s := if fits then s.devPut x.asid (base + 16 + 16 * n) q.bytes else s
    s.devPut x.asid base (toBytes 8 n' ++ toBytes 8 d')

/-- The parts of a launch's trace region that took no entry get their header: nothing written, nothing dropped (R259). -/
def State.traceHeaders (s : State) (l : Nat) : State :=
  let x := s.launch l
  let part := x.tracesz / 4
  if x.trace = 0 ∨ part < 16 then s
  else (List.range 4).foldl (fun (s : State) d =>
    if (x.traceN.find d).isSome then s else s.devPut x.asid (x.trace.toNat + d * part) (copies 16 0)) s

/-- Write the entries that are still to be written; a write that flushes or rounds a line of the region may add one. -/
def State.drainTraces : (fuel : Nat) → State → State
  | 0, s => s
  | n + 1, s => match s.traceQ with
    | [] => s
    | q :: qs => State.drainTraces n (({ s with traceQ := qs }).writeTrace q)

/-- Fuel that drains every entry. -/
def State.traceFuel (s : State) : Nat :=
  s.traceQ.length + s.reduce.foldl (fun n r => n + r.launches.length) 0 + s.shadow.foldl (fun n r => n + r.launches.length) 0

/-! ### Reporting faults (R46, R464, R339) -/

/-- A fault as it is reported. -/
structure FaultRep where
  code : Code
  pc : Word
  waveid : BitVec 32
  info : Word
  mstat : Word
  imprecise : Bool
  ended : Bool
  orig : Code

/-- A plain fault report. -/
def FaultRep.of (code : Code) (pc : Word) (waveid : BitVec 32) : FaultRep := ⟨code, pc, waveid, 0, 0, false, false, 0⟩

/-- The 48 bytes of a gang fault record after a first fault (R464). -/
def FaultRep.bytes (f : FaultRep) : List Byte :=
  toBytes 4 1 ++ toBytes 4 f.code.toNat ++ toBytes 8 f.pc.toNat ++ toBytes 4 f.waveid.toNat ++
    toBytes 4 ((if f.imprecise then 1 else 0) + (if f.ended then 2 else 0)) ++ toBytes 8 f.info.toNat ++
    toBytes 8 f.mstat.toNat ++ toBytes 4 f.orig.toNat

/-- Report a fault of gang `g`: its fault record counts it and keeps the first, and so does its launch (R464, R339). -/
def State.report (s : State) (g : Nat) (f : FaultRep) : State :=
  let gg := s.gang g
  let l := s.launch gg.launch
  let s := s.modLaunch gg.launch fun l =>
    { l with nfault := l.nfault + 1, first := if l.first.isNone then some ⟨f.code, f.pc, f.waveid⟩ else l.first }
  if l.faultrec = 0 then s
  else
    let a := l.faultrec.toNat + 64 * gg.gangid.toNat
    let s := s.devClean gg.asid a 48
    match s.devNum gg.asid a 4 with
    | some 0 => s.devWrite gg.asid a f.bytes
    | some n => s.devWrite gg.asid a (toBytes 4 (n + 1))
    | none => s

/-! ### Position of a wave (R60 to R63) -/

/-- COUNT and CLASS of a clause header (R56). -/
def hdrCount (h : BitVec 32) : Nat := field h.toNat 3 0
def hdrClass (h : BitVec 32) : Nat := field h.toNat 6 4

/-- Words an instruction takes, by its opcode (R87). -/
def opWords (w : BitVec 32) : Nat := if 0x80 ≤ w.toNat / 2 ^ 24 ∧ w.toNat / 2 ^ 24 < 0xf0 then 2 else 1

/-- The address of the word at the wave's place. -/
def Wave.here (w : Wave) : Word := if w.phase = .issue then w.pc + 4 + 4 * BitVec.ofNat 64 w.idx else w.pc + 4

/-- The first word of the instruction at the wave's place. -/
def Wave.word (w : Wave) : BitVec 32 := nth 0 w.words w.idx

/-- The address of the header after the clause. -/
def Wave.nextHeader (w : Wave) : Word := w.pc + 4 + 4 * BitVec.ofNat 64 (hdrCount w.hdr)

/-- Fetch a clause at an address next. -/
def Wave.fetchAt (w : Wave) (a : Word) : Wave := { w with phase := .fetch, pc := a, idx := 0, resume := .no }

/-- Close a pass of the loop entries that end at `fin`, from the top (the last of the list) down (R38): a count that
stays above 0 loops back, otherwise the entry is popped and the new top is compared. -/
def closeLoop (fin : Word) : (top : List LoopEntry) → Option Word × List LoopEntry
  | [] => (none, [])
  | e :: rest =>
    if e.fin ≠ fin then (none, e :: rest)
    else if 2 ≤ e.count.toNat then (some e.start, { e with count := e.count - 1 } :: rest)
    else closeLoop fin rest

/-- The clause is complete with its last instruction at `fin`: a pass may close (R38); in a handler the loop stack is
frozen (R459). -/
def Wave.endClause (w : Wave) (fin : Word) : Wave :=
  if w.inHandler then w.fetchAt w.nextHeader
  else
    let (go, ls) := closeLoop fin w.ls.reverse
    { w with ls := ls.reverse }.fetchAt (go.getD w.nextHeader)

/-- Go on behind an instruction of `len` words. -/
def Wave.advance (w : Wave) (len : Nat) : Wave :=
  if hdrCount w.hdr ≤ w.idx + len then w.endClause w.here else { w with idx := w.idx + len }

/-- Unwind the loop stack for a taken branch (R39): pop while the target lies outside the top entry's range. -/
def unwindLoop (target : Word) : (top : List LoopEntry) → List LoopEntry
  | [] => []
  | e :: rest => if e.start.toNat ≤ target.toNat ∧ target.toNat ≤ e.fin.toNat then e :: rest else unwindLoop target rest

/-- Take a branch: unwind where the rule says so (not in a handler, R459), fetch at the target. -/
def Wave.jump (w : Wave) (unwinds : Bool) (target : Word) : Wave :=
  if unwinds && !w.inHandler then { w with ls := (unwindLoop target w.ls.reverse).reverse }.fetchAt target
  else w.fetchAt target

/-- Count an issued instruction (R49): a handler's own instructions are not counted. -/
def Wave.count (w : Wave) : Wave :=
  { w with icount := if w.inHandler then w.icount else w.icount + 1, blockedAt := none, held := false, waiting := none, redo := none }

/-- The instruction at the wave's place is done: count it and go on. -/
def Wave.retire (w : Wave) (len : Nat) : Wave := w.count.advance len

/-- The same on the state. -/
def State.retire (s : State) (len : Nat) : State := s.modWave (·.retire len)

/-- The wave stays at its instruction, and the time does not count as blocked time: R49 does not list what it waits for, such as a walk, a
fence or a release (log 104). -/
def State.hold (s : State) : State := s.modWave fun w => { w with held := true, blockedAt := none }

/-- The wave stays at its instruction; the time it is blocked from counts toward the stall limit (R49, R61). -/
def State.block (s : State) : State :=
  s.modWave fun w => { w with held := true, blockedAt := match w.blockedAt with
    | none => some (s.clock (dieOf w.core))
    | some t => some t }

/-! ### Barriers (R30, R31, R157, R160) -/

/-- A wave has arrived at the barrier of a scope that stands at a phase. -/
def Wave.atBar (w : Wave) (scope phase : Nat) : Bool := w.waiting == some (.bar scope phase)

/-- All of the live waves have arrived, and there is one (R31). -/
def allAtBar (scope phase : Nat) (ws : List (Nat × Wave)) : Bool := !ws.isEmpty && ws.all (fun w => w.2.atBar scope phase)

/-- The gangs of a launch that have been placed and have waves that have not ended. -/
def State.gangsOf (s : State) (l : Nat) : List (Nat × Gang) :=
  s.gangs.filter fun g => g.2.launch == l && g.2.status != .ready && g.2.status != .retired && !(s.liveOf g.1).isEmpty

/-- The core barrier of a workgroup passes when all its live waves have arrived (R30, R31). -/
def State.settleCore (s : State) (g wg : Nat) : State :=
  if allAtBar 1 ((s.gang g).wgAt wg).barPhase ((s.liveOf g).filter (fun w => w.2.wg == wg)) then
    s.modGang g fun gg => gg.modWg wg fun x => { x with barPhase := x.barPhase + 1 }
  else s

/-- The quad barrier of a gang. -/
def State.settleQuad (s : State) (g : Nat) : State :=
  if allAtBar 2 (s.gang g).barPhase (s.liveOf g) then s.modGang g fun gg => { gg with barPhase := gg.barPhase + 1 } else s

/-- The die barrier of a launch (R30, R31). -/
def State.settleDie (s : State) (l die : Nat) : State :=
  let gs := (s.gangsOf l).filter (fun g => g.2.die == die)
  if !gs.isEmpty && gs.all (fun g => allAtBar 3 (nth 0 (s.launch l).dieBar die) (s.liveOf g.1)) then
    s.modLaunch l fun x => { x with dieBar := x.dieBar.set die (nth 0 x.dieBar die + 1) }
  else s

/-- The package barrier of a launch. -/
def State.settlePkg (s : State) (l : Nat) : State :=
  let gs := s.gangsOf l
  if !gs.isEmpty && gs.all (fun g => allAtBar 4 (s.launch l).pkgBar (s.liveOf g.1)) then
    s.modLaunch l fun x => { x with pkgBar := x.pkgBar + 1 }
  else s

/-- The phase that a barrier of a scope stands at, for a wave of gang `g`, workgroup `wg`. -/
def State.barPhase (s : State) (g wg scope : Nat) : Nat :=
  let gg := s.gang g
  match scope with
  | 1 => (gg.wgAt wg).barPhase
  | 2 => gg.barPhase
  | 3 => nth 0 (s.launch gg.launch).dieBar gg.die
  | _ => (s.launch gg.launch).pkgBar

/-- Complete the barrier of a scope where an arrival or an ended wave of gang `g`, workgroup `wg` completes it (R31). -/
def State.settle (s : State) (g wg scope : Nat) : State :=
  match scope with
  | 1 => s.settleCore g wg
  | 2 => s.settleQuad g
  | 3 => s.settleDie (s.gang g).launch (s.gang g).die
  | _ => s.settlePkg (s.gang g).launch

/-- A numbered barrier of a workgroup. -/
def Wg.bar (w : Wg) (n : Nat) : NBar := w.nb.get ⟨1, 0, 0, []⟩ n

/-- arrive(n) of R160 on one barrier. -/
def NBar.arrive (b : NBar) : NBar :=
  if b.count + 1 = b.expect then { b with count := 0, phase := b.phase + 1 } else { b with count := b.count + 1 }

/-- passed(n, t) of R160: (PHASE − t) mod 2^32 is in 1 .. 2^31. -/
def NBar.passed (b : NBar) (t : BitVec 32) : Bool := decide (1 ≤ (b.phase - t).toNat ∧ (b.phase - t).toNat ≤ 2 ^ 31)

/-- Numbered barrier `n` of workgroup `wg` of gang `g`. -/
def State.nbar (s : State) (g wg n : Nat) : NBar := ((s.gang g).wgAt wg).bar n

/-- Change a numbered barrier. -/
def State.modNbar (s : State) (g wg n : Nat) (f : NBar → NBar) : State :=
  s.modGang g fun gg => gg.modWg wg fun x => { x with nb := x.nb.set n (f (x.bar n)) }

/-- A `kemit` whose slots have not come: its records are still to be stored (R352). -/
def MemOp.emits (o : MemOp) : Bool := match o.fill with
  | .emit .. => true
  | _ => false

/-- Some of the operations numbered have accesses left to perform. -/
def State.anyOpen (s : State) (ids : List Nat) : Bool := s.ops.any fun o => ids.contains o.id && (o.emits || !o.acc.isEmpty)

/-- Arrive at a numbered barrier, behind the operations numbered (R162, R273): the token and the state (R160). -/
def State.arrive (s : State) (g wg n : Nat) (behind : List Nat) : BitVec 32 × State :=
  ((s.nbar g wg n).phase, s.modNbar g wg n fun b => { b.arrive with behind := b.behind.filter (fun i => s.anyOpen [i]) ++ behind })

/-- A wait on a numbered barrier with a token may end: the barrier passed, and the accesses before its arrivals are
performed (R160, R162). -/
def State.nbDone (s : State) (g wg n : Nat) (t : BitVec 32) : Bool :=
  (s.nbar g wg n).passed t && !s.anyOpen (s.nbar g wg n).behind

/-- Take back an arrival that has not completed its barrier (R159). -/
def State.withdrawNb (s : State) (g wg n : Nat) (t : BitVec 32) : State :=
  if (s.nbar g wg n).passed t then s else s.modNbar g wg n fun b => { b with count := b.count - 1 }

/-- A request of an operation is parked (R465). -/
def MemOp.isParked (o : MemOp) : Bool := o.acc.any fun a => a.parked.isSome

/-- Whether what wave `k` waits for inside the instruction it has begun has come, or cannot be withdrawn, or where fetch goes on is still to
be read: the wave is then not at an instruction boundary (R36, R159, R257). -/
def State.midInstr (s : State) (k : Nat) : Bool :=
  let w := s.waveAt k
  (w.phase == .fetch && w.resume == .past) || match w.waiting with
  | some (.bar sc ph) => s.barPhase w.gang w.wg sc != ph
  | some (.nb n t) => (s.nbar w.gang w.wg n).passed t
  | some (.nbwait n t) => (s.nbar w.gang w.wg n).passed t
  | some (.step n _ ends) => ends.isSome || s.step.outcomes.any (fun o => o.1 == n)
  | some (.atomic id) => !(s.ops.any fun o => o.id == id && o.isParked)
  | none => false

/-! ### Ending a wave (R43, R44, R47) -/

/-- A wave still has an operation in the retirement tracker (R42). -/
def State.tracked (s : State) (k : Nat) : Bool :=
  s.ops.any (fun o => o.tracker && o.wave == k) || s.cmds.any (fun c => c.tracker && c.wave == k)

/-- Free the slot of an ended wave whose last tracker entry has drained, or of a `tail`ed wave whose registers are all
full (R43, R44). -/
def State.releaseSlot (s : State) (k : Nat) : State :=
  let w := s.waveAt k
  match w.status with
  | .ended => if s.tracked k then s else s.setWaveAt k { w with status := .gone }
  | .tailed => if w.allFull then s.setWaveAt k { w with status := .gone } else s
  | _ => s

/-- The numbered barrier that a sequencer waits at and its token there (R382). -/
def Seqr.waitsAt (q : Seqr) : Nat × BitVec 32 :=
  let n := field (nth 0 q.words q.widx).toNat 23 16
  (n, q.tokens.get 0 n)

/-- A sequencer stands at a numbered barrier that has not passed. -/
def State.seqWaits (s : State) (q : Seqr) : Bool :=
  q.status == .wait && !q.rearm && !(s.nbar q.gang q.wg q.waitsAt.1).passed q.waitsAt.2

/-- Stop the sequencer of a workgroup whose waves have all ended while it waits at a numbered barrier (R47). -/
def State.abandon (s : State) (g wg : Nat) : State :=
  let k := seqKey g wg
  match s.seqs.find k with
  | none => s
  | some q =>
    if s.seqWaits q ∧ ((s.liveOf g).filter (fun w => w.2.wg == wg)).isEmpty then
      let s := { s with seqs := s.seqs.set k { q with status := .stopped } }
      s.report g { FaultRep.of Code.seqAbandoned q.mpc 0 with mstat := q.mstat, ended := true }
    else s

/-- The sequencer whose fault wave `k` handles stops when that wave ends (R388). -/
def State.stopHandled (s : State) (w : Wave) : State :=
  let k := seqKey w.gang w.wg
  if w.inHandler ∧ w.trap.cause.toNat % 256 = Code.mtxFault.toNat then
    match s.seqs.find k with
    | some q => if q.status = .fault then { s with seqs := s.seqs.set k { q with status := .stopped } } else s
    | none => s
  else s

/-- End wave `k`: the imprecise faults it has not taken go to the records (R46), it leaves every scoped barrier, its loop stack is discarded, and its slot is freed when R43 or R44
says so. -/
def State.endWave (s : State) (k : Nat) (tail : Bool) : State :=
  let w := s.waveAt k
  let s := w.pend.foldl (fun (s : State) f => s.report w.gang { FaultRep.of f.code f.pc f.waveid with
    info := f.pc, imprecise := true, ended := true }) (s.stopHandled w)
  let s := s.setWaveAt k { w with status := if tail then .tailed else .ended, ls := [], waiting := none, blockedAt := none, held := false,
                                  inHandler := false, pend := [] }
  let s := [1, 2, 3, 4].foldl (fun s sc => s.settle w.gang w.wg sc) s
  ((s.forget (waveWaiter k)).abandon w.gang w.wg).releaseSlot k

/-! ### Taking a trap (R457 to R460) and returning (R461) -/

/-- Withdraw what wave `k` waits for inside an instruction it has begun, where that has not completed (R159, R261,
R351): the instruction is reissued later, a `bar.pod` at the step that is then current (R158). An
atomic whose request is parked is not withdrawn (R465): the wave stands behind it. -/
def State.withdraw (s : State) (k : Nat) : State :=
  let w := s.waveAt k
  let s := match w.waiting with
    | some (.nb n t) => s.withdrawNb w.gang w.wg n t
    | _ => s
  let w := match w.waiting with
    | some (.atomic id) => if s.ops.any (fun o => o.id == id) then w.retire (opWords w.word) else w
    | _ => w
  (s.forget (waveWaiter k)).setWaveAt k { w with waiting := none, blockedAt := none, held := false }

/-- The trap entry of a wave's kernel, if it has one (R451, R477). -/
def State.trapEntry (s : State) (w : Wave) : Option Word :=
  let kd := (s.launch (s.gang w.gang).launch).kernel
  if kd.trap = 0xffffffff then none else some (kd.code + kd.trap.setWidth 64)

/-- Whether the clause at the wave's address is still to be fetched with its header unknown. -/
def Wave.unfetched (w : Wave) : Bool := w.phase == .fetch && (match w.resume with
  | .kept _ _ => false
  | _ => true)

/-- The word index at which the wave goes on. -/
def Wave.nextIdx (w : Wave) : Nat :=
  if w.phase = .fetch then (match w.resume with
    | .no => 0
    | .past => 0
    | .fresh i => i
    | .kept i _ => i)
  else w.idx

/-- The wave stands at a header whose wait conditions have still to be checked (HWAIT, R462). -/
def Wave.hwait (w : Wave) : Bool := w.phase == .wait || (w.phase == .fetch && (match w.resume with
  | .kept _ h => h
  | _ => false))

/-- The trap-state registers of a trap of wave `w` (R452, R462): `next` is the word index to resume at. -/
def Wave.trapState (w : Wave) (code : Code) (info : Word) (imp : Bool) (next : Nat) (dmask : Option (Map (BitVec 32)))
    (mstat mpc : Word) : TrapState :=
  { cause := BitVec.ofNat 64 (code.toNat + 256 * w.nextIdx), pc := w.pc + 4 + 4 * BitVec.ofNat 64 w.nextIdx, info := info,
    kind := BitVec.ofNat 64 ((if imp then 1 else 0) + (if dmask.isSome then 2 else 0) + (if w.hwait then 4 else 0)),
    haddr := w.pc, haddrWritten := false, hdr := if w.unfetched then 0 else w.hdr, next := BitVec.ofNat 4 next,
    mstat := mstat, mpc := mpc, done := dmask.getD [], unfetched := w.unfetched, past := w.resume == .past && w.phase == .fetch,
    words := w.words }

/-- The 256 vector full/empty bits. -/
def Wave.vFulls (w : Wave) : BitVec 256 :=
  fullWord w.vShown 3 ++ fullWord w.vShown 2 ++ fullWord w.vShown 1 ++ fullWord w.vShown 0

/-- Entry `i` of the loop stack; entries at or above LSDEPTH read as zero (R155). -/
def Wave.lsEntry (w : Wave) (i : Nat) : LoopEntry := nth ⟨0, 0, 0⟩ w.ls i

/-- The trap-state registers 0x100 to 0x125 (R462). -/
def Wave.trapReg (w : Wave) (n : Nat) : Option Word :=
  let t := w.trap
  if n = 0x100 then some t.cause
  else if n = 0x101 then some t.pc
  else if n = 0x102 then some t.info
  else if n = 0x103 then some t.kind
  else if n = 0x104 then some t.haddr
  else if n = 0x105 then some (t.hdr.setWidth 64)
  else if n = 0x106 then some (t.next.setWidth 64)
  else if n = 0x107 then some t.mstat
  else if n = 0x108 then some t.mpc
  else if 0x110 ≤ n ∧ n < 0x120 then some ((t.done.get 0 (n - 0x110)).setWidth 64)
  else if 0x120 ≤ n ∧ n < 0x124 then some (w.tfev.extractLsb' (64 * (n - 0x120)) 64)
  else if 0x124 ≤ n ∧ n < 0x126 then some (fullWord w.sShown (n - 0x124))
  else none

/-- Restore the vector full/empty bits from TFEV (R461, R462). -/
def Wave.thaw (w : Wave) : Wave :=
  (List.range w.vregN).foldl (fun w n => if w.vFull n = w.tfev.getLsbD n then w else w.setVFull n (w.tfev.getLsbD n)) w

/-- Data arrives in v`n`: the register fills, and so does its bit in TFEV while a handler runs (R462). -/
def Wave.fillV (w : Wave) (n : Nat) (x : List Lane) : Wave :=
  let w := w.setV n x
  if w.inHandler then { w with tfev := w.tfev ||| BitVec.twoPow 256 n } else w

/-- What a trap is, apart from the wave that takes it. -/
structure TrapArgs where
  code : Code
  info : Word
  imp : Bool := false
  next : Option Nat := none
  dmask : Option (Map (BitVec 32)) := none
  mstat : Word := 0
  mpc : Word := 0
  counts : Bool := true
  header : Option (BitVec 32) := none

/-- Take a trap in wave `k` (R459): fill the trap-state registers, freeze, and fetch at the trap entry. A kernel
without a trap entry ends the wave and the trap is its fault (R452); a trap inside a handler ends the wave with NESTED
(R460). -/
def State.trapIn (s : State) (k : Nat) (t : TrapArgs) : State :=
  let s := s.withdraw k
  let w := s.waveAt k
  if w.inHandler then
    s.report w.gang { FaultRep.of Code.nested w.trap.pc w.waveid with info := w.trap.info, orig := t.code } |>.endWave k false
  else
    let ts := w.trapState t.code t.info t.imp (t.next.getD w.nextIdx) t.dmask t.mstat t.mpc
    let ts := match t.header with
      | some h => { ts with pc := w.pc, hdr := h }
      | none => ts
    let w := { w with icount := if t.counts then w.icount + 1 else w.icount }
    match s.trapEntry w with
    | none =>
      let pc := if t.imp then t.info else ts.pc
      ((s.setWaveAt k w).report w.gang { code := t.code, pc := pc, waveid := w.waveid, info := t.info, mstat := t.mstat,
                                         imprecise := t.imp, ended := false, orig := 0 }).endWave k false
    | some entry =>
      s.setWaveAt k ({ w with trap := ts, tfev := w.vFulls, inHandler := true, redo := none }.fetchAt entry)

/-- An instruction of wave `k` that completes before the wave stops for a trap or a save is still under way (R351). -/
def State.unfinished (s : State) (k : Nat) : Bool :=
  s.ops.any (fun o => o.wave == k && o.emits) || s.cmds.any fun c => c.wave == k && c.op == .claimDone

/-- The instruction of the wave whose turn it is traps, once what R351 names is complete. -/
def State.trap (s : State) (code : Code) (info : Word) : State :=
  if s.unfinished s.cur then s.hold else s.trapIn s.cur { code := code, info := info }

/-- ILLEGAL at the instruction at the wave's place: TINFO holds its first word (R463). -/
def State.illegal (s : State) : State := s.trap Code.illegal (s.wave.word.setWidth 64)

/-- The place of the last instruction of a clause, by the lengths of its words (R38, R87). -/
def lastIndex : (fuel : Nat) → (words : List (BitVec 32)) → (i : Nat) → Nat
  | 0, _, i => i
  | _, [], i => i
  | n + 1, w :: ws, i =>
    let len := opWords w
    if (w :: ws).length ≤ len then i else lastIndex n ((w :: ws).drop len) (i + len)

/-- Return from a trap handler (R461). -/
def Wave.returnTrap (w : Wave) : Wave :=
  let t := w.trap
  let next := t.next.toNat
  let count := hdrCount t.hdr
  let redo := if bitAt t.kind.toNat 1 ∧ next = field t.cause.toNat 11 8 ∧ !t.haddrWritten then some t.done else none
  let w := { w with inHandler := false, redo := redo }.thaw
  if t.haddrWritten then { w.fetchAt t.haddr with resume := .fresh next }
  else if t.unfetched then { w.fetchAt t.haddr with resume := if t.past then .past else if next = 0 then .no else .fresh next }
  else if count ≤ next then
    let i := lastIndex t.words.length t.words 0
    let fin := t.haddr + 4 + 4 * BitVec.ofNat 64 i
    let w := { w with pc := t.haddr, hdr := t.hdr }
    let op := (nth 0 t.words i).toNat / 2 ^ 24
    if hdrClass t.hdr = 0 ∧ (op = 0x36 ∨ op = 0xb6) then w.fetchAt w.nextHeader else w.endClause fin
  else { w.fetchAt t.haddr with hdr := t.hdr, resume := .kept next (bitAt t.kind.toNat 2) }

/-! ### Faults of a matrix sequencer (R381, R388) -/

/-- MROW and PART of MSTAT (R388). -/
def Seqr.mrow (q : Seqr) : Nat := Bits.of q.mstat 5 0
def Seqr.part (q : Seqr) : Bool := bitAt q.mstat.toNat 7

/-- Set MROW and PART, the fault fields being 0. -/
def Seqr.progress (q : Seqr) (mrow : Nat) (part : Bool) : Seqr :=
  { q with mstat := BitVec.ofNat 64 (mrow + if part then 2 ^ 7 else 0) }

/-- The sequencer of key `k` has a fault that a wave of its workgroup handles now. -/
def State.seqHandled (s : State) (q : Seqr) : Bool :=
  (s.liveOf q.gang).any fun w => w.2.wg == q.wg && w.2.inHandler && Bits.of w.2.trap.cause 7 0 == Code.mtxFault.toNat

/-- The wave of a workgroup with the lowest WAVENO that has not ended. -/
def State.lowestWave (s : State) (g wg : Nat) : Option (Nat × Wave) :=
  ((s.liveOf g).filter fun w => w.2.wg == wg).foldl (fun (x : Option (Nat × Wave)) w => match x with
    | none => some w
    | some y => if w.2.no < y.2.no then some w else x) none

/-- Stop sequencer `k`. -/
def State.stopSeq (s : State) (k : Nat) : State :=
  match s.seqs.find k with
  | some q => { s with seqs := s.seqs.set k { q with status := .stopped } }
  | none => s

/-- Raise the fault of sequencer `k` as MTX_FAULT in the wave of its workgroup with the lowest WAVENO (R388); a wave that is
in a handler, inside an instruction that completes, or stopped for a save takes it afterwards. With no wave left the fault
goes to the gang's record and the sequencer stops; it stops too where the wave ends for want of a trap entry. -/
def State.seqDeliver (s : State) (k : Nat) : State :=
  match s.seqs.find k with
  | none => s
  | some q =>
    if q.status ≠ .fault ∨ s.seqHandled q then s
    else match s.lowestWave q.gang q.wg with
      | none => (s.report q.gang { FaultRep.of Code.mtxFault q.mpc 0 with mstat := q.mstat, ended := true }).stopSeq k
      | some (i, w) =>
        if w.status ≠ .live ∨ w.inHandler ∨ w.phase = .fetch ∨ s.midInstr i ∨ s.unfinished i then s
        else
          let s := s.trapIn i { code := Code.mtxFault, info := 0, mstat := q.mstat, mpc := q.mpc, counts := false }
          if (s.waveAt i).status = .live then s else s.stopSeq k

/-- A wave returns from the handler of MTX_FAULT: the sequencer goes on if RES is 1, and stops otherwise (R381). -/
def State.seqReturn (s : State) (k : Nat) : State :=
  match s.seqs.find k with
  | none => s
  | some q =>
    if q.status ≠ .fault then s
    else if bitAt q.mstat.toNat 6 then { s with seqs := s.seqs.set k { (q.progress q.mrow q.part) with status := .run } }
    else s.stopSeq k

/-! ### Issue (R61, R67) -/

/-- The outcome of the checks before an instruction's own effect, in the order of R67. A wait that R49 lists is `block`, any other `hold`. -/
inductive Check where
  | go
  | illegal
  | empty (info : Word)
  | block
  | hold
  deriving DecidableEq, Repr

/-- A wave can issue: it runs and has fetched its clause. -/
def Wave.canIssue (w : Wave) : Bool := w.status == .live && w.phase == .issue

/-- Issue an instruction of the wave whose turn it is: ILLEGAL, then EMPTY, then waiting, then its effect. A wave that
is not at an instruction does nothing. -/
def State.issue (s : State) (c : Check) (eff : State → State) : State :=
  if !s.wave.canIssue then s
  else match c with
    | .illegal => s.illegal
    | .empty i => s.trap Code.empty i
    | .block => s.block
    | .hold => s.hold
    | .go => eff s

/-- Combine checks: the first that is not `go` decides (R67). -/
def Check.andThen (c d : Check) : Check := match c with
  | .go => d
  | x => x

/-- ILLEGAL unless a condition holds. -/
def Check.need (b : Bool) : Check := if b then .go else .illegal

/-- Wait unless a condition holds. -/
def Check.ready (b : Bool) : Check := if b then .go else .block

/-- The same where the wait does not count toward the stall limit (R49). -/
def Check.still (b : Bool) : Check := if b then .go else .hold

/-- Scalar registers within the wave's allocation (R23). -/
def Wave.sOk (w : Wave) (l : List Nat) : Bool := l.all (fun n => decide (n < w.sregN))

/-- Scalar registers all full. -/
def Wave.sReady (w : Wave) (l : List Nat) : Bool := l.all w.sFull

/-- The check of an instruction with only scalar registers, all under policy 0: those it names are within the
allocation (R23), its sources are full (R81) and so are the registers it will write (R82). -/
def Wave.scalarCheck (w : Wave) (srcs dsts : List Nat) : Check :=
  (Check.need (w.sOk (srcs ++ dsts))).andThen (Check.ready (w.sReady (srcs ++ dsts)))

/-- The outcome type of a meaning. -/
abbrev Out := Host.Outcome State Fault Refusal

/-- Issue an instruction of `len` words that reads and writes only scalar registers and changes only the wave. -/
def State.scalar (s : State) (srcs dsts : List Nat) (len : Nat) (eff : Wave → Wave) : Out :=
  .next (s.issue (s.wave.scalarCheck srcs dsts) fun s => s.modWave fun w => (eff w).retire len)

/-- The instruction of `len` words at the wave's place ends its clause (R62). -/
def Wave.endsClause (w : Wave) (len : Nat) : Bool := decide (hdrCount w.hdr ≤ w.idx + len)

/-- Issue a control transfer, which must end its clause (R62); `eff` is its whole effect. -/
def State.transfer (s : State) (srcs dsts : List Nat) (len : Nat) (eff : State → State) : Out :=
  .next (s.issue ((Check.need (s.wave.endsClause len)).andThen (s.wave.scalarCheck srcs dsts)) eff)

end Sys2Proof.Machine
end

