-- ==== Sys2Proof/Machine/Image.lean ====
section
/-!
DEFINITION. The image of a saved gang in the save area (22_traps_preemption.md, R468, R469; R497): the bytes of its parts, and
writing them again when a word or a fault comes to the gang while it is saved (R467, R458).
-/
namespace Sys2Proof.Machine

/-- A length rounded up to 128 bytes. -/
def pad128 (n : Nat) : Nat := (n + 127) / 128 * 128

/-- Bytes filled up with zeros to a length. -/
def fillTo (n : Nat) (bs : List Byte) : List Byte := bs ++ copies (n - bs.length) 0

/-- Bytes filled up to a 128-byte boundary. -/
def fill128 (bs : List Byte) : List Byte := fillTo (pad128 bs.length) bs

/-- A number with the given bits. -/
def bitsOf (bs : List Bool) : Nat := bs.foldr (fun b n => 2 * n + if b then 1 else 0) 0

/-! ### Wave records (R468) -/

/-- Whether octet `i` of the scalar or the vector registers is in a record. -/
def Wave.octS (w : Wave) (i : Nat) : Bool := match w.saveMap with
  | none => true
  | some m => m.1.getLsbD i
def Wave.octV (w : Wave) (i : Nat) : Bool := match w.saveMap with
  | none => true
  | some m => m.2.getLsbD i

/-- Registers that a `phint` named, or all (R168, R468). -/
def Wave.regBytes (w : Wave) : List Byte :=
  (((List.range ((w.sregN + 7) / 8)).filter w.octS).flatMap fun i => (upto (8 * i) 8).flatMap fun r => toBytes 8 (w.sreg r).toNat) ++
    ((List.range ((w.vregN + 7) / 8)).filter w.octV).flatMap fun i =>
      (upto (8 * i) 8).flatMap fun r => (w.vreg r).flatMap fun l => toBytes 4 l.toNat

/-- The TRAP registers of a record: the handler's, or those that the held fault will give (R458, R462). -/
def Wave.trapBytes (w : Wave) : List Byte :=
  let regs (w : Wave) : List Byte := (upto 0x100 32).flatMap fun n => toBytes 8 ((w.trapReg n).getD 0).toNat
  if w.inHandler then regs w
  else match w.pend with
    | [] => copies 256 0
    | f :: _ => regs { w with trap := w.trapState f.code f.pc true w.nextIdx none 0 0 }

/-- A saved wave record; an ended wave has no registers. A wave that stopped before it fetched its next clause has checked none of its
wait conditions: HWAIT is 1, and there is no header word yet (log 84). -/
def Wave.record (w : Wave) : List Byte :=
  let gone := w.status != .saved
  let flags := bitsOf [!gone && w.saveMap.isNone, w.inHandler, gone, !w.pend.isEmpty, !gone && (w.hwait || w.unfetched)]
  let maps := w.saveMap.getD (0xffff, 0xffffffff)
  let head := toBytes 4 w.waveid.toNat ++ toBytes 4 flags ++ toBytes 8 w.pc.toNat ++
    toBytes 4 (if w.unfetched then 0 else w.hdr.toNat) ++
    toBytes 4 w.nextIdx ++ toBytes 8 w.icount.toNat ++ toBytes 4 w.budget.toNat ++ toBytes 4 w.stall.toNat ++
    toBytes 8 w.ls.length ++
    ((List.range 4).flatMap fun i => toBytes 8 (w.lsEntry i).start.toNat ++ toBytes 8 (w.lsEntry i).fin.toNat ++ toBytes 8 (w.lsEntry i).count.toNat) ++
    ((upto 1 7).flatMap fun p => toBytes 4 (w.pred p).toNat) ++ toBytes 4 w.vstat.toNat ++ toBytes 32 w.vFulls.toNat ++
    toBytes 8 (fullWord w.sShown 0).toNat ++ toBytes 8 (fullWord w.sShown 1).toNat ++ toBytes 4 maps.2.toNat ++ toBytes 2 maps.1.toNat ++
    toBytes 4 (w.bodyNo.getD (2 ^ 32 - 1))
  fill128 (fillTo 256 head ++ (if w.inHandler || !w.pend.isEmpty then w.trapBytes else copies 256 0) ++
    if gone then [] else w.regBytes)

/-! ### The other parts (R469) -/

/-- The barrier part. `launch` has the die and package barriers, for the lowest gang of a unit. -/
def Gang.barrierPart (g : Gang) (x : Option Launch) : List Byte :=
  let wg (w : Wg) : List Byte := fillTo 160 (((List.range 16).flatMap fun n =>
    let b := w.nb.get ⟨0, 0, 0, []⟩ n
    toBytes 8 (b.expect % 256 + 256 * (b.count % 256) + 2 ^ 32 * b.phase.toNat)) ++ toBytes 8 w.barPhase ++ toBytes 8 g.barPhase)
  let wide := match x with
    | none => []
    | some l => (l.dieBar ++ [l.pkgBar]).flatMap fun p => toBytes 4 0 ++ toBytes 4 p
  fill128 (fillTo 680 (fillTo 640 (g.wgs.flatMap wg) ++ wide))

/-- The copy part. -/
def Gang.copyPart (g : Gang) (entries : Nat) (slots : List Slot) : List Byte :=
  fill128 (toBytes 4 g.stage ++ toBytes 4 g.nextEntry ++ toBytes 4 entries ++ toBytes 4 slots.length) ++
    slots.flatMap fun x => fill128 (toBytes 1 x.tag ++ toBytes 1 x.rmask ++ toBytes 1 x.drained ++ copies 5 0 ++
      toBytes 4 x.bytes.length ++ copies 4 0 ++ x.bytes)

/-- A sequencer's number of its state (R381). -/
def SeqStatus.num : SeqStatus → Nat
  | .run => 0
  | .wait => 1
  | .fault => 2
  | .stopped => 3
  | .saved => 4
  | .ended => 5

/-- The format state of an operand, as its half of a format block (R385). -/
def MFmt.bytes (f : MFmt) : List Byte :=
  toBytes 1 f.fmt8.toNat ++ toBytes 1 (Nat.log2 (f.blen / 16)) ++ toBytes 1 (if f.scaled then 1 else 0) ++ copies 5 0 ++ toBytes 8 f.scale.toNat

/-- A sequencer's part: the table of R379 in its order without the hold buffers, then the tiles (R219). -/
def Seqr.bytes (q : Seqr) : List Byte :=
  let md := (List.range 16).flatMap fun i =>
    let d := q.md.get ⟨0, 0, 0⟩ i
    toBytes 8 d.base.toNat ++ toBytes 4 d.stride.toNat ++ toBytes 4 d.cfg.toNat
  let rings := (List.range 16).flatMap fun i =>
    let r := q.rings.get ⟨0, 0, 0, 0, 0, false⟩ i
    toBytes 4 r.base ++ toBytes 4 r.stride ++ toBytes 1 r.nstage ++ toBytes 1 r.head ++ toBytes 1 r.freeb ++
      toBytes 1 (if r.freeen then 1 else 0) ++ copies 4 0
  let loop := (List.range 4).flatMap fun i =>
    let e := nth (LoopEntry.mk 0 0 0) q.loop i
    toBytes 8 e.start.toNat ++ toBytes 8 e.fin.toNat ++ toBytes 8 e.count.toNat
  let tok := (List.range 16).flatMap fun i => toBytes 4 (q.tokens.get 0 i).toNat
  let status := if q.status = .saved then q.before else q.status
  fillTo 1024 (toBytes 8 q.mpc.toNat ++ toBytes 8 q.widx ++ md ++ rings ++ q.fmtx.bytes ++ q.fmty.bytes ++ toBytes 8 q.tq.toNat ++
    toBytes 8 (q.maxmag.toNat + if q.nan then 2 ^ 32 else 0) ++ tok ++ loop ++ toBytes 8 q.loop.length ++ toBytes 8 q.mstat.toNat ++
    toBytes 8 status.num) ++
    (List.range 128).flatMap fun t => (List.range 1024).flatMap fun e => toBytes 4 (Map.get 0 (q.tiles.get [] t) e).toNat

/-- The vault part: each range with its header (R166, R469). -/
def Gang.vaultPart (g : Gang) (rs : List (Nat × Nat)) : List Byte :=
  rs.flatMap fun r => toBytes 4 r.1 ++ toBytes 4 r.2 ++ copies 8 0 ++
    fill128 ((List.range r.2).map fun i => Memory.get g.vault ((r.1 + i) % g.vaultSize))

/-! ### The image (R469) -/

/-- The waves of a gang in wave-number order, with their keys. -/
def State.wavesOf (s : State) (g : Nat) : List (Nat × Wave) :=
  sortBy (s.waves.filter fun w => w.2.gang == g) fun a b => decide (a.2.wg < b.2.wg ∨ (a.2.wg = b.2.wg ∧ a.2.no ≤ b.2.no))

/-- Some wave of the gang is saved whole. -/
def State.savedWhole (s : State) (g : Nat) : Bool := s.waves.any fun w => w.2.gang == g && w.2.status == .saved && w.2.saveMap.isNone

/-- Runs of bytes in rising order, joined where they meet or overlap. -/
def joinRanges (rs : List (Nat × Nat)) : List (Nat × Nat) :=
  (rs.foldl (fun (l : List (Nat × Nat)) r => match l with
    | [] => [r]
    | q :: qs => if r.1 ≤ q.1 + q.2 then (q.1, max q.2 (r.1 + r.2 - q.1)) :: qs else r :: q :: qs) []).reverse

/-- The bytes of ranges of an allocation, each once: ranges that wrap are cut in two, and then joined. -/
def normRanges (size : Nat) (rs : List (Nat × Nat)) : List (Nat × Nat) :=
  let cuts := rs.flatMap fun r => if r.1 + r.2 ≤ size then [r] else [(r.1, size - r.1), (0, r.1 + r.2 - size)]
  joinRanges (sortBy (cuts.filter fun r => r.2 != 0) fun a b => decide (a.1 ≤ b.1))

/-- The vault ranges of a gang's image: the whole allocation where a wave is saved whole, else those that the waves' hints named. Where
these name some bytes so often that they are longer than the allocation together, each byte stands once (log 84). -/
def State.imageRanges (s : State) (g : Nat) : List (Nat × Nat) :=
  let x := s.gang g
  if x.vaultSize = 0 then []
  else if s.savedWhole g then [(0, x.vaultSize)]
  else if x.vaultSize < x.phintRanges.foldl (fun n r => n + r.2) 0 then normRanges x.vaultSize x.phintRanges
  else x.phintRanges

/-- A command that runs on when its gang is saved (R467). -/
def Cmd.runsOn (c : Cmd) : Bool :=
  c.eng != 3 && c.eng != 6 && c.eng != 7 && c.eng != 8

/-- The bytes of a gang's image, `units` of 64 KiB. -/
def State.imageBytes (s : State) (g units : Nat) (unit : Bool) : List Byte :=
  let x := s.gang g
  let l := s.launch x.launch
  let lowest := !s.gangs.any fun y => y.2.launch == x.launch && y.2.status != .retired && decide (y.2.gangid.toNat < x.gangid.toNat)
  let seqs := s.seqs.filter fun q => q.2.gang == g
  let ws := s.wavesOf g
  let ranges := s.imageRanges g
  let fwd := s.cmds.filter fun c => c.gang == g && c.runsOn && c.dreg.isSome && (s.waveAt c.wave).status == .saved
  let bar := x.barrierPart (if unit && lowest then some l else none)
  let copy := x.copyPart l.kernel.ncsch (s.slots.filter fun y => y.gang == g)
  let seq := seqs.flatMap fun q => q.2.bytes
  let vault := fill128 (x.vaultPart ranges)
  let wave := ws.flatMap fun w => w.2.record
  let forward := fwd.flatMap fun c => toBytes 4 ((s.waveAt c.wave).wg * l.kernel.waves + (s.waveAt c.wave).no) ++
    toBytes 2 (c.dreg.getD 0) ++ toBytes 1 c.eng ++ copies 9 0
  let oCopy := 128 + bar.length
  let oSeq := oCopy + copy.length
  let oVault := oSeq + seq.length
  let oWave := oVault + vault.length
  let oFwd := oWave + wave.length
  let cfg := l.kernel.wg + 16 * bitsOf ((List.range l.kernel.wg).map fun i => seqs.any fun q => q.2.wg == i)
  let level := x.resLevel + (if unit then 2 ^ 8 else 0) + if s.savedWhole g then 2 ^ 9 else 0
  let head := toBytes 4 0x474d4947 ++ toBytes 4 units ++ toBytes 8 l.lrec.toNat ++ toBytes 4 x.gangid.toNat ++ toBytes 4 level ++
    toBytes 4 ws.length ++ toBytes 4 cfg ++ toBytes 8 x.vaultSize ++ toBytes 4 ranges.length ++ toBytes 4 fwd.length ++
    toBytes 8 128 ++ toBytes 8 oCopy ++ toBytes 8 (if seqs.isEmpty then 0 else oSeq) ++
    toBytes 8 (if ranges.isEmpty then 0 else oVault) ++ toBytes 8 oWave ++ toBytes 8 (if fwd.isEmpty then 0 else oFwd)
  fillTo 128 head ++ bar ++ copy ++ seq ++ vault ++ wave ++ fill128 forward

/-- Where a run of units starts: the first 64 KiB of the save area are its map (R497). -/
def State.unitAddr (s : State) (first : Nat) : Nat := s.hr.savebase.toNat + 65536 * (1 + first)

/-- Write the image of a gang at its place in the save area. -/
def State.writeImage (s : State) (x : Saved) : State :=
  s.physPut (s.unitAddr x.first) (s.imageBytes x.gang x.units x.unit)

/-- A word or a fault has come to gang `g`: where it is saved, its image takes it in (R467, R458). -/
def State.refreshImage (s : State) (g : Nat) : State :=
  if (s.gang g).status ≠ .saved then s
  else match s.saved.find? fun x => x.gang == g with
    | some x => s.writeImage x
    | none => s

end Sys2Proof.Machine
end

