-- ==== Sys2Proof/Machine/Access.lean ====
section
/-!
DEFINITION. How accesses act where memory lives: stores, sums and shadows at the home slices, the L1 and read-only caches, failing lines,
atomics, the channels from a core to the home slices, and instruction fetch (R221 to R231, R254, R270, R271, R465).
-/
namespace Sys2Proof.Machine

/-! ### Stores, sums and shadows at the home slice (R224 to R231) -/

/-- Bytes that the manual leaves open (log 14). -/
def State.openBytes (s : State) (a n : Nat) : List Byte := (List.range n).map fun i => Config.unpredictable s.tick (a + i)

/-- The virtual address under which a physical one lies in a virtual region, if it does. -/
def State.vaOf (s : State) (asid : BitVec 16) (va n pa : Nat) : Option Nat :=
  if n = 0 then none
  else (List.range ((va + n - 1) / 2 ^ 18 - va / 2 ^ 18 + 1)).findSome? fun i =>
    let a := (va / 2 ^ 18 + i) * 2 ^ 18
    match s.transNow asid a with
    | .ok (p, span) =>
      let x := a + (pa - ptePa p span a)
      if !pteRmt p && decide (ptePa p span a ≤ pa ∧ pa < ptePa p span a + 2 ^ 18 ∧ va ≤ x ∧ x < va + n) then some x else none
    | .error _ => none

/-- Bytes of a virtual region become unpredictable. -/
def State.scramble (s : State) (asid : BitVec 16) (va n : Nat) : State := s.devPut asid va (s.openBytes va n)

/-- A program has stored into the item region of a reserving loop: what follows of the loop is unpredictable, but that it stays within its
own claims (R314). Its counts, its next body number and the fields of its items become free values. -/
def Launch.taint (x : Launch) (tick : Nat) : Launch :=
  let claims := dedup (x.item.flatMap fun i => i.2.pits)
  { x with
    tainted := true
    posted := Config.openItem tick 0 0
    discarded := Config.openItem tick 0 1
    bodies := Config.openItem tick 0 2
    nextBody := Config.openItem tick x.items 0
    item := x.item.update fun i (it : Item) => { it with
      state := Config.openItem tick i 3 % 4
      body := Config.openItem tick i 4
      pay := (upto 5 4).map fun k => BitVec.ofNat 32 (Config.openItem tick i k)
      pits := ((List.zip (upto 9 claims.length) claims).filter fun p => Config.openItem tick i p.1 % 2 == 1).map (·.2) } }

/-- The items that a body wave of a tainted loop holds are free values, each an index below the loop's item count (R314). -/
def openItems (tick n key : Nat) : List (Nat × Nat) :=
  ((List.range 32).filter fun l => Config.openItem tick (n + 1 + key) l % 2 == 1).map fun l => (l, Config.openItem tick (n + 1 + key) (32 + l) % n)

/-- A step of a reserving loop that a program has stored into: its counts, its items, what its body waves hold and the bytes of its item
region become free values once more, so that every later outcome of the loop rests on them (R314; log 105). -/
def State.stir (s : State) (l : Nat) : State :=
  let x := s.launch l
  if !x.tainted then s
  else
    let s := s.modLaunch l fun y => y.taint s.tick
    let s := { s with waves := s.waves.update fun k (w : Wave) =>
      if w.bodyNo.isSome && (s.gang w.gang).launch == l then { w with items := openItems s.tick x.items k } else w }
    s.scramble x.asid x.itemreg.toNat (128 * x.items)

/-- Where a vault word lies for gang `g` (R213 to R216). -/
def State.vaultAt (s : State) (g : Nat) (write : Bool) (a : Word) : Place :=
  let me := s.gang g
  let off := Bits.of a 23 2 * 4
  if me.vaultSize = 0 then .ungranted
  else if !a.getLsbD 63 then .vault g (off % me.vaultSize)
  else
    let ok := (s.launch me.launch).grants.testBit (if write then 1 else 0)
    match s.gangs.find? (fun x => x.2.launch == me.launch && x.2.gangid.toNat == Bits.of a 55 24 && x.2.die == me.die &&
        (x.2.status == .resident || x.2.status == .saving) && x.2.vaultSize != 0) with
    | some x => if ok then .vault x.1 (off % x.2.vaultSize) else .ungranted
    | none => .ungranted

/-- A store to `n` bytes from offset `off` of the vault of gang `g`, by a party other than command `self`, reaches a destination row of a
running gather: the row is unpredictable until the command completes (R361). -/
def State.disturbVault (s : State) (self : Option Nat) (g off n : Nat) : State :=
  s.cmds.foldl (fun (s : State) c =>
    if c.status != .running || self == some c.id then s
    else match c.op with
      | .gather _ _ rows k rowsz _ true => (List.range k).foldl (fun (s : State) r =>
          let words := (List.range (rowsz / 4)).filterMap fun i =>
            match s.vaultAt c.gang true (BitVec.ofNat 64 (rows + rowsz * r + 4 * i)) with
            | .vault o w => some (o, w)
            | _ => none
          if words.any fun p => p.1 == g && decide (p.2 < off + n ∧ off < p.2 + 4) then
            words.foldl (fun (s : State) p => s.modGang p.1 fun x => { x with vault := Memory.write x.vault p.2 (s.openBytes p.2 4) }) s
          else s) s
      | _ => s) s

/-- A store to a physical address by a party other than command `self` reaches a region whose contents it makes unpredictable: the scratch
and output regions of a running sort (R298), the destination rows of a running gather (R361), the item region of a loop (R314). -/
def State.disturb (s : State) (self : Option Nat) (pa : Nat) : State :=
  let s := s.cmds.foldl (fun (s : State) c =>
    if c.status != .running || self == some c.id then s
    else match c.op with
      | .sort _ out scr n =>
        if (s.vaOf c.asid out (16 * n) pa).isSome || (s.vaOf c.asid scr (16 * n + 8192) pa).isSome then
          let s := (s.scramble c.asid out (16 * n)).scramble c.asid scr (16 * n + 8192)
          { s with cmds := s.cmds.map fun (q : Cmd) => if q.id == c.id then { q with spoiled := true } else q }
        else s
      | .gather _ _ rows k rowsz _ false => match s.vaOf c.asid rows (k * rowsz) pa with
        | some va => s.scramble c.asid (rows + (va - rows) / rowsz * rowsz) rowsz
        | none => s
      | _ => s) s
  s.launches.foldl (fun (s : State) x =>
    if x.2.kernel.mode == 1 && x.2.status == .ready && (s.vaOf x.2.asid x.2.itemreg.toNat (128 * x.2.items) pa).isSome then
      s.modLaunch x.1 fun y => y.taint s.tick
    else s) s

/-- Apply bytes at their home slice as a store does, for the launches `ls`. -/
def State.applyStore (s : State) (fired : List Nat) (pa : Nat) (bs : List Byte) (expz : Bool) (self : Option Nat := none)
    (ls : List Nat := []) : State × List Nat :=
  let (s, fired) := ((s.clean (lineOf pa)).storeLine pa bs expz ls).appliedOver fired pa bs.length
  (s.disturb self pa, fired)

/-- The REDUCE lines open on a die (R228). -/
def State.reduceOn (s : State) (die : Nat) : List ReduceLine := s.reduce.filter (fun r => homeDie (128 * r.line) == die)

/-- The line that is flushed to make room for a new REDUCE line of a slice when the die is at its limit (R228). -/
def State.reduceVictim (s : State) (line : Nat) : Option ReduceLine :=
  let on := s.reduceOn (homeDie (128 * line))
  if on.length < 262144 then none
  else match on.find? (fun r => homeSlice (128 * r.line) == homeSlice (128 * line)) with
    | some r => some r
    | none => on.head?

/-- An FP32 add reduction in reduce mode (R226). -/
def State.reduceAdd (s : State) (pa va : Nat) (x : Lane) (launch : Nat) (wave : Nat) (waveid : BitVec 32) : State :=
  let s := s.disturb none pa
  let line := lineOf pa
  let k := pa % 128 / 4
  let s := if s.isReduce line then s
    else
      let s := (s.roundLine line).writeBack line
      let s := match s.reduceVictim line with
        | some v => s.startFlush v.line
        | none => s
      { s with reduce := s.reduce ++ [ReduceLine.mk line [] [] [] (va / 128 * 128) none] }
  let add (r : ReduceLine) : ReduceLine :=
    let sum := match r.sums.find k with
      | none => x
      | some p => f32add p x
    { r with sums := r.sums.set k sum, waves := dedup (r.waves ++ [wave]), launches := dedup (r.launches ++ [launch]) }
  let s := { s with reduce := s.reduce.map fun (r : ReduceLine) => if r.line == line then add r else r }
  s.traceOne launch (homeDie pa) 1 va x waveid

/-- Open the shadow of a line in a format: every element widens exactly (R229). -/
def State.openShadow (s : State) (line : Nat) (fmt : BitVec 8) (va : Nat) : State :=
  let f := shadowFmt fmt
  let w := f.width / 8
  let es := (List.range (128 / w)).map fun i => toF32 0 (f.decode (fromBytes (s.load (128 * line + w * i) w)))
  { s with shadow := s.shadow ++ [⟨line, fmt, es, [], va / 128 * 128⟩] }

/-- An add reduction to a BF16 or binary8 element through the line's FP32 shadow (R229, R231, R141). -/
def State.shadowAdd (s : State) (pa va : Nat) (fmt : BitVec 8) (x : Lane) (expz : Bool) (launch : Nat) (waveid : BitVec 32) :
    State :=
  let s := s.disturb none pa
  let line := lineOf pa
  let s := (s.startFlush line).drainFlushes line
  let s := if s.shadow.any (fun h => h.line == line && h.fmt != fmt) then s.roundLine line else s
  let s := if s.shadow.any (fun h => h.line == line) then s else (s.soil line expz [launch]).openShadow line fmt va
  let i := pa % 128 / ((shadowFmt fmt).width / 8)
  let add (h : ShadowLine) : ShadowLine :=
    { h with elems := h.elems.set i (f32add (nth 0 h.elems i) x), launches := dedup (h.launches ++ [launch]) }
  let s := { s with shadow := s.shadow.map fun (h : ShadowLine) => if h.line == line then add h else h }
  s.traceOne launch (homeDie pa) 3 va x waveid

/-! ### Atomics at the home slice (R253, R256, R258, R260) -/

/-- The new value of a word of `w` bytes. -/
def Rmw.apply (op : Rmw) (w : Nat) (m x : Word) : Nat :=
  let n := 8 * w
  let a := m.toNat % 2 ^ n
  let b := x.toNat % 2 ^ n
  let l : Lane := m.setWidth 32
  let r : Lane := x.setWidth 32
  match op with
  | .add => (a + b) % 2 ^ n
  | .minS => wrap n (min (signed n a) (signed n b))
  | .minU => min a b
  | .maxS => wrap n (max (signed n a) (signed n b))
  | .maxU => max a b
  | .and => a &&& b
  | .or => a ||| b
  | .xor => a ^^^ b
  | .xchg => b
  | .cas y => if a = b then y.toNat % 2 ^ n else a
  | .fadd => (f32add l r).toNat
  | .fmin => fp32.min l.toNat r.toNat
  | .fmax => fp32.max l.toNat r.toNat
  | .seqAdd => min (a + b) (2 ^ 64 - 1)
  | _ => a

/-- Whether an atomic writes its word: a compare that fails does not (R253, R256). -/
def Rmw.stores (op : Rmw) (w : Nat) (m x : Word) : Bool := match op with
  | .cas _ => m.toNat % 2 ^ (8 * w) == x.toNat % 2 ^ (8 * w)
  | _ => true

/-! ### Performing one access -/

/-- What performing an access left: the state, the operation, and whether the access is still to be done (a parked one). -/
structure Performed where
  s : State
  o : MemOp
  left : Bool

/-- Put returned bytes into an operation's result. -/
def putRes (m : Map Byte) : Nat → List Byte → Map Byte
  | _, [] => m
  | i, b :: bs => putRes (m.set i b) (i + 1) bs

def MemOp.give (o : MemOp) (dst : Nat) (bs : List Byte) : MemOp := { o with res := putRes o.res dst bs }

/-- A vault word or byte access (R214, R217); a line of the SRAM die that fails gives unpredictable bytes and takes none, and is reported
as UNCORR (R267). -/
def State.vaultAccess (s : State) (o : MemOp) (g off : Nat) (k : AccKind) : State × MemOp :=
  if s.badVault.contains (g, off / 128) then
    let o := { o with bad := some (o.bad.getD (Code.uncorr, off)) }
    match k with
    | .read dst n => (s, o.give dst (s.openBytes off n))
    | _ => (s, o)
  else match k with
    | .read dst n => (s, o.give dst (Memory.read (s.gang g).vault off n))
    | .write bs => ((s.modGang g fun x => { x with vault := Memory.write x.vault off bs }).disturbVault none g off bs.length, o)
    | .rmw .. => (s, o)

/-- A store, atomic or reduction meets a failing line: parked under service while the queue has room, else reported
(R257, R267, R465). -/
def State.meetBad (s : State) (o : MemOp) (pa : Nat) (code : Code) : Performed :=
  if s.hr.service ≠ 0 ∧ (o.parkedLines.contains (lineOf pa) ∨ s.parkedAt pa < 64) then ⟨s.raise evFaultq, o, true⟩
  else ⟨s, { o with bad := match o.bad with
    | none => some (code, lineOf pa * 128)
    | some x => some x }, false⟩

/-! ### The L1 and the read-only cache (R3, R221, R222, R266, R274) -/

/-- Put a line into a core's part of a cache that holds `cap` lines of each core; where it is full another one leaves. -/
def addLine (cap pick : Nat) (ls : List Line) (x : Line) : List Line :=
  let mine := ls.filter fun l => l.core == x.core
  x :: (if mine.length < cap then ls else match pickOf mine pick with
    | some l => ls.erase l
    | none => ls)

/-- Lines of a 256 KiB L1 and of a 64 KiB read-only cache (R3). -/
def l1Lines : Nat := 2048
def roLines : Nat := 512

/-- The writes of a core to a line that have entered its channels and are not yet performed, oldest first. -/
def State.writesOn (s : State) (core line : Nat) : List (Nat × List Byte) :=
  s.ops.flatMap fun q => if q.core != core || !q.entered then [] else q.acc.filterMap fun a => match a.at_, a.kind with
    | .phys p, .write bs => if lineOf p == line then some (p, bs) else none
    | _, _ => none

/-- An atomic or reduction of a core to a line is not yet performed. -/
def State.rmwOn (s : State) (core line : Nat) : Bool :=
  s.ops.any fun q => q.core == core && q.acc.any fun a => match a.at_, a.kind with
    | .phys p, .rmw .. => lineOf p == line
    | _, _ => false

/-- Drop a core's L1 line. -/
def State.l1Drop (s : State) (core line : Nat) : State := { s with l1 := s.l1.filter fun l => l.core != core || l.line != line }

/-- A load has read a line at its home slice: the core's L1 holds it as it is now, under the core's own writes that are on their way, so
that no later load reads an older value (R270, R274); a line with an atomic on its way stays out (R266). -/
def State.l1Fill (s : State) (core line : Nat) : State :=
  let t := s.l1Drop core line
  if s.rmwOn core line then t
  else
    let bytes := (s.writesOn core line).foldl (fun (l : List Byte) w => patch l (w.1 % 128) w.2) (s.load (128 * line) 128)
    { t with l1 := addLine l1Lines (Config.victim s.tick) t.l1 ⟨core, line, bytes⟩ }

/-- The read-only cache line that holds a physical address, fetched if it is not present. -/
def State.roLine (s : State) (core pa : Nat) : List Byte × State :=
  match s.ro.find? (fun x => x.core == core && x.line == lineOf pa) with
  | some x => (x.bytes, s)
  | none =>
    let s := s.clean (lineOf pa)
    let bytes := s.load (128 * lineOf pa) 128
    (bytes, { s with ro := addLine roLines (Config.victim s.tick) s.ro ⟨core, lineOf pa, bytes⟩ })

/-- An operation's writes enter its core's channels: a store updates the core's L1 line if it is present, an atomic or reduction drops it
(R221, R266, R270). -/
def State.enter (s : State) (o : MemOp) : State :=
  o.acc.foldl (fun (s : State) a => match a.at_, a.kind with
    | .phys pa, .write bs => if a.cached then s.l1Store o.core pa bs else s
    | .phys pa, .rmw .. => s.l1Drop o.core (lineOf pa)
    | _, _ => s) s

/-- An earlier access has entered the core's channel for good: a write to the channel of a home slice (R270). -/
def Acc.entered (a : Acc) : Bool := match a.at_, a.kind with
  | .phys _, .write _ => true
  | .phys _, .rmw .. => true
  | _, _ => false

/-- The bytes of a read at a failing line are unpredictable, and the line is noted (R267). -/
def State.badRead (s : State) (o : MemOp) (dst n pa : Nat) (code : Code) : Performed :=
  ⟨s, { o with bad := some (o.bad.getD (code, lineOf pa * 128)) }.give dst (s.openBytes pa n), false⟩

/-- A read-only load reads through the core's read-only cache, whatever its page (R249; log 85); a line that fails is met where it has to
be fetched. -/
def State.roRead (s : State) (o : MemOp) (dst n pa : Nat) : Performed :=
  let present := s.ro.any fun x => x.core == o.core && x.line == lineOf pa
  match if present then none else s.bad.find (lineOf pa) with
  | some code => s.badRead o dst n pa code
  | none =>
    let (bytes, s) := s.roLine o.core pa
    ⟨s, o.give dst ((List.range n).map fun i => nth 0 bytes (pa % 128 + i)), false⟩

/-- Perform an access at a physical address. -/
def State.physAccess (s : State) (o : MemOp) (a : Acc) (pa : Nat) : Performed :=
  match a.kind with
  | .read dst n =>
    if o.path == .ro then s.roRead o dst n pa
    else match s.bad.find (lineOf pa) with
      | some code => s.badRead o dst n pa code
      | none =>
        let s := s.clean (lineOf pa)
        ⟨if a.cached then s.l1Fill o.core (lineOf pa) else s, o.give dst (s.load pa n), false⟩
  | .write bs => match s.bad.find (lineOf pa) with
    | some code => s.meetBad o pa code
    | none =>
      if s.noSlot pa a.expz then ⟨s, { o with expzFull := true }, false⟩
      else
        let (s, fired) := s.applyStore o.fired pa bs a.expz none [o.launch]
        ⟨s, { o with fired := fired }, false⟩
  | .rmw op x w dst => match s.bad.find (lineOf pa) with
    | some code => s.meetBad o pa code
    | none => match op with
      | .redFadd => ⟨s.reduceAdd pa a.va (x.setWidth 32) o.launch o.wave o.waveid, o, false⟩
      | .shadow fmt =>
        if s.noSlot pa a.expz then ⟨s, { o with expzFull := true }, false⟩
        else ⟨s.shadowAdd pa a.va fmt (x.setWidth 32) a.expz o.launch o.waveid, o, false⟩
      | op =>
        let t := s.clean (lineOf pa)
        let m : Word := BitVec.ofNat 64 (fromBytes (t.load pa w))
        if !op.stores w m x then ⟨t, o.give dst (toBytes w m.toNat), false⟩
        else if s.noSlot pa a.expz then ⟨s, { o with expzFull := true }, false⟩
        else
          let (s, fired) := t.applyStore o.fired pa (toBytes w (op.apply w m x)) a.expz none [o.launch]
          ⟨s, { o with fired := fired }.give dst (toBytes w m.toNat), false⟩

/-- Perform one access. -/
def State.performAcc (s : State) (o : MemOp) (a : Acc) : Performed :=
  match a.at_ with
  | .phys pa => s.physAccess o a pa
  | .vault g off => let (s, o) := s.vaultAccess o g off a.kind; ⟨s, o, false⟩
  | .ungranted => ⟨s, match a.kind with
      | .read dst n => o.give dst (copies n 0)
      | _ => o, false⟩

/-! ### Channels (R271) -/

/-- The channel an access travels in: one per core and home slice, one to the host, one per vault word. -/
def Acc.chan (a : Acc) : Nat :=
  match a.at_ with
  | .phys pa => if hostBase ≤ pa then 144 else 36 * homeDie pa + homeSlice pa
  | .ungranted => 145
  | .vault g off => 146 + off / 4 + 2 ^ 22 * g

/-- An operation has an access in a channel that it can perform when its turn comes: one in a fault queue no longer holds its channel. -/
def MemOp.hasIn (o : MemOp) (chan : Nat) : Bool := o.acc.any fun a => a.chan == chan && a.parked.isNone

/-- An earlier GEN operation is performed at a scope (R270). -/
def MemOp.doneAt (o : MemOp) (scope : Nat) : Bool :=
  !o.emits && if scope ≤ 1 then o.entered && o.acc.all Acc.entered else o.acc.isEmpty

/-- A release is no longer held (R255): every GEN access that the wave issued before it is performed at its scope. -/
def State.relOk (s : State) (o : MemOp) : Bool :=
  match o.rel with
  | none => true
  | some scope => s.ops.all fun q => q.id ≥ o.id || q.wave != o.wave || q.path != .gen || q.doneAt scope

/-- GEN operations of a wave that are not performed at a scope (R157, R162, R255, R270). -/
def State.openAt (s : State) (k scope : Nat) : List Nat :=
  (s.ops.filter fun o => o.wave == k && o.path == .gen && !o.doneAt scope).map (·.id)

/-- Every GEN access that the wave has issued is performed at a scope. -/
def State.genDone (s : State) (k : Nat) (scope : Nat) : Bool := (s.openAt k scope).isEmpty

/-- The operation numbered `id`. -/
def State.opAt (s : State) (id : Nat) : Option MemOp := s.ops.find? (fun o => o.id == id)

/-- The lines that an operation's accesses at physical addresses touch. -/
def MemOp.lines (o : MemOp) : List Nat := o.acc.filterMap fun a => match a.at_ with
  | .phys p => some (lineOf p)
  | _ => none

/-- An earlier operation of the core that a release still holds back touches a line of an operation, which does not pass it. -/
def State.heldBefore (s : State) (o : MemOp) : Bool :=
  s.ops.any fun q => decide (q.ord < o.ord) && q.core == o.core && !q.entered && q.lines.any o.lines.contains

/-- A `kemit` of wave `k` from before number `id` whose slots have not come may store a record over a physical address (R246, R352). -/
def State.emitOver (s : State) (k id pa : Nat) : Bool :=
  s.ops.any fun q => q.wave == k && decide (q.id < id) && match q.fill with
    | .emit _ h cap _ => (s.vaOf (s.gang q.gang).asid (h + 16) (16 * cap) pa).isSome
    | _ => false

/-- An access of an operation stands behind the records of such a `kemit`. -/
def State.behindEmit (s : State) (o : MemOp) : Bool := o.acc.any fun a => match a.at_ with
  | .phys pa => s.emitOver o.wave o.id pa
  | _ => false

/-- An operation has entered its core's channels, or can now. -/
def State.mayEnter (s : State) (o : MemOp) : Bool := o.entered || (s.relOk o && !s.heldBefore o && !s.behindEmit o)

/-- Whether a channel can perform the accesses of an operation: no earlier operation of the same core has one in it, and
a release is not held. -/
def State.canPerform (s : State) (id chan : Nat) : Bool :=
  match s.opAt id with
  | none => false
  | some o => o.hasIn chan && s.mayEnter o && s.ops.all fun q => q.ord ≥ o.ord || q.core != o.core || !q.hasIn chan

/-- Replace an operation. -/
def State.setOp (s : State) (o : MemOp) : State := { s with ops := s.ops.map fun q => if q.id == o.id then o else q }

/-- Put what an access left into the list of its operation: it is gone, or parked from now on. -/
def leave (acc : List Acc) (a : Acc) (parked : Bool) (tick : Nat) : List Acc :=
  match acc with
  | [] => []
  | b :: bs => if b == a then (if parked then { a with parked := some (a.parked.getD tick) } :: bs else bs) else b :: leave bs a parked tick

/-- Perform one access of an operation. -/
def State.performOne (s : State) (id : Nat) (a : Acc) : State :=
  match s.opAt id with
  | none => s
  | some o =>
    let p := s.performAcc o a
    p.s.setOp { p.o with acc := leave p.o.acc a p.left s.tick }

/-- The launch records that an operation's writes have made watchpoints submit stand behind the accesses that its wave issued before it
(R336). -/
def State.orderFires (s : State) (n : Nat) (behind : List Nat) : State :=
  { s with fires := s.fires.take n ++ (s.fires.drop n).map fun (f : Fire) => { f with behind := behind } }

/-- The operations before number `id` of a wave that are still to be performed. -/
def State.openBefore (s : State) (k id : Nat) : List Nat :=
  (s.ops.filter fun o => o.wave == k && o.path == .gen && decide (o.id < id) && !o.doneAt 4).map (·.id)

/-- An operation that a release held back enters its core's channels. -/
def State.enterNow (s : State) (o : MemOp) : State := if o.entered then s else (s.enter o).setOp { o with entered := true }

/-- Perform the accesses of an operation in one channel, in their order (R254, R271): the indivisible group of R254 is
one channel's. -/
def State.perform (s : State) (id chan : Nat) : State :=
  match s.opAt id with
  | none => s
  | some o =>
    let n := s.fires.length
    let behind := s.openBefore o.wave id
    ((o.acc.filter fun a => a.chan == chan && a.parked.isNone).foldl (fun (s : State) a => s.performOne id a) (s.enterNow o)).orderFires n behind

/-! ### Faults after issue (R458) -/

/-- Deliver an imprecise fault of an operation: pending at its live or saved wave, else to the records (R46, R458). -/
def State.impFault (s : State) (wave : Nat) (waveid : BitVec 32) (gang : Nat) (code : Code) (pc : Word) : State :=
  let w := s.waveAt wave
  if w.waveid = waveid ∧ (w.status = .live ∨ w.status = .saved) then
    (s.setWaveAt wave { w with pend := w.pend ++ [⟨code, pc, waveid⟩] }).refreshImage gang
  else s.report gang { FaultRep.of code pc waveid with info := pc, imprecise := true,
                                                        ended := !(w.status == .live || w.status == .saved) }

/-! ### Instruction fetch (R60, R65, R222) -/

/-- What a fetch gives. -/
inductive Fetch where
  | ok (w : BitVec 32) (s : State)
  | wait (s : State)
  | fault (c : Code)

/-- TINFO of a translation fault (R463): the lowest faulting address, bit 63 for a write. -/
def faultInfo (va : Nat) (w : Bool) : Word := BitVec.ofNat 64 (va % 2 ^ 56 + if w then 2 ^ 63 else 0)

/-- The instruction of the wave whose turn it is traps at an address (R237). -/
def State.trapAt (s : State) (code : Code) (va : Nat) (w : Bool) : State := s.trap code (faultInfo va w)

/-- Fetch one instruction word through the core's read-only cache (R65, R222): it needs X on a page that is not RMT (R237). -/
def State.fetchWord (s : State) (core : Nat) (asid : BitVec 16) (va : Nat) : Fetch :=
  match s.trans asid va with
  | .miss => .wait (s.miss asid va)
  | .fault c => .fault c
  | .ok p n =>
    if pteRmt p || !pteX p then .fault Code.permFault
    else
      let pa := ptePa p n va
      let (bytes, s) := s.roLine core pa
      .ok (BitVec.ofNat 32 (fromBytes ((List.range 4).map fun i => nth 0 bytes (pa % 128 + i)))) s

/-- Fetch consecutive words. -/
def State.fetchWords (s : State) (core : Nat) (asid : BitVec 16) (va : Nat) : (n : Nat) → Except (State ⊕ (Code × Nat)) (List (BitVec 32) × State)
  | 0 => .ok ([], s)
  | n + 1 =>
    match s.fetchWord core asid va with
    | .wait s => .error (.inl s)
    | .fault c => .error (.inr (c, va))
    | .ok w s => match State.fetchWords s core asid (va + 4) n with
      | .ok (ws, s) => .ok (w :: ws, s)
      | .error e => .error e

end Sys2Proof.Machine
end

