-- ==== Sys2Proof/Machine/Launch.lean ====
section
/-!
DEFINITION. Launches (15_tasks_scheduler.md, 23_object_format.md): reading and checking a launch record, submission to
readiness, sequence counters, queueing of gangs, and the completion record (R311, R327 to R330, R339, R340, R477 to
R481).
-/
namespace Sys2Proof.Machine

/-! ### Records (R477, R478) -/

/-- The little-endian number of `n` bytes at offset `off`. -/
def numAt (bs : List Byte) (off n : Nat) : Nat := fromBytes ((bs.drop off).take n)

/-- The 64-bit word at offset `off`. -/
def wordAt (bs : List Byte) (off : Nat) : Word := BitVec.ofNat 64 (numAt bs off 8)

/-- A kernel descriptor from its 64 bytes (R477). -/
def readKernel (b : List Byte) : Kernel :=
  { code := wordAt b 0, mstream := wordAt b 8, csched := wordAt b 16, ncsch := numAt b 24 4, scout := numAt b 28 4,
    body := numAt b 32 4, trap := BitVec.ofNat 32 (numAt b 36 4), budget := BitVec.ofNat 32 (numAt b 40 4),
    stall := BitVec.ofNat 16 (numAt b 44 2), vregs := numAt b 46 2, sregs := numAt b 48 2, wg := numAt b 50 1,
    waves := numAt b 51 1, mseq := numAt b 52 1 == 1, mode := numAt b 53 1, bscope := numAt b 54 1,
    vault := numAt b 56 4 }

/-- A descriptor's fields lie in their ranges (R477). -/
def kernelOk (k : Kernel) (mseq : Nat) : Bool :=
  k.ncsch ≤ 1024 && 8 ≤ k.vregs && k.vregs ≤ 256 && k.vregs % 8 == 0 && 8 ≤ k.sregs && k.sregs ≤ 128 && k.sregs % 8 == 0 &&
    1 ≤ k.wg && k.wg ≤ 4 && 1 ≤ k.waves && k.waves ≤ 16 && mseq ≤ 1 && k.mode ≤ 1 && k.bscope ≤ 6 &&
    k.vault % 4096 == 0 && k.vault ≤ 2 ^ 24 && (k.mseq == (k.mstream != 0)) && (k.ncsch == 0 || k.csched != 0)

/-- The fields of a launch record, with the kernel of its descriptor; `crec` is the completion record, already chosen. -/
def readLaunch (b : List Byte) (k : Kernel) (lrec : Word) (asid : BitVec 16) (crec : Option Word) : Launch :=
  { Launch.blank with
    kernel := k, args := wordAt b 8, gangs := numAt b 16 4, items := numAt b 20 4, itemreg := wordAt b 24,
    prio := numAt b 32 1, diemask := numAt b 33 1 % 16, grants := numAt b 34 2 % 8, faultrec := wordAt b 40,
    trace := wordAt b 48, tracesz := numAt b 56 4,
    ready := ((List.range 4).map fun i => (wordAt b (64 + 16 * i), wordAt b (72 + 16 * i))).filter fun r => r.1 != 0,
    cbtab := wordAt b 128, ncb := numAt b 136 4, crec := crec, lrec := lrec, asid := asid, status := .waiting }

/-- The dies of a launch's mask, lowest first. -/
def Launch.dies (l : Launch) : List Nat := (List.range 4).filter fun d => l.diemask.testBit d

/-- A launch that is admitted as one unit (R33, R481). -/
def Launch.unit (l : Launch) : Bool := 4 ≤ l.kernel.bscope || l.grants % 4 != 0

/-- The die to which gang `g` of a launch is bound (R330, R481). -/
def Launch.dieFor (l : Launch) (g : Nat) : Nat :=
  let ds := l.dies
  if l.grants % 4 != 0 then ds.headD 0 else nth 0 ds (g % ds.length)

/-! ### Room for a kernel (R22, R27, R33) -/

/-- Put the `n` waves of a workgroup on four pipes with room for `caps` waves each, so that the counts differ by at most
one (R28): the waves per pipe, if they fit. Which pipes take one wave more is the model's choice: those with the most room, of equal ones
the lowest (log 70). -/
def spread (caps : List Nat) (n : Nat) : Option (List Nat) :=
  let base := n / 4
  let extra := n % 4
  let order := sortBy (List.range 4) fun a b => decide (nth 0 caps b ≤ nth 0 caps a)
  let counts := (List.range 4).map fun p => base + if (order.take extra).contains p then 1 else 0
  if (List.range 4).all fun p => decide (nth 0 counts p ≤ nth 0 caps p) then some counts else none

/-- How many workgroups of `n` waves fit, at most `k`. -/
def spreadMany (n : Nat) : (k : Nat) → (caps : List Nat) → Nat
  | 0, _ => 0
  | k + 1, caps => match spread caps n with
    | none => 0
    | some c => 1 + spreadMany n k (List.zipWith (· - ·) caps c)

/-- Waves of a kernel that one empty pipe holds (R22). -/
def Kernel.pipeCap (k : Kernel) : Nat := min 4 (min (96 / (k.vregs / 8)) (512 / k.sregs))

/-- The vault allocation of a kernel's gang (R212): the next power of two, at least 4 KiB. -/
def Kernel.vaultSize (k : Kernel) : Nat :=
  if k.vault = 0 then 0 else (List.range 25).foldl (fun m i => if m < k.vault then max (2 ^ i) m else m) 4096

/-- Workgroups of a kernel that an empty core holds. -/
def Kernel.coreCap (k : Kernel) : Nat := spreadMany k.waves (if k.mseq then 1 else 4) (copies 4 k.pipeCap)

/-- Gangs of a kernel that an empty quad holds. -/
def Kernel.quadCap (k : Kernel) : Nat :=
  let c := 4 * k.coreCap / k.wg
  if k.vaultSize = 0 then c else min c (2 ^ 24 / k.vaultSize)

/-- All gangs of a launch could be resident at once on its dies, empty of other work (R33). -/
def Launch.coresident (l : Launch) : Bool :=
  let ds := l.dies
  let room := 36 * l.kernel.quadCap
  if l.grants % 4 != 0 then l.gangs ≤ room
  else (List.range ds.length).all fun i => decide ((l.gangs + ds.length - 1 - i) / ds.length ≤ room)

/-! ### Checks at submission (R480) -/

/-- The pages of a region all pass a test on their leaf entries. -/
def State.pagesOk (s : State) (asid : BitVec 16) (va len : Nat) (f : Word → Nat → Nat → Bool) : Bool :=
  len = 0 || (List.range ((va + len - 1) / 2 ^ 18 - va / 2 ^ 18 + 1)).all fun i =>
    let a := if i = 0 then va else (va / 2 ^ 18 + i) * 2 ^ 18
    match s.transNow asid a with
    | .ok (p, n) => f p n a
    | .error _ => false

/-- Every page gives R and W and is not RMT. -/
def State.rwOk (s : State) (asid : BitVec 16) (va len : Nat) : Bool :=
  s.pagesOk asid va len fun p _ _ => pteR p && pteW p && !pteRmt p

/-- Every page is local HBM4 and gives the rights asked. -/
def State.hbmOk (s : State) (asid : BitVec 16) (r w : Bool) (va len : Nat) : Bool :=
  s.pagesOk asid va len fun p n a => (!r || pteR p) && (!w || pteW p) && !pteRmt p && decide (ptePa p n a < hbmTop)

/-- The record checks (LAUNCH_BAD_RECORD). -/
def State.recordOk (s : State) (l : Launch) (kdesc : Word) (tracesz mseq : Nat) : Bool :=
  let a := l.asid
  kdesc.toNat % 64 == 0 && s.devOk a false kdesc.toNat 64 && kernelOk l.kernel mseq &&
    s.pagesOk a l.kernel.code.toNat 4 (fun p _ _ => pteX p && !pteRmt p) && l.gangs != 0 && l.prio ≤ 7 && l.diemask != 0 &&
    tracesz % 64 == 0 && l.cbtab.toNat % 8 == 0 && l.faultrec.toNat % 64 == 0 &&
    (l.trace == 0 || s.rwOk a l.trace.toNat tracesz) &&
    (l.faultrec == 0 || s.rwOk a l.faultrec.toNat (64 * (l.gangs + if l.kernel.mode = 1 then l.items else 0))) &&
    (l.kernel.mode == 0 || s.hbmOk a true true l.itemreg.toNat (128 * l.items))

/-- The tests of a reserving loop (R311). -/
def Launch.modeOk (l : Launch) : Bool :=
  let k := l.kernel
  k.mode = 0 || (k.wg == 1 && k.waves == 1 && !k.mseq && k.bscope ≤ 2 && 1 ≤ l.items && l.items ≤ 2 ^ 24 &&
    l.itemreg.toNat % 128 == 0)

/-- A readiness counter is 8-byte aligned on a local page with R and W (R329). -/
def State.counterOk (s : State) (asid : BitVec 16) (a : Word) : Bool :=
  a.toNat % 8 == 0 && s.pagesOk asid a.toNat 8 fun p n x => pteR p && pteW p && !pteRmt p && decide (ptePa p n x < hbmTop)

/-- The status of a launch at submission: 0 where it is accepted (R340, R480). -/
def State.launchStatus (s : State) (l : Launch) (kdesc : Word) (mseq : Nat) : Nat :=
  if !s.recordOk l kdesc l.tracesz mseq then 6
  else if !l.modeOk then 3
  else if !(l.ready.all fun r => s.counterOk l.asid r.1) then 5
  else if l.kernel.quadCap = 0 then 4
  else if l.unit && !l.coresident then 2
  else 0

/-! ### Residency reports (R337) -/

/-- Quads of the device with no resident gang. -/
def State.freeQuads (s : State) : Nat :=
  ((List.range 144).filter fun q => !s.gangs.any fun g => (g.2.status == .resident || g.2.status == .saving) && g.2.quad == q).length

/-- The status code of a launch (R340). -/
def Launch.statusCode (x : Launch) : Nat := if x.code ≠ 0 then x.code else if x.nfault ≠ 0 then 1 else 0

/-- Send the scheduler that forwarded a launch a report. -/
def State.reportLaunch (s : State) (l : Nat) (state : Nat) : State :=
  let x := s.launch l
  match x.reporter with
  | none => s
  | some (dev, tag) =>
    let res := (s.gangs.filter fun g => g.2.launch == l && (g.2.status == .resident || g.2.status == .saving)).length
    { s with netOut := s.netOut ++ [.report dev
        ⟨tag, s.devid, BitVec.ofNat 16 state, BitVec.ofNat 32 x.statusCode, BitVec.ofNat 32 res, BitVec.ofNat 32 x.retired,
          BitVec.ofNat 32 s.freeQuads⟩] }

/-! ### Chains and completion (R326, R339) -/

/-- A chain stops with a STATUS (R490). -/
def State.stopChain (s : State) (c st : Nat) : State :=
  match s.chains.find c with
  | none => s
  | some ch => ({ s with chains := s.chains.set c { ch with status := st } }).raise evChainStop

/-- Every byte of a region can be written: its pages give W, and its EXPZ lines have or find an overflow slot (R234). -/
def State.devCan (s : State) (asid : BitVec 16) (va n : Nat) : Bool :=
  (List.range n).all fun i => match s.devPage asid true (va + i) with
    | some (pa, z) => !s.noSlot pa z
    | none => false

/-- Entries of a chain complete: its completion word rises to the largest SEQ below which all are complete, and the
entries it newly covers signal their interrupts (R324, R326, R490). Where the word cannot be written by then, the chain stops with
CHAIN_FAULT and the word covers nothing more. -/
def State.chainRise (s : State) (c : Nat) : State :=
  match s.chains.find c with
  | none => s
  | some ch =>
    let covered := ch.open_.takeWhile (·.done)
    match covered.getLast? with
    | none => s
    | some e =>
      if !s.devCan ch.asid ch.cword.toNat 8 then (if ch.status = 0 then s.stopChain c 5 else s)
      else
        let s := { s with chains := s.chains.set c { ch with open_ := ch.open_.drop covered.length } }
        let s := s.devPut ch.asid ch.cword.toNat (toBytes 8 e.seq.toNat)
        if covered.any (·.irq) then s.msix (1 + c) else s

/-- The entry of a chain that bears a number of its own is complete. -/
def State.chainDone (s : State) (c id : Nat) : State :=
  match s.chains.find c with
  | none => s
  | some ch =>
    let s := { s with chains := s.chains.set c { ch with open_ := ch.open_.map fun (e : ChainOpen) => if e.id == id then { e with done := true } else e } }
    s.chainRise c

/-- The 64 bytes of a completion record (R339). -/
def State.completionBytes (s : State) (x : Launch) (die : Nat) : List Byte :=
  let f := x.first.getD ⟨0, 0, 0⟩
  let loop := x.kernel.mode == 1
  toBytes 4 x.statusCode ++ toBytes 4 x.nfault ++ toBytes 8 x.retired ++ toBytes 8 f.pc.toNat ++ toBytes 4 f.waveid.toNat ++
    toBytes 4 f.code.toNat ++ toBytes 4 (if loop then x.posted else 0) ++ toBytes 4 (if loop then x.discarded else 0) ++
    toBytes 4 (if loop then x.bodies else 0) ++ toBytes 4 die ++ toBytes 8 (s.clock die) ++ copies 8 0

/-- Take back a watchpoint's queued submission (R336). -/
def State.watchFree (s : State) (l : Nat) : State :=
  match (s.launch l).watch with
  | none => s
  | some h =>
    let s := s.modLaunch l fun x => { x with watch := none }
    match s.watch.find h with
    | some w => { s with watch := s.watch.set h { w with queued := w.queued - 1 } }
    | none => s

/-- Write a launch's completion record and complete its chain entry (R326, R339). -/
def State.completeLaunch (s : State) (l die : Nat) : State :=
  let x := s.launch l
  let s := s.modLaunch l fun x => { x with status := .done }
  let s := match x.crec with
    | some a => s.devPut x.asid a.toNat (s.completionBytes x die)
    | none => s
  let s := s.watchFree l
  let s := s.reportLaunch l 2
  match x.chain with
  | some (c, id) => s.chainDone c id
  | none => s

/-! ### Arrival words (R422) -/

/-- Add to an arrival word, and perform its action when it first reaches the target (R422). -/
def State.addArrival (s : State) (a : Arrival) (n : Nat) : State :=
  let g := s.gang a.gang
  let old := fromBytes (Memory.read g.vault a.off 8)
  let new := (old + n) % 2 ^ 64
  let s := s.modGang a.gang fun x => { x with vault := Memory.write x.vault a.off (toBytes 8 new) }
  if old < a.target.toNat ∧ a.target.toNat ≤ new ∧ a.lrec ≠ 0 then { s with fires := s.fires ++ [⟨none, a.lrec, g.asid, []⟩] } else s

/-! ### Queueing (R330, R341) -/

/-- The key at the tail of the ready queues. -/
def State.tailKey (s : State) : Nat × State :=
  let (id, s) := s.fresh
  (2 ^ 40 + id, s)

/-- The key ahead of every queued entry. -/
def State.headKey (s : State) : Nat := (s.queue.foldl (fun m e => min m e.1) (2 ^ 40)) - 1

/-- Queue an entry at the tail of a level. -/
def State.enqueue (s : State) (kind : QKind) (dies : List Nat) (level : Nat) : State :=
  let (k, s) := s.tailKey
  { s with queue := s.queue.set k ⟨kind, dies, level, s.clock (dies.headD 0), none, false⟩ }

/-- A new gang of a launch, ready and bound to a die. -/
def State.newGang (s : State) (l idx die : Nat) (s0 s1 entry : Word) (batch : Option (Nat × Nat × Nat)) : Nat × State :=
  let x := s.launch l
  let (g, s) := s.fresh
  let gg : Gang := { Gang.blank with
    launch := l, gangid := BitVec.ofNat 32 idx, asid := x.asid, status := .ready, die := die, vaultSize := x.kernel.vaultSize,
    s0 := s0, s1 := s1, entryPc := entry, resLevel := x.prio, batch := batch }
  (g, { s with gangs := s.gangs.set g gg })

/-- Queue the gangs of a launch that has become ready, in ascending index (R330). -/
def State.queueGangs (s : State) (l : Nat) : State :=
  let x := s.launch l
  let k := x.kernel
  let entry := if k.mode = 1 then k.code + BitVec.ofNat 64 k.scout else k.code
  let per := k.wg * k.waves
  let s := s.modLaunch l fun x => { x with status := .ready }
  let s := (List.range x.gangs).foldl (fun s i =>
    let (g, s) := s.newGang l i (x.dieFor i) x.args (BitVec.ofNat 64 (i * per)) entry none
    if x.unit then s else s.enqueue (.gang g) [x.dieFor i] x.prio) s
  if x.unit then s.enqueue (.unit l) (if x.grants % 4 != 0 then [x.dies.headD 0] else x.dies) x.prio else s

/-- A used readiness counter of a launch, as its home slice holds it. -/
def State.counterVal (s : State) (asid : BitVec 16) (a : Word) : Nat :=
  match s.transNow asid a.toNat with
  | .ok (p, n) => (s.load64 (ptePa p n a.toNat)).toNat
  | .error _ => 0

/-- A used counter of a launch has reached its threshold (R327). -/
def State.reached (s : State) (x : Launch) (r : Word × Word) : Bool := decide (r.2.toNat ≤ s.counterVal x.asid r.1)

/-- A counter of a launch lies at a physical address. -/
def State.counterAt (s : State) (x : Launch) (r : Word × Word) (pa : Nat) : Bool := match s.transNow x.asid r.1.toNat with
  | .ok (p, n) => ptePa p n r.1.toNat == pa
  | .error _ => false

/-- Read every used counter of a launch, as its submission does (R328). -/
def State.readCounters (s : State) (l : Nat) : State := s.modLaunch l fun x => { x with seen := x.ready.map (s.reached x) }

/-- Every used counter had reached its threshold when it was last read. -/
def Launch.isReady (x : Launch) : Bool := x.seen.all id

/-- A counter add at a physical address has been performed: the launches that wait on the counter read it again, and no other counter
(R328). -/
def State.reeval (s : State) (pa : Nat) : State :=
  s.launches.foldl (fun s l =>
    if l.2.status != .waiting || !(l.2.ready.any fun r => s.counterAt l.2 r pa) then s
    else
      let s := s.modLaunch l.1 fun x => { x with
        seen := (List.zip x.ready x.seen).map fun r => if s.counterAt x r.1 pa then s.reached x r.1 else r.2 }
      if (s.launch l.1).isReady then s.queueGangs l.1 else s) s

/-- Flush the lines of readiness counters before they are read: a slice reads a counter as a load does (R227). -/
def State.cleanCounters (s : State) (x : Launch) : State :=
  x.ready.foldl (fun s r => match s.transNow x.asid r.1.toNat with
    | .ok (p, n) => s.clean (lineOf (ptePa p n r.1.toNat))
    | .error _ => s) s

/-! ### Submission (R327 to R329, R479 to R481) -/

/-- The readiness table has a slot free (R329). -/
def State.readyRoom (s : State) : Bool := decide ((s.launches.filter fun l => l.2.status == .waiting).length < 4096)

/-- What a submission gives. -/
inductive Submitted where
  | dropped
  | taken (l : Nat) (s : State)

/-- How a submission names itself. -/
structure Origin where
  chain : Option (Nat × Nat) := none
  reporter : Option (BitVec 16 × Word) := none
  watch : Option Nat := none
  prio : Option Nat := none
  node : Bool := false

/-- Clear the items of a reserving loop (R313). That this is done at submission, before the launch is ready, and that INDEX is written with
STATE is the model's choice (log 109). -/
def State.clearItems (s : State) (x : Launch) : State :=
  if x.kernel.mode ≠ 1 then s
  else (List.range x.items).foldl (fun s i => s.devPut x.asid (x.itemreg.toNat + 128 * i) (toBytes 4 i ++ toBytes 4 0)) s

/-- A completion record can be written (R480). -/
def State.crecOk (s : State) (asid : BitVec 16) (crec : Option Word) : Bool := match crec with
  | some a => s.pagesOk asid a.toNat 64 fun p _ _ => pteW p && !pteRmt p
  | none => true

/-- Submit a launch record that has been read; `crec` is the completion record that the submitter names, at any address (log 87), in place
of the record's CREC, for which 0 names none. -/
def State.submitBytes (s : State) (asid : BitVec 16) (lrec : Word) (crec : Option Word) (o : Origin) (b : List Byte) : Submitted :=
  let crec := match crec with
    | some a => some a
    | none => if wordAt b 144 = 0 then none else some (wordAt b 144)
  if !s.crecOk asid crec then .dropped
  else
    let kdesc := wordAt b 0
    let (s, kb) := s.devGet asid kdesc.toNat 64
    let kb := kb.getD []
    let x := readLaunch b (readKernel kb) lrec asid crec
    let x := { x with chain := o.chain, reporter := o.reporter, watch := o.watch, prio := o.prio.getD x.prio }
    let x := if o.node then { x with gangs := 1, ready := [] } else x
    let code := s.launchStatus x kdesc (numAt kb 52 1)
    let (l, s) := s.fresh
    let s := { s with launches := s.launches.set l { x with code := code } }
    if code ≠ 0 then
      let s := s.reportLaunch l 3
      .taken l ((s.modLaunch l fun x => { x with reporter := none }).completeLaunch l (x.dies.headD 0))
    else
      let s := (s.clearItems x).reportLaunch l 0
      let s := (s.cleanCounters x).readCounters l
      if o.node then .taken l (s.modLaunch l fun x => { x with status := .ready })
      else .taken l (if (s.launch l).isReady then s.queueGangs l else s)

/-- Submit the launch record at a virtual address; one that cannot be read is a bad record (R480). Its DIEMASK is not known then: that its
completion record names CD0 is the model's choice (R339; log 113). -/
def State.submit (s : State) (asid : BitVec 16) (lrec : Word) (crec : Option Word) (o : Origin) : Submitted :=
  let (s, rec) := s.devGet asid lrec.toNat 160
  match if lrec.toNat % 32 = 0 then rec else none with
  | some b => s.submitBytes asid lrec crec o b
  | none =>
    if !s.crecOk asid crec then .dropped
    else
      let (l, s) := s.fresh
      let x := { Launch.blank with crec := crec, lrec := lrec, asid := asid, code := 6, chain := o.chain, reporter := o.reporter, watch := o.watch }
      let s := { s with launches := s.launches.set l x }
      .taken l ((s.reportLaunch l 3).modLaunch l (fun x => { x with reporter := none }) |>.completeLaunch l 0)

end Sys2Proof.Machine
end

