-- ==== Sys2Proof/Machine/FabOps.lean ====
section
/-!
DEFINITION. The source side of remote access (19_fabric_superstep.md, R396, R400 to R413): membership, the split into
pieces, source order, allowances and spill, remote read requests, and what a wave's releases and fences wait for.
-/
namespace Sys2Proof.Machine

/-! ### Membership (R400, R453) -/

/-- The device takes part in its pod's fabric and a target is a member of it (R400, R495). -/
def State.isMember (s : State) (dev : BitVec 16) : Bool :=
  match s.pod with
  | some p => p.members.contains dev && !s.step.left
  | none => false

/-- TINFO of FAB_NOT_MEMBER (R452). -/
def State.notMemberInfo (s : State) (dev : BitVec 16) : Word :=
  match s.pod with
  | some p => BitVec.ofNat 64 (dev.toNat + if s.step.left then 2 ^ 32 else 2 ^ 16 * p.number.toNat)
  | none => BitVec.ofNat 64 (dev.toNat + 2 ^ 32)

/-- The outcome of a step that the device has reported is still to come: remote accesses are held (R409). -/
def State.outcomePending (s : State) : Bool := s.step.reported.isSome

/-- Microseconds as cycles of the clock of die 0. -/
def State.usec (s : State) (t : Nat) : Nat := t * s.mhz

/-! ### Pieces (R396) -/

/-- Bytes of one target that lie in one 64-byte block: the physical address of each and its place in the instruction's data. -/
structure RemRun where
  dev : BitVec 16
  bytes : List (Nat × Nat)
  deriving DecidableEq, Repr

/-- A byte of a remote access: target, physical address and place in the instruction's data. -/
abbrev RemByte := BitVec 16 × Nat × Nat

/-- Consecutive bytes. -/
def RemRun.plain (dev : BitVec 16) (pa off n : Nat) : RemRun := ⟨dev, (List.range n).map fun i => (pa + i, off + i)⟩

/-- The first address of a run, and its 64-byte block. -/
def RemRun.pa (r : RemRun) : Nat := (r.bytes.head?.map (·.1)).getD 0
def RemRun.block (r : RemRun) : Nat := r.pa / 64

/-- Join a written byte to the last run of its 64-byte block, or begin a run: a piece carries each byte of its block once. -/
def joinRun (rs : List RemRun) (b : RemByte) : List RemRun :=
  let new : RemRun := ⟨b.1, [b.2]⟩
  match rs.findIdx? fun r => r.dev == b.1 && r.block == b.2.1 / 64 with
  | none => new :: rs
  | some i =>
    let r := nth new rs i
    if r.bytes.any fun c => c.1 == b.2.1 then new :: rs else rs.set i { r with bytes := r.bytes ++ [b.2] }

/-- The runs of a write, in the order of its bytes (R396, R404). -/
def remRuns (bs : List RemByte) : List RemRun := (bs.foldl joinRun []).reverse

/-- The runs of a read: one for each 64-byte block it touches (R396). -/
def readRuns (bs : List RemByte) : List RemRun := bs.foldl (fun (rs : List RemRun) b =>
  if rs.any fun r => r.dev == b.1 && r.block == b.2.1 / 64 then
    rs.map fun (r : RemRun) => if r.dev == b.1 && r.block == b.2.1 / 64 then { r with bytes := r.bytes ++ [b.2] } else r
  else rs ++ [⟨b.1, [b.2]⟩]) []

/-! ### Allowance and spill (R411 to R413) -/

/-- Slots of the send allowance toward a target that are left. -/
def State.allowLeft (s : State) (dev : BitVec 16) : Nat :=
  match s.pod with
  | some p => p.allow - s.allowance.get 0 dev.toNat
  | none => 0

/-- Free slots of the spill region. -/
def State.spillFree (s : State) : Nat :=
  match s.pod with
  | some p => p.spillsz / 128 - (s.sent.filter (·.spilled)).length
  | none => 0

/-- The target of the first piece, of those going to `devs` in order, for which neither allowance nor spill room is
left (R413). -/
def State.spillCheck (s : State) (devs : List (BitVec 16)) : Option (BitVec 16) :=
  (devs.foldl (fun (x : Map Nat × Nat × Option (BitVec 16)) d =>
    let (used, free, bad) := x
    let n := used.get 0 d.toNat
    if bad.isSome then x
    else if n < s.allowLeft d then (used.set d.toNat (n + 1), free, none)
    else if 0 < free then (used, free - 1, none)
    else (used, free, some d)) ([], s.spillFree, none)).2.2

/-- Who sends pieces. -/
structure Sender where
  op : Option Nat
  cmd : Option Nat
  pc : Word
  waveid : BitVec 32
  wave : Nat
  gang : Nat
  launch : Option Nat
  rlx : Bool
  entry : Option (BitVec 8)
  col : Bool := false

/-- The party of a piece or a read (R404, R405). -/
def Sender.party (x : Sender) : Nat := if x.col then colWaiter else waveWaiter x.wave

/-- Write to HBM4 past the L2, as the regions are that the device alone uses (R232). -/
def State.hbmWrite (s : State) (pa : Nat) (bs : List Byte) : State :=
  { s with
    mem := Memory.write s.mem pa bs
    dirty := s.dirty.filter fun d => decide (128 * d.line + 128 ≤ pa ∨ pa + bs.length ≤ 128 * d.line) }

/-- The 128 bytes of a slot that holds a piece (R410, R412): a header that holds its fields, in a layout that the manual does not give
(log 86), and the 64 data bytes. -/
def slotBytes (p : Piece) (pc : Word) (waveid : BitVec 32) : List Byte :=
  let mask := (List.range 64).foldl (fun m i => if p.bytes.any fun b => b.1 % 64 == i then m + 2 ^ i else m) 0
  let fields := [p.src.toNat, p.dst.toNat, p.step.toNat, p.seqNo, p.pa, mask, pc.toNat, waveid.toNat]
  (List.range 64).map (Config.slotHeader fields) ++
    (List.range 64).map fun i => ((p.bytes.find? fun b => b.1 % 64 == i).map (·.2)).getD 0

/-- The lowest number that a list does not hold. -/
def lowestFree (l : List Nat) : Nat := (smallest ((List.range (l.length + 1)).filter fun i => !l.contains i)).getD 0

/-- The requests of outstanding reads whose bytes a newly spilled piece of another party touches go out again with it (R405). -/
def State.resendReads (s : State) (p : Piece) : State :=
  let hit (q : ReadReq) : Bool := q.dst == p.dst && q.step == p.step && q.party != p.party &&
    p.bytes.any fun b => decide (q.pa ≤ b.1 ∧ b.1 < q.pa + q.len)
  let add (q : ReadReq) : ReadReq := { q with spilled := q.spilled ++ [p] }
  { s with
    reads := s.reads.map fun r => if hit r.1 then (add r.1, r.2) else r
    netOut := s.netOut ++ (s.reads.filter fun r => hit r.1).map fun r => Packet.readReq (add r.1) }

/-- Number, and send or spill, one piece (R404, R411, R412). The answer names a piece still to be acknowledged. -/
def State.sendPiece (s : State) (x : Sender) (dev : BitVec 16) (bytes : List (Nat × Byte)) : State × Option (BitVec 16 × Nat) :=
  let n := s.seqNos.get 0 dev.toNat + 1
  let p : Piece := ⟨s.devid, dev, s.step.stepno, n, (bytes.head?.map (·.1)).getD 0 / 64 * 64, bytes, x.entry, x.party⟩
  let spill := s.allowLeft dev == 0
  let slot := lowestFree ((s.sent.filter (·.spilled)).map (·.slot))
  let retx := match s.pod with
    | some p => p.retx
    | none => 0
  let r : Sent := { piece := p, op := x.op, cmd := x.cmd, pc := x.pc, waveid := x.waveid, wave := x.wave, gang := x.gang,
                    launch := x.launch.getD 0, acked := spill, spilled := spill, deadline := s.clock 0 + s.usec retx, rlx := x.rlx, col := x.col,
                    slot := if spill then slot else 0 }
  let s := match x.launch with
    | some l => s.modLaunch l fun y => { y with stepPc := some (x.pc, x.waveid) }
    | none => s
  let s := { s with seqNos := s.seqNos.set dev.toNat n, sent := s.sent ++ [r] }
  if spill then
    let spillAt := match s.pod with
      | some p => p.spill + 128 * slot
      | none => 0
    ((s.hbmWrite spillAt (slotBytes p x.pc x.waveid)).resendReads p, none)
  else ({ s with allowance := s.allowance.set dev.toNat (s.allowance.get 0 dev.toNat + 1), netOut := s.netOut ++ [.piece p] },
        some (dev, n))

/-- Send the pieces of a write, in order. -/
def State.sendRuns (s : State) (x : Sender) (data : List Byte) (rs : List RemRun) : State × List (BitVec 16 × Nat) :=
  rs.foldl (fun (y : State × List (BitVec 16 × Nat)) r =>
    let (s, a) := y.1.sendPiece x r.dev (r.bytes.map fun b => (b.1, nth 0 data b.2))
    (s, y.2 ++ a.toList)) (s, [])

/-! ### Remote reads (R401, R405) -/

/-- The last number of the pieces that a party has sent to a target and that are not acknowledged: a read with RLX = 0
is served behind them. -/
def State.lastPiece (s : State) (party : Nat) (dev : BitVec 16) : Nat :=
  (s.sent.filter fun r => r.piece.party == party && r.piece.dst == dev && r.piece.step == s.step.stepno && !r.acked).foldl
    (fun m r => max m r.piece.seqNo) 0

/-- The reader's spilled pieces of the current step that touch a block. -/
def State.spilledOver (s : State) (dev : BitVec 16) (pa len : Nat) : List Piece :=
  (s.sent.filter fun r => r.spilled && r.piece.dst == dev && r.piece.step == s.step.stepno &&
    r.piece.bytes.any fun b => decide (pa ≤ b.1 ∧ b.1 < pa + len)).map (·.piece)

/-- Send the read request of one run: it asks for the bytes from the lowest to the highest. While a step's outcome is pending it is held,
and leaves with the outcome (R409, R444). -/
def State.sendRead (s : State) (party : Nat) (rlx : Bool) (r : RemRun) : State × Nat :=
  let (id, s) := s.fresh
  let lo := (smallest (r.bytes.map (·.1))).getD 0
  let len := r.bytes.foldl (fun n b => max n (b.1 + 1 - lo)) 0
  let q : ReadReq := ⟨id, s.devid, r.dev, s.step.stepno, lo, len, if rlx then 0 else s.lastPiece party r.dev, rlx, party,
    s.seqNos.get 0 r.dev.toNat, s.spilledOver r.dev lo len⟩
  ({ s with reads := s.reads ++ [(q, r.bytes)], netOut := if s.outcomePending then s.netOut else s.netOut ++ [.readReq q] }, id)

/-- The read requests that were held leave: those of the step that is current (R409). -/
def State.sendHeld (s : State) : State :=
  { s with netOut := s.netOut ++ (s.reads.filter fun r => r.1.step == s.step.stepno).map fun r => Packet.readReq r.1 }

/-- Send the read requests of a list of runs. -/
def State.sendReads (s : State) (party : Nat) (rlx : Bool) (rs : List RemRun) : State × List Nat :=
  rs.foldl (fun (y : State × List Nat) r =>
    let (s, id) := y.1.sendRead party rlx r
    (s, y.2 ++ [id])) (s, [])

/-! ### What releases and fences wait for (R255, R262, R263) -/

/-- Every GEN read that the wave has issued is performed. -/
def State.genReadsDone (s : State) (k : Nat) : Bool :=
  s.ops.all fun o => o.wave != k || o.path != .gen || o.acc.all fun a => match a.kind with
    | .read _ _ => false
    | _ => true

/-- Every read-only-path load of the wave has returned. -/
def State.roDone (s : State) (k : Nat) : Bool :=
  s.ops.all fun o => o.wave != k || o.path != .ro || o.acc.isEmpty

/-- Every remote access of the wave is acknowledged or returned. -/
def State.fabDone (s : State) (k : Nat) : Bool :=
  s.ops.all fun o => o.wave != k || (o.pieces.isEmpty && o.reads.isEmpty)

/-- Every remote read of the wave has returned. -/
def State.fabReadsDone (s : State) (k : Nat) : Bool :=
  s.ops.all fun o => o.wave != k || o.reads.isEmpty

/-- Every engine command that the wave issued to an engine has its completion word. -/
def State.engDone (s : State) (k : Nat) (eng : Nat) : Bool :=
  s.cmds.all fun c => c.wave != k || c.eng != eng

/-- The drains of a workgroup's sequencer that stand before an arrival whose phase has passed are written (R263). -/
def State.mtxDone (s : State) (g wg : Nat) : Bool :=
  s.drains.all fun d => d.gang != g || d.wg != wg || !(d.released.any fun r => (s.nbar g wg r.1).passed r.2)

/-! ### The retirement tracker and pending acquires (R42, R255) -/

/-- Tracker entries of a core that are taken (R42). -/
def State.trackerUsed (s : State) (core : Nat) : Nat :=
  (s.ops.filter fun o => o.tracker && o.core == core).length + (s.cmds.filter fun c => c.tracker && c.core == core).length

/-- The core's tracker has an entry free. -/
def State.trackerRoom (s : State) (core : Nat) : Bool := decide (s.trackerUsed core < 256)

/-- An acquiring operation or command of the wave is not yet performed: no later memory-class instruction issues
(R255, R279). -/
def State.acqOpen (s : State) : Bool :=
  s.wave.acqs.any fun a => s.ops.any (fun o => o.id == a.1) || s.cmds.any (fun c => c.id == a.1)

/-- An acquiring instruction that sends nothing is performed at once; the acquire stands until the wave's next memory-class instruction
(R18, R255). -/
def State.noteAcq (s : State) (acq : Option Nat) : State :=
  match acq with
  | some sc =>
    let (id, s) := s.fresh
    s.modWave fun w => { w with acqs := w.acqs ++ [(id, sc)] }
  | none => s

/-- The acquires before a memory-class instruction are over: at `.quad` or wider the core's L1 is emptied (R255). -/
def State.passAcqs (s : State) : State :=
  let s := if s.wave.acqs.any (fun a => decide (2 ≤ a.2)) then s.emptyL1 s.wave.core else s
  if s.wave.acqs.isEmpty then s else s.modWave fun w => { w with acqs := [] }

end Sys2Proof.Machine
end

