-- ==== Sys2Proof/Machine/Operands.lean ====
section
/-!
DEFINITION. Operands of the vector, memory and engine classes: the fields that a long form carries and a compact form
takes from its clause header, register-block extents, element types, operand modifiers, and the full/empty checks of
an operand list (03_instruction_formats.md, R16 to R18, R70 to R86).
-/
namespace Sys2Proof.Machine

/-! ### Fields of the second word or their defaults (R7, R71, R88) -/

/-- What a vector form carries beyond its registers; `c` is there in a long form only. -/
structure VArgs where
  pred : Nat
  h : Nat
  w : Nat
  fe : Nat
  type : Nat
  rnd : Nat
  sat : Bool
  mod : Nat
  c : Option Nat
  len : Nat

/-- A compact form: predicate and extent of the clause header, defaults for the rest (R7, R16). -/
def Wave.compact (w : Wave) : VArgs :=
  let h := w.hdr.toNat
  ⟨field h 20 18, field h 22 21 + 1, field h 24 23 + 1, 0, 0, 0, false, 0, none, 1⟩

/-- A long form (R71). -/
def longArgs (l : VL) : VArgs :=
  ⟨l.pred.toNat, l.exh.toNat + 1, l.exw.toNat + 1, l.fe.toNat, l.type.toNat, l.rnd.toNat, l.sat, l.mod.toNat,
    some l.c.toNat, 2⟩

/-! ### Register blocks (R84 to R86) -/

/-- Register of element (r, c) of an operand with base `n`. -/
def blockReg (n r c : Nat) : Nat := 16 * (n / 16 + r) + (n % 16 + c) % 16

/-- The elements of an extent, in the order in which they run. -/
def extent (h w : Nat) : List (Nat × Nat) := (List.range h).flatMap fun r => (List.range w).map fun c => (r, c)

/-- The registers of a block operand, in the order of its elements. -/
def blockRegs (h w n : Nat) : List Nat := (extent h w).map fun e => blockReg n e.1 e.2

/-! ### Operands and their full/empty bits (R67, R80 to R83) -/

/-- An operand: vector or scalar registers, its place in the order A, B, C or D (0 to 2, R463), and whether an empty
register traps (policy 1). -/
structure Opnd where
  vec : Bool
  regs : List Nat
  slot : Nat := 2
  traps : Bool := false

/-- A scalar operand under policy 0. -/
def sOp (n : Nat) (slot : Nat := 2) : Opnd := ⟨false, [n], slot, false⟩

/-- A vector block operand under policy 0. -/
def vOp (regs : List Nat) (slot : Nat := 2) : Opnd := ⟨true, regs, slot, false⟩

/-- The empty policy that FE gives an operand (R71, R75). -/
def Opnd.fe (o : Opnd) (fe : Nat) : Opnd := { o with traps := bitAt fe o.slot }

/-- Whether a register is full. -/
def Wave.full (w : Wave) (vec : Bool) (n : Nat) : Bool := if vec then w.vFull n else w.sFull n

/-- All registers of an operand lie within the wave's allocation (R23, R84). -/
def Wave.opndOk (w : Wave) (o : Opnd) : Bool := o.regs.all fun n => decide (n < if o.vec then w.vregN else w.sregN)

/-- TINFO of EMPTY (R463). -/
def emptyInfo (o : Opnd) (n : Nat) : Word := BitVec.ofNat 64 (n + (if o.vec then 256 else 0) + 512 * o.slot)

/-- The first source under policy 1 that is empty (R67, R81). -/
def Wave.emptyCheck (w : Wave) : List Opnd → Check
  | [] => .go
  | o :: os =>
    if !o.traps then Wave.emptyCheck w os
    else match o.regs.find? fun n => !w.full o.vec n with
      | some n => .empty (emptyInfo o n)
      | none => Wave.emptyCheck w os

/-- Every register of a list of operands is full. -/
def Wave.allReady (w : Wave) (os : List Opnd) : Bool := os.all fun o => o.regs.all (w.full o.vec)

/-- The checks of an instruction with sources `srcs`, in the order A, B, C, D, and destinations `dsts` (R67, R81,
R82). -/
def Wave.opndCheck (w : Wave) (legal : Bool) (srcs dsts : List Opnd) : Check :=
  ((Check.need (legal && (srcs ++ dsts).all w.opndOk)).andThen (w.emptyCheck srcs)).andThen
    (Check.ready (w.allReady (srcs ++ dsts)))

/-! ### Element types (R72) -/

/-- The type of an element. -/
inductive ETy where
  | int (sgn : Bool) (w : Nat)
  | flt (f : FFmt)

/-- The element width of a type. -/
def ETy.width : ETy → Nat
  | .int _ w => w
  | .flt f => f.width

/-- The type of an FMT8 code; none for 0x00 and the reserved codes. -/
def eType (code : Nat) : Option ETy :=
  match code with
  | 1 => some (.int true 32)
  | 2 => some (.int false 32)
  | 3 => some (.flt fp32)
  | 4 => some (.int true 16)
  | 5 => some (.int false 16)
  | 6 => some (.flt fp16)
  | 7 => some (.flt bf16)
  | 8 => some (.int true 8)
  | 9 => some (.int false 8)
  | c => if 0x40 ≤ c ∧ c < 0x60 ∧ c % 8 ≠ 0 then some (.flt (b8 c)) else none

/-- The type sets of R171, and those of single instructions, by their codes. -/
def typesF : List Nat := [3, 6, 7]
def typesI : List Nat := [1, 2, 4, 5, 8, 9]
def typesFI : List Nat := typesF ++ typesI
def typesPack : List Nat := [4, 5, 6, 7]
def typesDot : List Nat := [6, 7]
def typesScan : List Nat := [1, 2, 3]

/-- The type an instruction runs under: its default `d` for code 0, and only types of its set (R171). -/
def typeFor (d : Nat) (set : List Nat) (code : Nat) : Option ETy :=
  let c := if code = 0 then d else code
  if set.contains c then eType c else none

/-! ### Modifiers (R71, R126, R171) -/

/-- MOD on the bits of an element with a sign: absolute value (bit 0 of `m`), then negation (bit 1). In a signed binary8 format it clears and
inverts bit 7 of every code, so that the zero 0x00 negated is the NaN 0x80, and that NaN negated or made absolute is the zero (log 95). -/
def FFmt.modBits (f : FFmt) (m x : Nat) : Nat :=
  if !f.sgn then x
  else
    let top := 2 ^ (f.width - 1)
    let x := if bitAt m 0 then x % top else x
    if bitAt m 1 then (if x < top then x + top else x - top) else x

/-- The exact value of an element under MOD; a format without a sign is negated by value (log 22). -/
def FFmt.modded (f : FFmt) (m x : Nat) : FVal :=
  let v := f.decode (f.modBits m x)
  if !f.sgn && bitAt m 1 then v.neg else v

/-- The MOD bits of A and of B. -/
def VArgs.modA (x : VArgs) : Nat := x.mod / 4
def VArgs.modB (x : VArgs) : Nat := x.mod % 4

/-! ### Packed elements (R172) -/

/-- Apply a function to each element of a lane. -/
def lift1 (w : Nat) (f : Nat → Nat) (a : Lane) : Lane := BitVec.ofNat 32 (packElems w ((elems w a).map f))

/-- Apply a function to the elements in the same place of two lanes. -/
def lift2 (w : Nat) (f : Nat → Nat → Nat) (a b : Lane) : Lane :=
  BitVec.ofNat 32 (packElems w (List.zipWith f (elems w a) (elems w b)))

/-- The same for three lanes. -/
def lift3 (w : Nat) (f : Nat → Nat → Nat → Nat) (a b c : Lane) : Lane :=
  BitVec.ofNat 32 (packElems w (List.zipWith (fun g z => g z) (List.zipWith f (elems w a) (elems w b)) (elems w c)))

/-- An exact integer delivered to `n` bits: wrapped, or clamped under SAT (R122). -/
def deliverInt (sat sgn : Bool) (n : Nat) (x : Int) : Nat := wrap n (if sat then clamp sgn n x else x)

/-! ### Running a vector instruction (R16 to R18, R86, R170, R173) -/

/-- Write the lanes of v`d` that take part under vp`p` and that `f` gives a value; the register fills (R18). -/
def Wave.writeLanes (w : Wave) (p d : Nat) (f : Nat → Option Lane) : Wave :=
  w.setV d ((List.range 32).map fun l => if w.takes p l then (f l).getD (w.lane d l) else w.lane d l)

/-- Issue a vector instruction that changes only the wave. In a trap handler it is illegal (R198). -/
def State.vector (s : State) (x : VArgs) (legal : Bool) (srcs dsts : List Opnd) (eff : Wave → Wave) : Out :=
  .next (s.issue (s.wave.opndCheck (legal && !s.wave.inHandler) srcs dsts) fun s => s.modWave fun w => (eff w).retire x.len)

/-- Run once per block element: `f` gets the element's source values, in the order of `vs` (each a base register with
its place and its empty policy), and a lane. `ss` are scalar sources. -/
def State.blockOp (s : State) (x : VArgs) (legal : Bool) (d : Nat) (vs : List (Nat × Nat × Bool)) (ss : List Opnd)
    (f : List (List Lane) → Nat → Option Lane) : Out :=
  let srcs := vs.map fun v => (Opnd.mk true (blockRegs x.h x.w v.1) v.2.1 v.2.2)
  s.vector x legal (srcs ++ ss) [vOp (blockRegs x.h x.w d)] fun w =>
    (extent x.h x.w).foldl (fun w e =>
      let vals := vs.map fun v => w.vreg (blockReg v.1 e.1 e.2)
      w.writeLanes x.pred (blockReg d e.1 e.2) (f vals)) w

/-- Lane `l` of source `i`. -/
def val (vals : List (List Lane)) (i l : Nat) : Lane := nth 0 (nth [] vals i) l

end Sys2Proof.Machine
end

