-- ==== Sys2Proof/Machine/MemOps.lean ====
section
/-!
DEFINITION. How a memory-class instruction issues (10_memory_instructions.md, R242 to R248, R255, R257, R265, R267): the
fields of its second word, the accesses it makes, the checks on every byte before any effect, and the operation that it
leaves in flight; and how that operation ends.
-/
namespace Sys2Proof.Machine

/-! ### Fields (R75) -/

/-- What a memory form carries beyond its registers and offset. -/
structure MArgs where
  fmt : Nat
  pred : Nat
  h : Nat
  w : Nat
  fe : Nat
  acq : Bool
  rel : Bool
  scope : Nat
  rlx : Bool
  len : Nat

/-- A compact form (R7): its predicate and extent come from the clause header. -/
def Wave.memCompact (w : Wave) : MArgs :=
  let x := w.compact
  ⟨0, x.pred, x.h, x.w, 0, false, false, 0, false, 1⟩

/-- A long form (R75). NT changes no result. -/
def memLong (l : ML) : MArgs :=
  ⟨l.fmt8.toNat, l.pred.toNat, l.exh.toNat + 1, l.exw.toNat + 1, l.fe.toNat, l.acq, l.rel, l.scope.toNat, l.rlx, 2⟩

/-- Whether the SCOPE field holds a memory scope (R66, R75). -/
def MArgs.scopeOk (x : MArgs) : Bool := decide (x.scope ≤ 4)

/-! ### Accesses -/

/-- What one element access does. -/
inductive ReqAct where
  | read
  | write (bs : List Byte)
  | rmw (op : Rmw) (x : Word)

/-- One element access: `e` is 4r + c of its block element, `va` its 64-bit address, `w` its width in bytes. -/
structure Req where
  e : Nat
  lane : Nat
  va : Nat
  w : Nat
  act : ReqAct

/-- The rights an instruction needs (R237, R266). -/
inductive Need where
  | load
  | roLoad
  | store
  | atomic
  | counter
  | blockRead
  | engRead
  | engWrite
  | engBoth
  | rmtRead
  | rmtWrite
  | colSend
  deriving DecidableEq, Repr

def Need.reads : Need → Bool
  | .load => true
  | .roLoad => true
  | .atomic => true
  | .blockRead => true
  | .engRead => true
  | .engBoth => true
  | .rmtRead => true
  | _ => false

def Need.writes : Need → Bool
  | .load => false
  | .roLoad => false
  | .blockRead => false
  | .engRead => false
  | .rmtRead => false
  | _ => true

/-- An access of R349, step 3, which stays on local HBM4 pages. -/
def Need.engine : Need → Bool
  | .engRead => true
  | .engWrite => true
  | .engBoth => true
  | _ => false

/-- An access that must be remote (R442, R445). -/
def Need.remote : Need → Bool
  | .rmtRead => true
  | .rmtWrite => true
  | _ => false

/-- What a page gives an access. -/
inductive PageRes where
  | here (pte : Word) (span : Nat)
  | remote (pte : Word) (span : Nat)
  | miss
  | fault (c : Code) (info : Option Word)

/-- Translate and check one page (R237, R400, R401). The table of R237 does not name `sseqadd`: that it needs W alone, and that an MT 1 page
takes it, is the model's choice (log 89). -/
def State.pageResAs (s : State) (unit waiter : Nat) (asid : BitVec 16) (k : Need) (va : Nat) : PageRes :=
  match s.transAs unit waiter asid va with
  | .miss => .miss
  | .fault c => .fault c none
  | .ok p n =>
    if (k.reads && !pteR p) || (k.writes && !pteW p && (pteRmt p || k != .colSend)) then .fault Code.permFault none
    else if pteRmt p then
      if k != .load && k != .store && k != .colSend && !k.remote then .fault Code.permFault none
      else if !s.isMember (pteDev p) then .fault Code.fabNotMember (some (s.notMemberInfo (pteDev p)))
      else .remote p n
    else if k.remote || (k == .atomic && pteMt p == 1) || (k.engine && decide (hostBase ≤ ptePa p n va)) then .fault Code.permFault none
    else .here p n

/-- The same for the party whose turn it is. -/
def State.pageRes (s : State) (asid : BitVec 16) (k : Need) (va : Nat) : PageRes := s.pageResAs s.myTlb s.me asid k va

/-- A fault with the lowest address that it concerns. -/
structure AddrFault where
  va : Nat
  code : Code
  info : Word

/-- The faults of one range of bytes, and the pages that miss. -/
def State.rangeFaults (s : State) (unit waiter : Nat) (asid : BitVec 16) (k : Need) (va n : Nat) : List AddrFault × List Nat :=
  let top := 2 ^ 56
  let high (a : Nat) : List AddrFault := [⟨a, Code.addrRange, faultInfo a k.writes⟩]
  if n = 0 then ([], [])
  else if top ≤ va then (high va, [])
  else
    let last := min (va + n) top - 1
    (List.range (last / 2 ^ 18 - va / 2 ^ 18 + 1)).foldl (fun (x : List AddrFault × List Nat) i =>
      let a := if i = 0 then va else (va / 2 ^ 18 + i) * 2 ^ 18
      match s.pageResAs unit waiter asid k a with
      | .miss => (x.1, x.2 ++ [a])
      | .fault c info => (x.1 ++ [⟨a, c, info.getD (faultInfo a k.writes)⟩], x.2)
      | _ => x) (if top < va + n then high top else [], [])

/-- The fault with the lowest address; the first found of several at one address (R463). -/
def lowestFault : List AddrFault → Option AddrFault
  | [] => none
  | f :: fs => match lowestFault fs with
    | none => some f
    | some g => if g.va < f.va then some g else some f

/-- What the address checks of an instruction give: they pass, a walk is still to come, or a fault. -/
inductive Addrs where
  | ok
  | miss (s : State)
  | fault (f : AddrFault)

/-- A range of bytes that an instruction names, with its need and its alignment. -/
structure Range where
  need : Need
  va : Nat
  len : Nat
  align : Nat

/-- Check ranges before any effect (R209 to R211, R244, R349). R67 leaves the order of two traps at one address open: that ALIGN comes first
is the model's choice (log 15). -/
def State.checkAllAs (s : State) (unit waiter : Nat) (asid : BitVec 16) (l : List Range) : Addrs :=
  let (faults, misses) := l.foldl (fun (x : List AddrFault × List Nat) (r : Range) =>
    let (f, m) := s.rangeFaults unit waiter asid r.need r.va r.len
    let a : List AddrFault := if r.va % r.align = 0 then [] else [⟨r.va, Code.align, faultInfo r.va r.need.writes⟩]
    let f := a ++ f
    (x.1 ++ f, x.2 ++ m)) ([], [])
  if !misses.isEmpty then .miss (misses.foldl (fun s a => s.missAs unit waiter asid a) s)
  else match lowestFault faults with
    | some f => .fault f
    | none => .ok

/-- The same for the party whose turn it is. -/
def State.checkAll (s : State) (asid : BitVec 16) (l : List Range) : Addrs := s.checkAllAs s.myTlb s.me asid l

/-- Check ranges of bytes of one need, each with the alignment it needs. -/
def State.checkRanges (s : State) (asid : BitVec 16) (k : Need) (l : List (Nat × Nat × Nat)) : Addrs :=
  s.checkAll asid (l.map fun r => ⟨k, r.1, r.2.1, r.2.2⟩)

/-- Raise an address fault at the instruction of the wave whose turn it is. -/
def State.addrTrap (s : State) (f : AddrFault) : State := s.trap f.code f.info

/-! ### From element accesses to accesses at the slices -/

/-- An aligned element is one access, an unaligned one is one access a byte (R245). -/
def Req.parts (r : Req) : List (Nat × Nat × Nat) :=
  if r.va % r.w = 0 then [(r.va, 0, r.w)] else (List.range r.w).map fun i => (r.va + i, i, 1)

/-- One part of an element access, with its bytes at `dst` on in the instruction's data. -/
def Req.kind (r : Req) (i n dst : Nat) : AccKind :=
  match r.act with
  | .read => .read (dst + i) n
  | .write bs => .write ((bs.drop i).take n)
  | .rmw op x => .rmw op x r.w dst

/-- The local accesses and the remote bytes of a list of element accesses; element k has its data at k·w. -/
def State.split (s : State) (asid : BitVec 16) (rs : List Req) : List Acc × List RemByte :=
  let step (x : (List Acc × List RemByte) × Nat) (r : Req) : (List Acc × List RemByte) × Nat :=
    let y := r.parts.foldl (fun (y : List Acc × List RemByte) p =>
      match s.trans asid p.1 with
      | .ok pte span =>
        let pa := ptePa pte span p.1
        if pteRmt pte then (y.1, y.2 ++ (List.range p.2.2).map fun j => (pteDev pte, pa + j, x.2 + p.2.1 + j))
        else (y.1 ++ [⟨.phys pa, p.1, pteExpz pte, pteMt pte == 0, r.kind p.2.1 p.2.2 x.2, none⟩], y.2)
      | _ => y) x.1
    (y, x.2 + r.w)
  (rs.foldl step (([], []), 0)).1

/-- The bytes that an instruction writes, in the order of its element accesses. -/
def reqData (rs : List Req) : List Byte := rs.flatMap fun r => match r.act with
  | .write bs => bs
  | _ => copies r.w 0

/-! ### The L1 at issue (R221, R266, R277) -/

/-- An earlier read of the core's that has still to be performed, or a write of it that a release still holds back, touches a line: a later
load does not pass it. -/
def State.readBehind (s : State) (core line : Nat) : Bool := s.ops.any fun o => o.core == core && o.acc.any fun a =>
  match a.kind, a.at_ with
    | .read _ _, .phys p => lineOf p == line
    | _, .phys p => !o.entered && lineOf p == line
    | _, _ => false

/-- Serve a load's access from a present line of the core's L1, or leave it to the home slice; a line that is not kept
is dropped. A load with ACQ at `.quad` or wider is never served there (R277). -/
def State.l1Load (s : State) (core : Nat) (x : List Acc × MemOp) (a : Acc) : State × (List Acc × MemOp) :=
  let miss (s : State) : State × (List Acc × MemOp) := (s, (x.1 ++ [a], x.2))
  let wide := match x.2.acq with
    | some sc => decide (2 ≤ sc)
    | none => false
  match a.at_, a.kind with
  | .phys pa, .read dst n =>
    match s.l1.find? (fun l => l.core == core && l.line == lineOf pa) with
    | some l =>
      if wide || !a.cached || s.readBehind core (lineOf pa) || s.emitOver x.2.wave x.2.id pa then miss s
      else if Config.l1Keeps (s.tick * 2 ^ 45 + lineOf pa) then
        (s, (x.1, x.2.give dst ((List.range n).map fun i => nth 0 l.bytes (pa % 128 + i))))
      else miss (s.l1Drop core (lineOf pa))
    | none => miss s
  | _, _ => miss s

/-- The L1's part in an operation at issue: its loads may be served there, and its writes enter the core's channels, unless a release
holds them back. -/
def State.l1Issue (s : State) (core : Nat) (o : MemOp) : State × MemOp :=
  let (s, y) := if o.path == .ro then (s, (o.acc, o)) else o.acc.foldl (fun (z : State × (List Acc × MemOp)) a => z.1.l1Load core z.2 a) (s, ([], o))
  let o := { y.2 with acc := y.1 }
  if s.mayEnter o then (s.enter o, { o with entered := true }) else (s, o)

/-! ### Issue of the operation -/

/-- What an instruction leaves in flight, apart from its accesses. -/
structure OpArgs where
  path : Path
  vec : Bool
  tracker : Bool
  atomic : Bool
  fill : Fill
  len : Nat
  acq : Option Nat
  rel : Option Nat
  rlx : Bool
  seqctr : Option Nat := none

/-- A new operation of the wave whose turn it is. -/
def State.newOp (s : State) (x : OpArgs) (acc : List Acc) : MemOp × State :=
  let w := s.wave
  let (id, s) := s.fresh
  ({ id := id, core := w.core, wave := s.cur, waveid := w.waveid, gang := w.gang, launch := s.myGang.launch, pc := w.here,
     path := x.path, counted := if x.vec then .vm else .sm, tracker := x.tracker, atomic := x.atomic, seqctr := x.seqctr,
     acc := acc, res := [], fill := x.fill, rel := x.rel, acq := x.acq, reads := [], bad := none, pieces := [],
     denied := false, expzFull := false, entered := false, fired := [], ord := id }, s)

/-- Empty the registers that an operation fills (R80). -/
def Wave.emptyFor (w : Wave) : Fill → Wave
  | .none => w
  | .emit d .. => w.emptyV d
  | .scalar d _ _ => w.emptyS d
  | .vector regs _ => regs.foldl (fun w r => w.emptyV r.2) w

/-- Put an operation in flight: its registers empty, a pending acquire is noted, and the wave goes on; after an atomic
with return it waits (R257). -/
def State.launchOp (s : State) (x : OpArgs) (o : MemOp) : State :=
  let s := { s with ops := s.ops ++ [o] }
  let s := s.modWave fun w => w.emptyFor o.fill
  let s := match x.acq with
    | some sc => s.modWave fun w => { w with acqs := w.acqs ++ [(o.id, sc)] }
    | none => s
  if x.atomic then (s.modWave fun w => { w with waiting := some (.atomic o.id) }).hold else s.retire x.len

/-- Issue element accesses at virtual addresses that have passed their checks: a release toward remote devices or by a
load waits for its accesses (R255), remote accesses wait for a pending outcome (R409) and for spill room (R413), and an
instruction that takes a tracker entry waits for one (R42). -/
def State.issueReqs (s : State) (x : OpArgs) (rs : List Req) : State :=
  let w := s.wave
  let asid := s.myGang.asid
  let (acc, rem) := s.split asid rs
  let writes := x.tracker
  let runs := if writes then remRuns rem else readRuns rem
  let held := match x.rel with
    | some sc => (!runs.isEmpty || !writes) && !s.genDone s.cur sc
    | none => false
  if held then s.hold
  else if (x.tracker && !s.trackerRoom w.core) || (!runs.isEmpty && s.outcomePending) then s.block
  else match if writes then s.spillCheck (runs.map (·.dev)) else none with
    | some d => s.trap Code.stepSpillFull (d.setWidth 64)
    | none =>
      let (o, s) := s.newOp x acc
      let (s, o) := s.l1Issue w.core o
      if writes then
        let snd : Sender := ⟨some o.id, none, o.pc, w.waveid, s.cur, w.gang, some o.launch, x.rlx, none, false⟩
        let (s, ps) := s.sendRuns snd (reqData rs) runs
        s.launchOp x { o with pieces := ps }
      else
        let (s, ids) := s.sendReads (waveWaiter s.cur) x.rlx runs
        s.launchOp x { o with reads := ids }

/-- An instruction on virtual memory: with no element access its registers fill at once and nothing is sent (R18);
otherwise every byte is checked first. -/
def State.virt (s : State) (k : Need) (align : Bool) (x : OpArgs) (rs : List Req) (extra : List (Nat × Nat × Nat) := []) : State :=
  let s := s.passAcqs
  match s.checkRanges s.myGang.asid k (rs.map (fun r => (r.va, r.w, if align then r.w else 1)) ++ extra) with
  | .miss s => s.hold
  | .fault f => s.addrTrap f
  | .ok => if rs.isEmpty then (s.noteAcq x.acq).retire x.len else s.issueReqs x rs

/-- Vault accesses that are ready to issue. -/
def State.issueVault (s : State) (x : OpArgs) (acc : List Acc) (ungranted : Bool) : State :=
  let w := s.wave
  let s := s.passAcqs
  if acc.isEmpty then (s.noteAcq x.acq).retire x.len
  else if x.tracker && !s.trackerRoom w.core then s.block
  else
    let s := if ungranted then s.modWave fun w => { w with vstat := w.vstat ||| 1 } else s
    let (o, s) := s.newOp x acc
    let (s, o) := s.l1Issue w.core o
    s.launchOp x o

/-! ### The ends of an operation (R42, R80, R257) -/

/-- The value of a returned element. -/
def MemOp.value (o : MemOp) (off w : Nat) (sgn : Bool) : Word :=
  extend sgn (8 * w) (fromBytes ((List.range w).map fun i => o.res.get 0 (off + i)))

/-- The bytes of a returned element have all come. -/
def MemOp.has (o : MemOp) (off w : Nat) : Bool := (List.range w).all fun i => (o.res.find (off + i)).isSome

/-- The register of a block element is ready to fill: every lane's data has come (R243). -/
def MemOp.regReady (o : MemOp) (lanes : List (Nat × Nat × Nat × Nat × Bool)) (e : Nat) : Bool :=
  lanes.all fun l => l.1 != e || o.has l.2.2.1 l.2.2.2.1

/-- Write the returned lanes of a block element into its register. -/
def Wave.fillReg (w : Wave) (o : MemOp) (lanes : List (Nat × Nat × Nat × Nat × Bool)) (r : Nat × Nat) : Wave :=
  let mine := lanes.filter fun l => l.1 == r.1 && o.has l.2.2.1 l.2.2.2.1
  w.fillV r.2 ((List.range 32).map fun i => match mine.find? fun l => l.2.1 == i with
    | some l => (o.value l.2.2.1 l.2.2.2.1 l.2.2.2.2).setWidth 32
    | none => w.lane r.2 i)

/-- The operation of a load can fill a register now. -/
def MemOp.canFill (o : MemOp) : Bool :=
  match o.fill with
  | .none => o.acc.isEmpty && o.reads.isEmpty
  | .emit .. => o.acc.isEmpty
  | .scalar _ w _ => o.has 0 w
  | .vector regs lanes => regs.any fun r => o.regReady lanes r.1

/-- Change a wave's registers on behalf of one of its operations. -/
def State.fillWave (s : State) (o : MemOp) (f : Wave → Wave) : State :=
  if (s.waves.find o.wave).isSome then (s.setWaveAt o.wave (f (s.waveAt o.wave))).refreshImage o.gang else s

/-- Take an operation out of flight, and report what it met (R267, R401). -/
def State.endOp (s : State) (o : MemOp) : State :=
  let s := { s with ops := s.ops.filter fun q => q.id != o.id }
  let s := match o.bad with
    | some (code, _) => if o.atomic then s else s.impFault o.wave o.waveid o.gang code o.pc
    | none => s
  let s := if o.expzFull then s.impFault o.wave o.waveid o.gang Code.expzFull o.pc else s
  let s := if o.denied then s.impFault o.wave o.waveid o.gang Code.fabDenied o.pc else s
  s.releaseSlot o.wave

/-- The accesses of an operation have all been performed, acknowledged and returned. -/
def MemOp.complete (o : MemOp) : Bool := !o.emits && o.acc.isEmpty && o.pieces.isEmpty && o.reads.isEmpty

/-- A record of `kemit` as an access, once its page is translated (R352). -/
def State.emitAcc (s : State) (o : MemOp) (va : Nat) (key val : Nat) : Trans × Acc :=
  let t := s.transAs o.core (waveWaiter o.wave) (s.gang o.gang).asid va
  let acc (p : Word) (n : Nat) : Acc := ⟨.phys (ptePa p n va), va, pteExpz p, pteMt p == 0, .write (toBytes 8 key ++ toBytes 4 val ++ toBytes 4 0), none⟩
  (t, match t with
    | .ok p n => acc p n
    | _ => acc 0 1)

/-- The record stores of a `kemit` take their place in the order of the core's accesses: behind every access that is in a channel, and
before the later ones that have not entered one yet, which keep their order (R246, R271, R274; log 106). -/
def State.emitPlace (s : State) (o : MemOp) : State :=
  let later (q : MemOp) : Bool := q.core == o.core && !q.entered && decide (o.id < q.id)
  let ls := s.ops.filter later
  { s with
    nextId := s.nextId + 1 + ls.length
    ops := (s.ops.filter fun q => q.id != o.id && !later q) ++ { o with ord := s.nextId } ::
      List.zipWith (fun n (q : MemOp) => { q with ord := n }) (upto (s.nextId + 1) ls.length) ls }

/-- The counter add of a `kemit` has come back (R352): its slots fill D, and the records below the capacity are stored. A
counter that was not added to, for a failing line or for want of a slot (R234), leaves D as it was, and no record is written. A record whose
page has lost its translation waits for a walk. -/
def State.emitArrive (s : State) (o : MemOp) (d h cap : Nat) (recs : List (Nat × Nat × Nat)) : State :=
  if o.bad.isSome || o.expzFull then (s.fillWave o fun w => w.fillV d (w.vreg d)).endOp { o with fill := .none }
  else
    let base := fromBytes ((List.range 8).map fun i => o.res.get 0 i)
    let slots := (List.zip (List.range recs.length) recs).map fun r => ((base + r.1) % 2 ^ 64, r.2)
    let wr := (slots.filter fun r => decide (r.1 < cap)).map fun r => s.emitAcc o (h + 16 + 16 * r.1) r.2.2.1 r.2.2.2
    let missing := wr.filter fun x => x.1 == .miss
    if !missing.isEmpty then missing.foldl (fun (s : State) x => s.missAs o.core (waveWaiter o.wave) (s.gang o.gang).asid x.2.va) s
    else
      let s := s.fillWave o fun w => w.fillV d ((List.range 32).map fun l => match slots.find? (fun r => r.2.1 == l) with
        | some r => BitVec.ofNat 32 r.1
        | none => w.lane d l)
      let s := s.emitPlace { o with fill := .none, entered := false, acc := wr.filterMap fun x => match x.1 with
        | .ok _ _ => some x.2
        | _ => none }
      match s.opAt o.id with
      | some o => if s.mayEnter o then s.enterNow o else s
      | none => s

/-- LOAD_DATA_ARRIVE: fill the registers whose data has come (R80, R243). -/
def State.dataArrive (s : State) (o : MemOp) : State :=
  match o.fill with
  | .none => if o.complete then s.endOp o else s
  | .emit d h cap recs => s.emitArrive o d h cap recs
  | .scalar d w g =>
    if o.has 0 w then (s.fillWave o fun x => x.setS d (o.value 0 w g)).endOp o else s
  | .vector regs lanes =>
    let ready := regs.filter fun r => o.regReady lanes r.1
    let s := s.fillWave o fun x => ready.foldl (fun x r => x.fillReg o lanes r) x
    let o := { o with fill := .vector (regs.filter fun r => !o.regReady lanes r.1) lanes }
    if (regs.all fun r => o.regReady lanes r.1) && o.complete then s.endOp o else s.setOp o

/-- The done mask of an atomic (R257): the lanes done before this issue and those whose value has come. -/
def MemOp.doneMask (o : MemOp) (before : Map (BitVec 32)) : Map (BitVec 32) :=
  match o.fill with
  | .none => before
  | .emit .. => before
  | .scalar _ w _ => before.set 0 (before.get 0 0 ||| if o.has 0 w then 1 else 0)
  | .vector regs lanes => regs.foldl (fun m r =>
      m.set r.1 (m.get 0 r.1 ||| laneMask fun i => lanes.any fun l => l.1 == r.1 && l.2.1 == i && o.has l.2.2.1 l.2.2.2.1)) before

/-- The registers of an atomic with its values where they have come and its operands elsewhere. -/
def Wave.fillAtomic (w : Wave) (o : MemOp) : Wave :=
  match o.fill with
  | .none => w
  | .emit .. => w
  | .scalar d n g => if o.has 0 n then w.setS d (o.value 0 n g) else w.setS d (w.sreg d)
  | .vector regs lanes => regs.foldl (fun w r => w.fillReg o lanes r) w

/-- ATOMIC_RESULT_RETURN: the old values come back and the wave goes on, or it traps with a done mask (R257). For want of an overflow slot
(R234) the destination fills with its operand and EXPZ_FULL is reported as of a store, the model's choice (log 91). A wave
that was taken away from the atomic while the request was parked only gets its values (R465). -/
def State.atomicReturn (s : State) (o : MemOp) : State :=
  let w := s.waveAt o.wave
  let here := w.waiting == some (.atomic o.id) && w.status == .live
  let s := s.fillWave o fun x => x.fillAtomic o
  let s := s.endOp o
  match o.bad with
  | some (code, pa) =>
    if here then s.trapIn o.wave { code := code, info := BitVec.ofNat 64 pa, dmask := some (o.doneMask (w.redo.getD [])) }
    else s.impFault o.wave o.waveid o.gang code o.pc
  | none =>
    if here then s.setWaveAt o.wave ((s.waveAt o.wave).retire (opWords w.word)) else s

end Sys2Proof.Machine
end

