-- ==== Sys2Proof/Machine/EngOps.lean ====
section
/-!
DEFINITION. What engine-class instructions share (16_splat_claim_task_instructions.md, R346 to R351, R279): their
fields, completion words, reads on the wave's GEN path, the reads and writes of an engine, and the acceptance and
completion of a command.
-/
namespace Sys2Proof.Machine

/-! ### Fields (R78, R346) -/

/-- What an engine form carries beyond its registers. -/
structure EArgs where
  pred : Nat
  fe : Nat
  acq : Bool
  rel : Bool
  scope : Nat
  rlx : Bool
  len : Nat

/-- A compact form: the predicate of the clause header, policy 0, no ordering. -/
def Wave.engCompact (w : Wave) : EArgs := ⟨w.compact.pred, 0, false, false, 0, false, 1⟩

/-- A long form. -/
def engLong (l : EL) : EArgs := ⟨l.pred.toNat, l.fe.toNat, l.acq, l.rel, l.scope.toNat, l.rlx, 2⟩

/-- The scalar source A or B, with the empty policy of FE. -/
def EArgs.a (x : EArgs) (n : Nat) : Opnd := (sOp n 0).fe x.fe
def EArgs.b (x : EArgs) (n : Nat) : Opnd := (sOp n 1).fe x.fe

/-- Issue an engine-class instruction: illegal in a trap handler (R198, R346). -/
def State.engine (s : State) (x : EArgs) (legal : Bool) (srcs dsts : List Opnd) (eff : State → State) : Out :=
  .next (s.issue (s.wave.opndCheck (legal && decide (x.scope ≤ 4) && !s.wave.inHandler) srcs dsts) eff)

/-- A completion word (R347). -/
def engWord (eng status count : Nat) (flags : Nat := 0) : Word :=
  BitVec.ofNat 64 (status + 2 ^ 8 * eng + 2 ^ 12 * flags + 2 ^ 16 * (count % 2 ^ 32))

/-- A completion word whose COUNT no rule defines (log 23). -/
def State.refusal (s : State) (eng status : Nat) : Word := engWord eng status (Config.openCount s.tick).toNat

/-- The ENG codes of R347 and the STATUS codes of R348. -/
def engSort : Nat := 1
def engGde : Nat := 2
def engCopy : Nat := 3
def engCol : Nat := 4
def engFab : Nat := 5
def engClaim : Nat := 6
def engTask : Nat := 7
def engWatch : Nat := 8
def stOverlap : Nat := 1
def stBadCount : Nat := 2
def stMemErr : Nat := 3
def stFull : Nat := 4
def stNotFound : Nat := 5
def stBadDesc : Nat := 6
def stBadNode : Nat := 7
def stBusy : Nat := 8
def stLinkDown : Nat := 9

/-! ### Reads on the wave's GEN path at issue (R349, R355) -/

/-- The parts of a region that lie in one 128-byte line each: address and length. -/
def segments (va n : Nat) : List (Nat × Nat) :=
  if n = 0 then []
  else (List.range ((va + n - 1) / 128 - va / 128 + 1)).map fun i =>
    let a := max va (128 * (va / 128 + i))
    (a, min (va + n) (128 * (va / 128 + i + 1)) - a)

/-- No access of the core is still to be performed in the channel of a physical address (R246, R271). -/
def State.chanFree (s : State) (core pa : Nat) : Bool :=
  let c := (Acc.mk (.phys pa) 0 false false (.read 0 0) none).chan
  s.ops.all fun q => q.core != core || !q.hasIn c

/-- What a read gives: its bytes, the first failing line it met, and the state. -/
structure Got where
  bytes : List Byte
  bad : Option (Code × Nat)
  s : State

/-- Read bytes of one line as a load does (R221, R267). -/
def State.genSeg (s : State) (core pa n : Nat) (cached : Bool) : Got :=
  let line := lineOf pa
  let home (s : State) : Got := match s.bad.find line with
    | some c => ⟨s.openBytes pa n, some (c, 128 * line), s⟩
    | none => let s := s.clean line; ⟨s.load pa n, none, if cached then s.l1Fill core line else s⟩
  match if cached then s.l1.find? (fun l => l.core == core && l.line == line) else none with
  | some l =>
    if Config.l1Keeps (s.tick * 2 ^ 45 + line) then ⟨(l.bytes.drop (pa % 128)).take n, none, s⟩ else home (s.l1Drop core line)
  | none => home s

/-- Read bytes at a virtual address that has passed its checks; nothing while an earlier access of the core is still to
be performed in one of the channels, or may still store a record there. -/
def State.genRead (s : State) (va n : Nat) : Option Got :=
  let core := s.wave.core
  let asid := s.myGang.asid
  (segments va n).foldl (fun (x : Option Got) p => match x with
    | none => none
    | some g => match g.s.trans asid p.1 with
      | .ok pte span =>
        let pa := ptePa pte span p.1
        if !s.chanFree core pa || (List.range p.2).any (fun i => s.emitOver s.cur s.nextId (pa + i)) then none
        else
          let y := g.s.genSeg core pa p.2 (pteMt pte == 0 && decide (pa < hbmTop))
          some ⟨g.bytes ++ y.bytes, match g.bad with
            | none => y.bad
            | some b => some b, y.s⟩
      | _ => none) (some ⟨[], none, s⟩)

/-- Read on the GEN path at issue: the wave waits for the acquires before, whose end empties its core's L1 (R255, R279). -/
def State.behindAcqs (s : State) (eff : State → State) : State := if s.acqOpen then s.hold else eff s.passAcqs

/-- A load at issue met a failing line: an imprecise fault of the instruction (R267). -/
def State.genBad (s : State) (bad : Option (Code × Nat)) : State :=
  match bad with
  | some (c, _) => s.impFault s.cur s.wave.waveid s.wave.gang c s.wave.here
  | none => s

/-! ### Engine reads and writes (R279, R350, R213 to R216) -/

/-- A region of an engine command: virtual memory or the vault. -/
structure Loc where
  vault : Bool
  addr : Word

/-- A place `n` bytes on. -/
def Loc.plus (l : Loc) (n : Nat) : Loc := { l with addr := l.addr + BitVec.ofNat 64 n }

/-- What an engine has met while it moves data: the state, the number of the command, the TLB and the waiter it translates for, errors of the
memory side, ungranted vault words, the watchpoints that the command's writes have fired, and the launches it writes for. -/
structure Eng where
  s : State
  self : Option Nat := none
  via : Option (Nat × Nat) := none
  bad : List Code := []
  ungranted : Bool := false
  fired : List Nat := []
  launches : List Nat := []

/-- Translate for an engine, through its TLB (R239). -/
def Eng.trans (e : Eng) (asid : BitVec 16) (va : Nat) : Option (Word × Nat) := match e.via with
  | some (unit, waiter) => match e.s.transAs unit waiter asid va with
    | .ok p n => some (p, n)
    | _ => none
  | none => (e.s.transNow asid va).toOption

/-- Read bytes of one line of virtual memory at its home slice. -/
def Eng.readSeg (e : Eng) (asid : BitVec 16) (va n : Nat) : List Byte × Eng :=
  let open_ := e.s.openBytes va n
  match e.trans asid va with
  | none => (open_, e)
  | some (p, span) =>
    let pa := ptePa p span va
    match e.s.bad.find (lineOf pa) with
    | some c => (open_, { e with bad := e.bad ++ [c] })
    | none => let s := e.s.clean (lineOf pa); (s.load pa n, { e with s := s })

/-- Write bytes of one line of virtual memory at its home slice. -/
def Eng.writeSeg (e : Eng) (asid : BitVec 16) (va : Nat) (bs : List Byte) : Eng :=
  match e.trans asid va with
  | none => e
  | some (p, span) =>
    let pa := ptePa p span va
    match e.s.bad.find (lineOf pa) with
    | some c => { e with bad := e.bad ++ [c] }
    | none =>
      if e.s.noSlot pa (pteExpz p) then { e with bad := e.bad ++ [Code.expzFull] }
      else let (s, f) := e.s.applyStore e.fired pa bs (pteExpz p) e.self e.launches; { e with s := s, fired := f }

/-- A vault line of the SRAM die fails. -/
def Eng.vaultBad (e : Eng) (g off : Nat) : Bool := e.s.badVault.contains (g, off / 128)

/-- Read bytes of a region for gang `g`; vault bytes come as aligned words (R214). -/
def Eng.read (e : Eng) (g : Nat) (l : Loc) (n : Nat) : List Byte × Eng :=
  if l.vault then
    (List.range (n / 4)).foldl (fun (x : List Byte × Eng) i =>
      match x.2.s.vaultAt g false (l.addr + BitVec.ofNat 64 (4 * i)) with
      | .vault o off =>
        if x.2.vaultBad o off then (x.1 ++ x.2.s.openBytes off 4, { x.2 with bad := x.2.bad ++ [Code.uncorr] })
        else (x.1 ++ Memory.read (x.2.s.gang o).vault off 4, x.2)
      | _ => (x.1 ++ copies 4 0, { x.2 with ungranted := true })) ([], e)
  else
    (segments l.addr.toNat n).foldl (fun (x : List Byte × Eng) p =>
      let (b, e) := x.2.readSeg (e.s.gang g).asid p.1 p.2
      (x.1 ++ b, e)) ([], e)

/-- Write bytes of a region for gang `g`. -/
def Eng.write (e : Eng) (g : Nat) (l : Loc) (bs : List Byte) : Eng :=
  if l.vault then
    (List.range (bs.length / 4)).foldl (fun (e : Eng) i =>
      match e.s.vaultAt g true (l.addr + BitVec.ofNat 64 (4 * i)) with
      | .vault o off =>
        if e.vaultBad o off then { e with bad := e.bad ++ [Code.uncorr] }
        else { e with s := (e.s.modGang o fun x => { x with vault := Memory.write x.vault off ((bs.drop (4 * i)).take 4) }).disturbVault e.self o off 4 }
      | _ => { e with ungranted := true }) e
  else
    (segments l.addr.toNat bs.length).foldl (fun (e : Eng) p =>
      e.writeSeg (e.s.gang g).asid p.1 ((bs.drop (p.1 - l.addr.toNat)).take p.2)) e

/-- An engine met an uncorrectable error or poison (R350); EXPZ_FULL is no such error. -/
def Eng.memErr (e : Eng) : Bool := e.bad.any fun c => c != Code.expzFull

/-- Write a destination; after an uncorrectable error or poison it is unpredictable (R348). -/
def Eng.writeOut (e : Eng) (g : Nat) (l : Loc) (bad : Bool) (bs : List Byte) : Eng :=
  let any := e.s.openBytes l.addr.toNat bs.length
  let e' := e.write g l (if bad then any else bs)
  if !bad && e'.memErr then e.write g l any else e'

/-! ### Commands (R347 to R350) -/

/-- A command of the wave whose turn it is, with a fresh number. -/
def State.newCmd (s : State) (eng unit : Nat) (dreg : Option Nat) (op : CmdOp) (acq : Option Nat) : Cmd × State :=
  let w := s.wave
  let (id, s) := s.fresh
  ({ id := id, eng := eng, unit := unit, core := w.core, wave := s.cur, waveid := w.waveid, gang := w.gang,
     asid := s.myGang.asid, pc := w.here, dreg := dreg, op := op, status := .queued, word := 0, data := [], acq := acq,
     tracker := true, reserved := false, deadline := none, pieces := [], denied := false, bad := [], pos := 0, passes := 0, spoiled := false,
     fired := [] }, s)

/-- The acquire scope of an instruction's fields. -/
def EArgs.acqScope (x : EArgs) : Option Nat := if x.acq then some x.scope else none

/-- The release of an instruction's fields is over (R279). -/
def State.relDone (s : State) (x : EArgs) : Bool := !x.rel || s.genDone s.cur x.scope

/-- Put a command in its engine's queue: its register empties and the wave goes on. -/
def State.accept (s : State) (x : EArgs) (c : Cmd) : State :=
  let s := { s with cmds := s.cmds ++ [c] }
  let s := match c.dreg with
    | some d => s.modWave fun w => w.emptyS d
    | none => s
  let s := match c.acq with
    | some sc => s.modWave fun w => { w with acqs := w.acqs ++ [(c.id, sc)] }
    | none => s
  s.retire x.len

/-- Complete the instruction at once: its register gets a value, and an acquire is over. -/
def State.answer (s : State) (x : EArgs) (d : Nat) (word : Word) : State :=
  let s := (s.modWave fun w => w.setS d word).retire x.len
  if x.acq && decide (2 ≤ x.scope) then s.emptyL1 s.wave.core else s

/-- What a command reports: the first error of the memory side that it met, and EXPZ_FULL (R234, R350). -/
def Cmd.reports (c : Cmd) : List (BitVec 8) :=
  (c.bad.filter (· != Code.expzFull)).take 1 ++ if c.bad.contains Code.expzFull then [Code.expzFull] else []

/-- A command is over: its register gets the completion word, and what the memory side met is reported (R46, R347,
R350). -/
def State.finish (s : State) (c : Cmd) (word : Word) : State :=
  let s := ({ s with cmds := s.cmds.filter fun q => q.id != c.id }).forget (cmdWaiter c.id)
  let s := match c.dreg, s.waves.find c.wave with
    | some d, some w => (s.setWaveAt c.wave (w.setS d word)).refreshImage c.gang
    | _, _ => s
  let s := c.reports.foldl (fun (s : State) code => s.impFault c.wave c.waveid c.gang code c.pc) s
  s.releaseSlot c.wave

/-- Replace a command. -/
def State.setCmd (s : State) (c : Cmd) : State := { s with cmds := s.cmds.map fun q => if q.id == c.id then c else q }

/-- The command numbered `id`. -/
def State.cmdAt (s : State) (id : Nat) : Option Cmd := s.cmds.find? fun c => c.id == id

/-- Commands that wait in a queue. -/
def State.queued (s : State) (eng unit : Nat) : Nat :=
  (s.cmds.filter fun c => c.eng == eng && c.unit == unit && c.status == .queued).length

/-- Commands that run. -/
def State.running (s : State) (eng unit : Nat) : Nat :=
  (s.cmds.filter fun c => c.eng == eng && c.unit == unit && c.status == .running).length

/-- Two regions overlap (R299). -/
def overlap (a n b m : Nat) : Bool := n != 0 && m != 0 && decide (a < b + m) && decide (b < a + n)

/-- What the checks of a command block decide (R349, step 2). -/
inductive Plan where
  | answer (status count : Nat)
  | run (ranges : List Range) (op : CmdOp)

/-- A refused or empty command completes at once; COUNT is open unless the command is OK. -/
def State.planAnswer (s : State) (eng status count : Nat) : Word :=
  if status = 0 then engWord eng 0 count else s.refusal eng status

/-- Issue a command in the order of R349: read the block of `len` bytes, check its fields, check its regions, wait for
the release, for room in the engine's queue and for a tracker entry, and accept it. -/
def State.command (s : State) (x : EArgs) (eng unit : Nat) (room : Bool) (d : Nat) (va : Word) (len : Nat)
    (plan : List Byte → Plan) (mark : Cmd → Cmd := id) : State :=
  s.behindAcqs fun s =>
  let asid := s.myGang.asid
  match s.checkAll asid [⟨.blockRead, va.toNat, len, 8⟩] with
  | .miss s => s.hold
  | .fault f => s.addrTrap f
  | .ok => match s.genRead va.toNat len with
    | none => s.hold
    | some g =>
      match g.bad with
      | some _ => (g.s.genBad g.bad).answer x d (g.s.refusal eng stMemErr)
      | none => match plan g.bytes with
        | .answer st n => g.s.answer x d (s.planAnswer eng st n)
        | .run rs op =>
          match s.checkAll asid rs with
          | .miss s => s.hold
          | .fault f => s.addrTrap f
          | .ok =>
            if !s.relDone x then s.hold
            else if !room || !s.trackerRoom s.wave.core then s.block
            else
              let (c, s) := g.s.newCmd eng unit (some d) op x.acqScope
              s.accept x (mark c)

/-! ### Engines at work (R239, R350) -/

/-- The TLB that the engine of a command translates through; a fabric command translates through its core's (log 81). -/
def Cmd.tlb (c : Cmd) : Nat :=
  if c.eng = engSort then tlbSort c.unit
  else if c.eng = engGde then tlbGde c.unit
  else if c.eng = engCopy then tlbCopy c.unit
  else if c.eng = engCol then tlbCol
  else c.core

/-- The rows of a strided region. -/
def stridedRows (base n stride rowsz : Nat) : List (Nat × Nat) := (List.range n).map fun r => (base + stride * r, rowsz)

/-- The regions of virtual memory that a command reads and writes: address and length. -/
def Cmd.regions (c : Cmd) : List (Nat × Nat) :=
  match c.op with
  | .sort inp out scr n => [(inp, 16 * n), (out, 16 * n), (scr, 16 * n + 8192)]
  | .merge out runs => (out, 16 * runs.foldl (fun n r => n + r.2) 0) :: runs.map fun r => (r.1, 16 * r.2)
  | .table inp tab n nt => [(inp, 16 * n), (tab, 8 * nt)]
  | .gather idx tab rows k rowsz nrows v => [(idx, 4 * k), (tab, nrows * rowsz)] ++ if v then [] else [(rows, k * rowsz)]
  | .scatter idx tab rows k rowsz nrows v _ => [(idx, 4 * k), (tab, nrows * rowsz)] ++ if v then [] else [(rows, k * rowsz)]
  | .copy src dst rowsz nrows ss ds ctl =>
    (if ctl.getLsbD 0 then [] else stridedRows src nrows ss rowsz) ++ if ctl.getLsbD 1 then [] else stridedRows dst nrows ds rowsz
  | .park src rowsz nrows ss _ => stridedRows src nrows ss rowsz
  | .bulkRead dst v => if v then [] else [(dst, c.data.length)]
  | _ => []

/-- The pages of a region. -/
def pagesOf (va n : Nat) : List Nat :=
  if n = 0 then []
  else (List.range ((va + n - 1) / 2 ^ 18 - va / 2 ^ 18 + 1)).map fun i => if i = 0 then va else (va / 2 ^ 18 + i) * 2 ^ 18

/-- The pages of a command's regions that its TLB and the L2 TLB behind it do not hold. -/
def State.cmdMisses (s : State) (c : Cmd) : List Nat :=
  ((c.regions.flatMap fun r => pagesOf r.1 r.2).filter fun a => s.transAs c.tlb (cmdWaiter c.id) c.asid a == .miss)

/-- An engine goes on with a command once it has the translations it needs; those that it misses it queues for walks (R239, R241). -/
def State.engineStep (s : State) (c : Cmd) (eff : Eng → State) : State :=
  match s.cmdMisses c with
  | [] => eff { s := s, self := some c.id, via := some (c.tlb, cmdWaiter c.id), fired := c.fired, launches := [(s.gang c.gang).launch] }
  | l => l.foldl (fun (s : State) a => s.missAs c.tlb (cmdWaiter c.id) c.asid a) s

/-- What happens at a command's start is noted in it: its data, its word, what it met, and the watchpoints it has fired. -/
def State.started (e : Eng) (c : Cmd) (data : List Byte) (word : Word) : State :=
  let s := if e.ungranted then e.s.setWaveAt c.wave { e.s.waveAt c.wave with vstat := (e.s.waveAt c.wave).vstat ||| 1 } else e.s
  s.setCmd { c with status := .running, data := data, word := word, bad := c.bad ++ e.bad, fired := e.fired }

/-- An error of the memory side was met at a command's start. -/
def Cmd.erred (c : Cmd) : Bool := c.bad.any (· != Code.expzFull)

/-- A command ends after its writes: STATUS 3 where an error was met (R348). -/
def State.ended (e : Eng) (c : Cmd) : State :=
  let s := if e.ungranted then e.s.setWaveAt c.wave { e.s.waveAt c.wave with vstat := (e.s.waveAt c.wave).vstat ||| 1 } else e.s
  s.finish { c with bad := c.bad ++ e.bad } (if e.memErr || c.erred then s.refusal c.eng stMemErr else c.word)

end Sys2Proof.Machine
end

