-- ==== Sys2Proof/Machine/System.lean ====
section
/-!
DEFINITION. System-class instructions (06_scalar_control_instructions.md, R154 to R168, and R461 to R463): special
registers, barriers, numbered barriers, software traps and pre-emption hints. `bar.pod` stands with the step
instructions in Fabric.
-/
namespace Sys2Proof.Machine

/-! ### Special registers (R154, R155, R462) -/

/-- The step number that a remote access issued now would carry (R155, R409); 0 on a device in no pod. -/
def State.stepNow (s : State) : Word := if s.pod.isSome then s.step.stepno else 0

/-- The value that `mfs` reads (R154); none for a number that is not assigned. -/
def State.special (s : State) (n : Nat) : Option Word :=
  let w := s.wave
  let core := w.core % 144
  if n = 0x000 then some (w.waveid.setWidth 64)
  else if n = 0x001 then some (BitVec.ofNat 64 w.no)
  else if n = 0x002 then some (BitVec.ofNat 64 w.wg)
  else if n = 0x003 then some (s.myGang.gangid.setWidth 64)
  else if n = 0x004 then some (BitVec.ofNat 64 core)
  else if n = 0x005 then some (BitVec.ofNat 64 (core / 4))
  else if n = 0x006 then some (BitVec.ofNat 64 (dieOf w.core))
  else if n = 0x007 then some (s.devid.setWidth 64)
  else if n = 0x008 then some (nth 0 s.clk (dieOf w.core))
  else if n = 0x009 then some s.stepNow
  else if n = 0x010 then some w.icount
  else if n = 0x011 then some (w.budget.setWidth 64)
  else if n = 0x012 then some (w.stall.setWidth 64)
  else if n = 0x018 then some (BitVec.ofNat 64 w.ls.length)
  else if 0x020 ≤ n ∧ n < 0x024 then some (w.lsEntry (n - 0x020)).start
  else if 0x024 ≤ n ∧ n < 0x028 then some (w.lsEntry (n - 0x024)).fin
  else if 0x028 ≤ n ∧ n < 0x02c then some (w.lsEntry (n - 0x028)).count
  else if n = 0x030 then some (w.vstat.setWidth 64)
  else w.trapReg n

/-- Writing LSDEPTH: entries at or above a lower depth are cleared, new ones are zero (R155). -/
def Wave.setDepth (w : Wave) (n : Nat) : Wave := { w with ls := (w.ls ++ copies 4 (LoopEntry.mk 0 0 0)).take n }

/-- Change entry `i` of the loop stack; at or above LSDEPTH the write is ignored (R155). -/
def Wave.modLs (w : Wave) (i : Nat) (f : LoopEntry → LoopEntry) : Wave :=
  if i < w.ls.length then { w with ls := w.ls.set i (f (w.lsEntry i)) } else w

/-- Change the trap state. -/
def Wave.modTrap (w : Wave) (f : TrapState → TrapState) : Wave := { w with trap := f w.trap }

/-- The wave after `mts` of a value (R154, R462); none where the write is illegal: a number that is not assigned, a
read-only register, an RW-H register outside a handler, or LSDEPTH above 4. -/
def Wave.special (w : Wave) (n : Nat) (x : Word) : Option Wave :=
  if n = 0x030 then some { w with vstat := if x.getLsbD 0 then 1 else 0 }
  else if !w.inHandler then none
  else if n = 0x011 then some { w with budget := x.setWidth 32 }
  else if n = 0x018 then (if Bits.of x 2 0 ≤ 4 then some (w.setDepth (Bits.of x 2 0)) else none)
  else if 0x020 ≤ n ∧ n < 0x024 then some (w.modLs (n - 0x020) fun e => { e with start := x })
  else if 0x024 ≤ n ∧ n < 0x028 then some (w.modLs (n - 0x024) fun e => { e with fin := x })
  else if 0x028 ≤ n ∧ n < 0x02c then some (w.modLs (n - 0x028) fun e => { e with count := x })
  else if n = 0x104 then some (w.modTrap fun t => { t with haddr := x, haddrWritten := true })
  else if n = 0x106 then some (w.modTrap fun t => { t with next := x.setWidth 4 })
  else if 0x110 ≤ n ∧ n < 0x120 then some (w.modTrap fun t => { t with done := t.done.set (n - 0x110) (x.setWidth 32) })
  else if 0x120 ≤ n ∧ n < 0x124 then
    let sh := 64 * (n - 0x120)
    let ones : BitVec 256 := BitVec.ofNat 256 (2 ^ 64 - 1) <<< sh
    some { w with tfev := (w.tfev &&& ~~~ones) ||| (x.setWidth 256 <<< sh) }
  else none

/-- A value of register `n` as an instruction with the destination s`d` reads it: it emptied its destination at its
issue, which TFES shows (R80, R462; log 33). -/
def ownEmpty (d n : Nat) (x : Word) : Word :=
  if n = 0x124 + d / 64 then x &&& ~~~(BitVec.twoPow 64 (d % 64)) else x

/-- `mfs` (R154). -/
def execMfs (d : BitVec 7) (n : BitVec 10) (s : State) : Out :=
  let v := s.special n.toNat
  .next (s.issue ((Check.need v.isSome).andThen (s.wave.scalarCheck [] [d.toNat])) fun s =>
    s.modWave fun w => (w.setS d.toNat (ownEmpty d.toNat n.toNat (v.getD 0))).retire 1)

/-- `mts` (R154): a value that makes the write illegal is known once sA is full. -/
def execMts (a : BitVec 7) (n : BitVec 10) (s : State) : Out :=
  .next (s.issue ((Check.need (s.wave.special n.toNat 0).isSome).andThen (s.wave.scalarCheck [a.toNat] [])) fun s =>
    match s.wave.special n.toNat (s.wave.sreg a.toNat) with
    | none => s.illegal
    | some w => s.setWave (w.retire 1))

/-! ### Barriers (R156 to R159) -/

/-- The scope is within the kernel's recorded scope (R32, R477: 0 for no barrier, 1 to 6 for `.lane` to `.pod`). -/
def State.barOk (s : State) (scope : Nat) : Bool := decide (scope < s.myLaunch.kernel.bscope)

/-- The end of a barrier or of a wait is an acquire: at `.quad` or wider the core's L1 is emptied (R157, R277). -/
def State.acquire (s : State) (scope : Nat) : State := if 2 ≤ scope then s.emptyL1 s.wave.core else s

/-- Wait at a scoped barrier: the wave arrives once its earlier GEN accesses are performed at the scope, and goes on when
the barrier's phase has passed (R30, R157). -/
def State.barWait (s : State) (scope : Nat) : State :=
  let w := s.wave
  match w.waiting with
  | some (.bar _ ph) =>
    if s.barPhase w.gang w.wg scope = ph then s.block else (s.retire 1).acquire scope
  | _ =>
    if !s.genDone s.cur scope then s.block
    else
      let ph := s.barPhase w.gang w.wg scope
      let s := (s.modWave fun w => { w with waiting := some (.bar scope ph) }).settle w.gang w.wg scope
      if s.barPhase w.gang w.wg scope = ph then s.block else (s.retire 1).acquire scope

/-- `bar` at `.lane` to `.pkg` (R156); a scope that is reserved or wider than the kernel's is illegal, and `.lane`
completes at issue. Scope 5 is `bar.pod`, which has a row of its own. -/
def execBar (n : BitVec 10) (s : State) : Out :=
  .next (s.issue (Check.need (decide (n.toNat < 5) && s.barOk n.toNat)) fun s =>
    if n = 0 then s.retire 1 else s.barWait n.toNat)

/-! ### Numbered barriers (R160 to R162) -/

/-- `nbarw`: arrive and take the token, never waiting. -/
def execNbarw (d : BitVec 7) (n : BitVec 10) (s : State) : Out :=
  .next (s.issue ((Check.need (decide (n.toNat < 16))).andThen (s.wave.scalarCheck [] [d.toNat])) fun s =>
    let w := s.wave
    let (t, s) := s.arrive w.gang w.wg n.toNat (s.openAt s.cur 2)
    s.modWave fun w => (w.setS d.toNat (t.setWidth 64)).retire 1)

/-- `nbarr`: arrive, then wait until the barrier has passed the token. -/
def execNbarr (n : BitVec 10) (s : State) : Out :=
  .next (s.issue (Check.need (decide (n.toNat < 16))) fun s =>
    let w := s.wave
    match w.waiting with
    | some (.nb _ t) => if s.nbDone w.gang w.wg n.toNat t then (s.retire 1).acquire 2 else s.block
    | _ =>
      let (t, s) := s.arrive w.gang w.wg n.toNat (s.openAt s.cur 2)
      if s.nbDone w.gang w.wg n.toNat t then (s.retire 1).acquire 2
      else (s.modWave fun w => { w with waiting := some (.nb n.toNat t) }).block)

/-- `nbwait`: wait until the barrier has passed the token in sA. -/
def execNbwait (a : BitVec 7) (n : BitVec 10) (s : State) : Out :=
  .next (s.issue ((Check.need (decide (n.toNat < 16))).andThen (s.wave.scalarCheck [a.toNat] [])) fun s =>
    let w := s.wave
    let t : BitVec 32 := (w.sreg a.toNat).setWidth 32
    if s.nbDone w.gang w.wg n.toNat t then (s.retire 1).acquire 2
    else (s.modWave fun w => { w with waiting := some (.nbwait n.toNat t) }).block)

/-- A wave waits at numbered barrier `n` of its workgroup, which has not passed. -/
def State.waitsAtNb (s : State) (w : Wave) (n : Nat) : Bool := match w.waiting with
  | some (.nb m t) => m == n && !(s.nbar w.gang w.wg n).passed t
  | some (.nbwait m t) => m == n && !(s.nbar w.gang w.wg n).passed t
  | _ => false

/-- Some party waits at a numbered barrier of a workgroup: a wave at `nbarr` or `nbwait`, or the sequencer at `mwait`. -/
def State.nbWaiters (s : State) (g wg n : Nat) : Bool :=
  (s.liveOf g).any (fun w => w.2.wg == wg && s.waitsAtNb w.2 n) ||
  (match s.seqs.find (seqKey g wg) with
    | some q => s.seqWaits q && q.waitsAt.1 == n
    | none => false)

/-- `nbinit` raises NBAR_STATE for a bad count, an arrival in progress or a waiting party (R161). -/
def execNbinit (a : BitVec 7) (n : BitVec 10) (s : State) : Out :=
  .next (s.issue ((Check.need (decide (n.toNat < 16))).andThen (s.wave.scalarCheck [a.toNat] [])) fun s =>
    let w := s.wave
    let x := (w.sreg a.toNat).toNat
    if x = 0 ∨ 255 < x ∨ (s.nbar w.gang w.wg n.toNat).count ≠ 0 ∨ s.nbWaiters w.gang w.wg n.toNat then s.trap Code.nbarState 0
    else (s.modNbar w.gang w.wg n.toNat fun b => { b with expect := x, count := 0 }).retire 1)

/-! ### Traps raised by programs (R163 to R165) -/

/-- `trap` raises SOFTWARE; the instruction is complete, so the saved position is behind it. -/
def execTrap (code : BitVec 10) (s : State) : Out :=
  .next (s.issue (Check.still (!s.unfinished s.cur)) fun s =>
    s.trapIn s.cur { code := Code.software, info := code.setWidth 64, next := some (s.wave.idx + 1) })

/-- `brk` raises BREAK; the saved position names the `brk` itself. -/
def execBrk (code : BitVec 10) (s : State) : Out := .next (s.issue .go fun s => s.trap Code.break_ (code.setWidth 64))

/-- `rft` returns from a trap handler (R461); it is a control transfer and illegal outside a handler. The return from
MTX_FAULT lets the sequencer go on or stops it (R381). -/
def execRft (s : State) : Out :=
  .next (s.issue (Check.need (s.wave.endsClause 1 && s.wave.inHandler)) fun s =>
    let w := s.wave
    let s := s.modWave (·.returnTrap)
    if Bits.of w.trap.cause 7 0 = Code.mtxFault.toNat then s.seqReturn (seqKey w.gang w.wg) else s)

/-! ### Pre-emption hints (R166 to R168) -/

/-- The scalar and vector registers that the maps of a `phint` name, within the wave's allocation. -/
def Wave.namedS (w : Wave) (smap : BitVec 16) : List Nat := (List.range w.sregN).filter fun i => smap.getLsbD (i / 8)
def Wave.namedV (w : Wave) (vmap : BitVec 32) : List Nat := (List.range w.vregN).filter fun i => vmap.getLsbD (i / 8)

/-- A vault range that a `phint` names: a length beyond the allocation names the whole allocation (R166). -/
def State.hintRange (s : State) (ap : BitVec 6) (j : Nat) : Nat × Nat :=
  let w := s.wave
  let size := s.myGang.vaultSize
  let off := (w.sreg (2 * ap.toNat + 2 * j)).toNat
  let len := (w.sreg (2 * ap.toNat + 2 * j + 1)).toNat
  if size < len then (0, size) else (off % size, len)

/-- `phint`: without a pending save only its range registers are read; with one, the wave stops behind it once the named
registers are full (R167). A wave in a handler does not stop (R466). -/
def execPhint (nm : BitVec 2) (ap : BitVec 6) (smap : BitVec 16) (vmap : BitVec 32) (s : State) : Out :=
  let regs := (List.range (2 * nm.toNat)).map (2 * ap.toNat + ·)
  .next (s.issue ((Check.need (decide (nm.toNat ≠ 3))).andThen (s.wave.scalarCheck regs [])) fun s =>
    let w := s.wave
    if s.myGang.saveAt.isNone || w.inHandler then s.retire 2
    else if !((w.namedS smap).all w.sFull && (w.namedV vmap).all w.vFull) then s.block
    else
      let rs := (List.range nm.toNat).map (s.hintRange ap)
      let s := s.modGang w.gang fun g => { g with phintRanges := g.phintRanges ++ rs }
      (s.retire 2).modWave fun w => { w with status := .saved, saveMap := some (smap, vmap) })

end Sys2Proof.Machine
end

