-- ==== Sys2Proof/Machine/Memory.lean ====
section
/-!
DEFINITION. Memory-class instructions (10_memory_instructions.md, R242 to R267): loads, stores, atomics, reductions,
sequence counters, arrival waits, fences and prefetch.
-/
namespace Sys2Proof.Machine

/-! ### Issue (R67, R255) -/

/-- Issue a memory-class instruction: it waits for the wave's open acquires, and behind an atomic that the wave still
waits for (R257). Of these waits only that behind a parked request counts toward the stall limit (R49, R465). -/
def State.memory (s : State) (legal : Bool) (srcs dsts : List Opnd) (eff : State → State) : Out :=
  match s.wave.waiting with
  | some (.atomic id) => .next (if !s.wave.canIssue then s else if (s.opAt id).any (·.isParked) then s.block else s.hold)
  | _ => .next (s.issue ((s.wave.opndCheck legal srcs dsts).andThen (Check.still !s.acqOpen)) eff)

/-- The acquire and release scopes of an instruction's fields. -/
def MArgs.acqScope (x : MArgs) : Option Nat := if x.acq then some x.scope else none
def MArgs.relScope (x : MArgs) : Option Nat := if x.rel then some x.scope else none

/-- The address of a direct form: S[A] plus the offset in units of `u` bytes (R74). -/
def Wave.direct (w : Wave) (a : BitVec 7) (u : Nat) (off : BitVec 9) : Word :=
  w.sreg a.toNat + BitVec.ofNat 64 u * off.signExtend 64

/-- The address of lane `l` of an indexed form (R242): the index register, the base, and the scale. -/
def Wave.indexed (w : Wave) (a : BitVec 7) (x : Nat) (scale : Nat) (l : Nat) : Word :=
  w.sreg a.toNat + BitVec.ofNat 64 scale * (w.lane x l).signExtend 64

/-- The block elements of an instruction, with 4r + c. -/
def MArgs.elems (x : MArgs) : List (Nat × Nat × Nat) := (extent x.h x.w).map fun e => (4 * e.1 + e.2, e.1, e.2)

/-- The lanes that take part. -/
def Wave.lanesOf (w : Wave) (p : Nat) : List Nat := (List.range 32).filter (w.takes p)

/-! ### Scalar loads and stores (R247) -/

/-- A scalar load of `n` bytes. -/
def State.sld (s : State) (x : MArgs) (n : Nat) (sgn : Bool) (d a : BitVec 7) (off : BitVec 9) : Out :=
  s.memory x.scopeOk [(sOp a.toNat 0).fe x.fe] [sOp d.toNat] fun s =>
    let va := (s.wave.direct a n off).toNat
    s.virt .load (x.acq || x.rel)
      { path := .gen, vec := false, tracker := false, atomic := false, fill := .scalar d.toNat n sgn, len := x.len,
        acq := x.acqScope, rel := x.relScope, rlx := x.rlx } [⟨0, 0, va, n, .read⟩]

/-- A scalar store of the low `n` bytes of S[D]. -/
def State.sst (s : State) (x : MArgs) (n : Nat) (d a : BitVec 7) (off : BitVec 9) : Out :=
  s.memory x.scopeOk [(sOp a.toNat 0).fe x.fe, (sOp d.toNat 2).fe x.fe] [] fun s =>
    let va := (s.wave.direct a n off).toNat
    s.virt .store (x.acq || x.rel)
      { path := .gen, vec := false, tracker := true, atomic := false, fill := .none, len := x.len, acq := x.acqScope,
        rel := x.relScope, rlx := x.rlx } [⟨0, 0, va, n, .write (toBytes n (s.wave.sreg d.toNat).toNat)⟩]

/-! ### Vector loads and stores on virtual memory (R248, R249) -/

/-- Where the element accesses of a vector form lie: element width, and the address of element (r, c), lane l. -/
structure VAddr where
  w : Nat
  at_ : Wave → (r c l : Nat) → Word

/-- The address of a block form (R10, R242). -/
def blockAddr (a : BitVec 7) (off : BitVec 9) : VAddr :=
  ⟨4, fun w r c l => w.direct a 128 off + BitVec.ofNat 64 (128 * (16 * r + c) + 4 * l)⟩

/-- The address of an indexed form. -/
def indexAddr (a : BitVec 7) (sc : Bool) (xr : BitVec 8) (w : Nat) : VAddr :=
  ⟨w, fun v r c l => v.indexed a (blockReg xr.toNat r c) (if sc then w else 1) l⟩

/-- The element accesses of a vector form, in the order of R248, for the lanes that `skip` leaves. -/
def Wave.vreqs (w : Wave) (x : MArgs) (va : VAddr) (skip : Nat → Nat → Bool) (act : Wave → (r c l : Nat) → ReqAct) : List Req :=
  x.elems.flatMap fun e =>
    ((w.lanesOf x.pred).filter fun l => !skip e.1 l).map fun l =>
      ⟨e.1, l, (va.at_ w e.2.1 e.2.2 l).toNat, va.w, act w e.2.1 e.2.2 l⟩

/-- The registers that a vector load fills, and the place of each returned element in its data. -/
def vfill (x : MArgs) (d : BitVec 8) (w : Nat) (sgn : Bool) (rs : List Req) : Fill :=
  .vector (x.elems.map fun e => (e.1, blockReg d.toNat e.2.1 e.2.2))
    ((List.zip (List.range rs.length) rs).map fun p => (p.2.e, p.2.lane, p.1 * w, w, sgn))

/-- No lane is left out. -/
def noSkip (_ _ : Nat) : Bool := false

/-- A vector load. Its registers are `d`'s block; with no lane taking part they fill at once (R18). -/
def State.vload (s : State) (x : MArgs) (legal : Bool) (k : Need) (sgn : Bool) (srcs : List Opnd) (d : BitVec 8) (va : VAddr) : Out :=
  s.memory (legal && x.scopeOk) srcs [vOp (blockRegs x.h x.w d.toNat)] fun s =>
    let rs := s.wave.vreqs x va noSkip fun _ _ _ _ => .read
    let ro := k == .roLoad
    s.virt k (x.acq || (x.rel && !ro))
      { path := if ro then .ro else .gen, vec := true, tracker := false, atomic := false, fill := vfill x d va.w sgn rs,
        len := x.len, acq := x.acqScope, rel := if ro then none else x.relScope, rlx := x.rlx } rs

/-- A vector store. -/
def State.vstore (s : State) (x : MArgs) (legal : Bool) (srcs : List Opnd) (d : BitVec 8) (va : VAddr) : Out :=
  s.memory (legal && x.scopeOk) (srcs ++ [(vOp (blockRegs x.h x.w d.toNat) 2).fe x.fe]) [] fun s =>
    let rs := s.wave.vreqs x va noSkip fun w r c l => .write (toBytes va.w (w.lane (blockReg d.toNat r c) l).toNat)
    s.virt .store (x.acq || x.rel)
      { path := .gen, vec := true, tracker := true, atomic := false, fill := .none, len := x.len, acq := x.acqScope,
        rel := x.relScope, rlx := x.rlx } rs

/-- The base operand of a memory form. -/
def MArgs.base (x : MArgs) (a : BitVec 7) : Opnd := (sOp a.toNat 0).fe x.fe

/-- The index operand of an indexed form. -/
def MArgs.index (x : MArgs) (xr : BitVec 8) : Opnd := (vOp (blockRegs x.h x.w xr.toNat) 1).fe x.fe

/-- The element format of `vldx`, `vstx` and `vldrox`: width in bytes and sign (R242, R248). -/
def moveFmt (code : Nat) : Option (Nat × Bool) :=
  if code = 0 then some (4, false)
  else match eType code with
    | some (.int g w) => some (w / 8, g)
    | some (.flt f) => some (f.width / 8, false)
    | none => none

def State.vldOp (s : State) (x : MArgs) (d : BitVec 8) (a : BitVec 7) (off : BitVec 9) : Out :=
  s.vload x true .load false [x.base a] d (blockAddr a off)

def State.vstOp (s : State) (x : MArgs) (d : BitVec 8) (a : BitVec 7) (off : BitVec 9) : Out :=
  s.vstore x true [x.base a] d (blockAddr a off)

def State.vldxOp (s : State) (x : MArgs) (d : BitVec 8) (a : BitVec 7) (sc : Bool) (xr : BitVec 8) : Out :=
  let f := moveFmt x.fmt
  let (w, g) := f.getD (4, false)
  s.vload x f.isSome .load g [x.base a, x.index xr] d (indexAddr a sc xr w)

def State.vstxOp (s : State) (x : MArgs) (d : BitVec 8) (a : BitVec 7) (sc : Bool) (xr : BitVec 8) : Out :=
  let f := moveFmt x.fmt
  s.vstore x f.isSome [x.base a, x.index xr] d (indexAddr a sc xr (f.getD (4, false)).1)

/-- With ACQ, drop from the read-only cache every line that a read-only load reads, so that each is fetched again
(R249). -/
def State.roAgain (s : State) (x : MArgs) (va : VAddr) : State :=
  if !x.acq || s.acqOpen then s
  else
    let asid := s.myGang.asid
    let lines := (s.wave.vreqs x va noSkip fun _ _ _ _ => .read).flatMap fun r => [r.va, r.va + r.w - 1].filterMap fun a =>
      match s.trans asid a with
      | .ok p n => some (lineOf (ptePa p n a))
      | _ => none
    let core := s.wave.core
    { s with ro := s.ro.filter fun l => l.core != core || !lines.contains l.line }

def State.vldroOp (s : State) (x : MArgs) (d : BitVec 8) (a : BitVec 7) (off : BitVec 9) : Out :=
  (s.roAgain x (blockAddr a off)).vload x true .roLoad false [x.base a] d (blockAddr a off)

def State.vldroxOp (s : State) (x : MArgs) (d : BitVec 8) (a : BitVec 7) (sc : Bool) (xr : BitVec 8) : Out :=
  let f := moveFmt x.fmt
  let (w, g) := f.getD (4, false)
  (s.roAgain x (indexAddr a sc xr w)).vload x f.isSome .roLoad g [x.base a, x.index xr] d (indexAddr a sc xr w)

/-! ### Vault forms (R213 to R217, R251) -/

/-- Where a vault word lies for the wave whose turn it is (R214 to R216). -/
def State.vaultPlace (s : State) (write : Bool) (a : Word) : Place :=
  s.vaultAt s.wave.gang write a

/-- The accesses of a vault form. -/
def State.vaultAccs (s : State) (write : Bool) (rs : List Req) : List Acc :=
  (List.zip (List.range rs.length) rs).map fun p =>
    ⟨s.vaultPlace write (BitVec.ofNat 64 p.2.va), p.2.va, false, false, p.2.kind 0 4 (4 * p.1), none⟩

def anyUngranted (l : List Acc) : Bool := l.any fun a => a.at_ == .ungranted

def State.vldvOp (s : State) (x : MArgs) (srcs : List Opnd) (d : BitVec 8) (va : VAddr) : Out :=
  s.memory x.scopeOk srcs [vOp (blockRegs x.h x.w d.toNat)] fun s =>
    let rs := s.wave.vreqs x va noSkip fun _ _ _ _ => .read
    let acc := s.vaultAccs false rs
    if x.rel && !s.genDone s.cur x.scope then s.hold
    else s.issueVault { path := .gen, vec := true, tracker := false, atomic := false, fill := vfill x d 4 false rs,
                        len := x.len, acq := x.acqScope, rel := none, rlx := false } acc (anyUngranted acc)

def State.vstvOp (s : State) (x : MArgs) (srcs : List Opnd) (d : BitVec 8) (va : VAddr) : Out :=
  s.memory x.scopeOk (srcs ++ [(vOp (blockRegs x.h x.w d.toNat) 2).fe x.fe]) [] fun s =>
    let rs := s.wave.vreqs x va noSkip fun w r c l => .write (toBytes 4 (w.lane (blockReg d.toNat r c) l).toNat)
    let acc := s.vaultAccs true rs
    s.issueVault { path := .gen, vec := true, tracker := true, atomic := false, fill := .none, len := x.len,
                   acq := x.acqScope, rel := x.relScope, rlx := false } acc (anyUngranted acc)

/-! ### The stash store (R252) -/

/-- `vsts`: the plain and the transposed copy are one store, checked over the 8 KiB from T. -/
def State.vstsOp (s : State) (x : MArgs) (d : BitVec 8) (a : BitVec 7) (off : BitVec 9) : Out :=
  s.memory x.scopeOk [x.base a, (vOp (blockRegs x.h x.w d.toNat) 2).fe x.fe] [] fun s =>
    let w := s.wave
    let b := (w.direct a 128 off).toNat
    let t := b / 4096 * 4096
    let row (r c : Nat) : Nat := b % 4096 / 128 + 16 * r + c
    let lanes := w.lanesOf x.pred
    let bad := x.elems.filter fun e => 32 ≤ row e.2.1 e.2.2
    let data (r c l : Nat) : List Byte := toBytes 4 (w.lane (blockReg d.toNat r c) l).toNat
    let rs := x.elems.flatMap fun e => lanes.flatMap fun l =>
      let i := row e.2.1 e.2.2
      [⟨e.1, l, t + 128 * i + 4 * l, 4, .write (data e.2.1 e.2.2 l)⟩,
       ⟨e.1, l, t + 4096 + 128 * l + 4 * i, 4, .write (data e.2.1 e.2.2 l)⟩]
    if b % 128 ≠ 0 then s.trapAt Code.align b true
    else match bad with
      | e :: _ => s.trapAt Code.align (t + 128 * row e.2.1 e.2.2) true
      | [] =>
        s.virt .store (x.acq || x.rel)
          { path := .gen, vec := true, tracker := true, atomic := false, fill := .none, len := x.len, acq := x.acqScope,
            rel := x.relScope, rlx := x.rlx } rs (if rs.isEmpty then [] else [(t, 8192, 1)])

/-! ### Atomics with return (R253 to R257) -/

/-- The lanes that an earlier issue has done (R257, R461). -/
def Wave.doneLane (w : Wave) (e l : Nat) : Bool := match w.redo with
  | some m => bitAt (m.get 0 e).toNat l
  | none => false

/-- A vector atomic: `op` gives each lane's operation; `cas` adds the registers of the new values. -/
def State.vatomic (s : State) (x : MArgs) (legal cas : Bool) (d : BitVec 8) (a : BitVec 7) (sc : Bool) (xr : BitVec 8)
    (op : Wave → (reg l : Nat) → Rmw) : Out :=
  let regs := blockRegs x.h x.w d.toNat
  let dops := [(vOp regs 2).fe x.fe] ++ (if cas then [(vOp (regs.map (· + 1)) 2).fe x.fe] else [])
  let ok := legal && x.scopeOk && (!cas || regs.all fun r => r % 16 != 15)
  s.memory ok ([x.base a, x.index xr] ++ dops) [vOp regs] fun s =>
    let va := indexAddr a sc xr 4
    let rs := s.wave.vreqs x va s.wave.doneLane fun w r c l =>
      .rmw (op w (blockReg d.toNat r c) l) ((w.lane (blockReg d.toNat r c) l).setWidth 64)
    s.virt .atomic true
      { path := .gen, vec := true, tracker := false, atomic := true, fill := vfill x d 4 false rs, len := x.len,
        acq := x.acqScope, rel := x.relScope, rlx := x.rlx } rs

/-- FMT8 codes of the integer and of the floating atomics: the code lies in the set. -/
def MArgs.intFmt (x : MArgs) : Bool := decide (x.fmt ≤ 2)
def MArgs.floatFmt (x : MArgs) : Bool := x.fmt == 0 || x.fmt == 3

/-- Minimum and maximum are signed but under `.n32`. -/
def MArgs.minOp (x : MArgs) : Rmw := if x.fmt = 2 then .minU else .minS
def MArgs.maxOp (x : MArgs) : Rmw := if x.fmt = 2 then .maxU else .maxS

/-- A scalar atomic on a word of the width that FMT8 names (R256). -/
def State.satomic (s : State) (x : MArgs) (cas : Bool) (d a : BitVec 7) (off : BitVec 9) : Out :=
  let n := if x.fmt = 0 then 8 else 4
  let dops := [(sOp d.toNat 2).fe x.fe] ++ (if cas then [(sOp (d.toNat + 1) 2).fe x.fe] else [])
  s.memory (x.scopeOk && x.intFmt && !(cas && d == 127)) ([x.base a] ++ dops) [sOp d.toNat] fun s =>
    let w := s.wave
    let op : Rmw := if cas then .cas (w.sreg (d.toNat + 1)) else .add
    let rs : List Req := if w.doneLane 0 0 then [] else [⟨0, 0, (w.direct a n off).toNat, n, .rmw op (w.sreg d.toNat)⟩]
    s.virt .atomic true
      { path := .gen, vec := false, tracker := false, atomic := true, fill := .scalar d.toNat n (x.fmt == 1), len := x.len,
        acq := x.acqScope, rel := x.relScope, rlx := x.rlx } rs

/-! ### Reductions and sequence counters (R258 to R260) -/

/-- A reduction: element width and operation. -/
def State.vred (s : State) (x : MArgs) (legal : Bool) (n : Nat) (op : Rmw) (d : BitVec 8) (a : BitVec 7) (sc : Bool)
    (xr : BitVec 8) : Out :=
  s.memory (legal && x.scopeOk) [x.base a, x.index xr, (vOp (blockRegs x.h x.w d.toNat) 2).fe x.fe] [] fun s =>
    let rs := s.wave.vreqs x (indexAddr a sc xr n) noSkip fun w r c l => .rmw op ((w.lane (blockReg d.toNat r c) l).setWidth 64)
    s.virt .atomic true
      { path := .gen, vec := true, tracker := true, atomic := false, fill := .none, len := x.len, acq := x.acqScope,
        rel := x.relScope, rlx := x.rlx } rs

/-- `vredfadd`: reduce mode for FP32, an FP32 shadow for BF16 and binary8 (R258). -/
def State.vredfaddOp (s : State) (x : MArgs) (d : BitVec 8) (a : BitVec 7) (sc : Bool) (xr : BitVec 8) : Out :=
  let code : BitVec 8 := BitVec.ofNat 8 x.fmt
  if x.floatFmt then s.vred x true 4 .redFadd d a sc xr
  else if x.fmt = 7 then s.vred x true 2 (.shadow code) d a sc xr
  else s.vred x (decide (0x40 ≤ x.fmt) && (eType x.fmt).isSome) 1 (.shadow code) d a sc xr

/-- `sseqadd` is always a release at `.pkg` (R260). -/
def State.sseqaddOp (s : State) (x : MArgs) (d a : BitVec 7) (off : BitVec 9) : Out :=
  s.memory true [x.base a, (sOp d.toNat 2).fe x.fe] [] fun s =>
    let va := (s.wave.direct a 8 off).toNat
    let pa := match s.trans s.myGang.asid va with
      | .ok p n => some (ptePa p n va)
      | _ => none
    s.virt .counter true
      { path := .gen, vec := false, tracker := true, atomic := false, fill := .none, len := x.len, acq := none,
        rel := some 4, rlx := false, seqctr := pa } [⟨0, 0, va, 8, .rmw .seqAdd (s.wave.sreg d.toNat)⟩]

/-! ### Arrival words (R261) -/

/-- The 64-bit arrival word at a vault offset of a gang's own allocation, zero without one; and whether a failing line of the SRAM die holds
a part of it, whose value is open (R267). -/
def State.arrivalWord (s : State) (g off : Nat) : Word × Bool :=
  let gg := s.gang g
  if gg.vaultSize = 0 then (0, false)
  else
    let bad (o : Nat) : Bool := s.badVault.contains (g, o % gg.vaultSize / 128)
    let part (o : Nat) : List Byte := if bad o then s.openBytes o 4 else Memory.read gg.vault (o % gg.vaultSize) 4
    (BitVec.ofNat 64 (fromBytes (part off ++ part (off + 4))), bad off || bad (off + 4))

/-- `sarwait` blocks until the word is at least S[D]; its end is an acquire at `.pkg`. A gang without an allocation
reads zero there, and sets VSTAT bit 0 (R216). ACQ, REL and SCOPE of the long form are ignored, whatever they hold: the model's choice
(log 90). -/
def State.sarwaitOp (s : State) (x : MArgs) (d a : BitVec 7) (off : BitVec 9) : Out :=
  s.memory true [x.base a, (sOp d.toNat 2).fe x.fe] [] fun s =>
    let s := s.passAcqs
    let w := s.wave
    let o := Bits.of (w.direct a 8 off) 23 2 * 4
    let s := if s.myGang.vaultSize = 0 then s.modWave fun w => { w with vstat := w.vstat ||| 1 } else s
    let v := s.arrivalWord w.gang o
    if (w.sreg d.toNat).toNat ≤ v.1.toNat then
      let s := if v.2 then s.impFault s.cur w.waveid w.gang Code.uncorr w.here else s
      (s.retire x.len).acquire 4
    else s.block

/-! ### Fences (R262, R263) -/

/-- The paths of a fence name a path; no path is GEN alone (R76). -/
def fencePath (paths : BitVec 8) (i : Nat) : Bool := if paths = 0 then i == 0 else paths.getLsbD i

/-- Every engine command of the wave on the named engine paths is complete. -/
def State.fenceEngines (s : State) (paths : BitVec 8) : Bool :=
  let w := s.cur
  (!fencePath paths 2 || s.engDone w 3) && (!fencePath paths 4 || s.engDone w 2) && (!fencePath paths 5 || s.engDone w 1) &&
    (!fencePath paths 6 || s.engDone w 4) && (!fencePath paths 7 || s.engDone w 5)

/-- Every operation on the named paths is performed at a scope. -/
def State.fenceFull (s : State) (paths : BitVec 8) (scope : Nat) : Bool :=
  let w := s.wave
  (!fencePath paths 0 || s.genDone s.cur scope) && (!fencePath paths 1 || s.roDone s.cur) &&
    (!fencePath paths 3 || s.mtxDone w.gang w.wg) && (!fencePath paths 7 || s.fabDone s.cur) && s.fenceEngines paths

/-- Every read on the named paths is performed. -/
def State.fenceReads (s : State) (paths : BitVec 8) : Bool :=
  let w := s.cur
  (!fencePath paths 0 || s.genReadsDone w) && (!fencePath paths 1 || s.roDone w) &&
    (!fencePath paths 7 || s.fabReadsDone w) && s.fenceEngines paths

/-- Begin the flush of every REDUCE line that holds an addition of the wave (R263). -/
def State.flushMine (s : State) : State :=
  (s.reduce.filter fun r => r.waves.contains s.cur).foldl (fun s r => s.startFlush r.line) s

/-- Flushes with an addition of the wave that have begun are all applied. -/
def State.flushedMine (s : State) : Bool := s.flushQ.all fun r => !r.waves.contains s.cur

/-- The end of a full or acquire fence: L1 and, where RO is named, the read-only cache are dropped (R262, R277). -/
def State.fenceAcquire (s : State) (paths : BitVec 8) (scope : Nat) : State :=
  let s := s.acquire scope
  if fencePath paths 1 then s.dropRo s.wave.core else s

/-- A full or release fence. -/
def State.fenceRelease (s : State) (paths : BitVec 8) (scope : Nat) (acq : Bool) : State :=
  let s := s.passAcqs
  if !s.fenceFull paths scope then s.hold
  else
    let pkg := scope == 4 && fencePath paths 0
    let s := if pkg then s.flushMine else s
    if pkg && !s.flushedMine then s.hold
    else if acq then (s.fenceAcquire paths scope).retire 1 else s.retire 1

def execFence (paths : BitVec 8) (scope : BitVec 3) (s : State) : Out :=
  s.memory (decide (scope.toNat ≤ 4)) [] [] fun s => s.fenceRelease paths scope.toNat true

def execFenceRel (paths : BitVec 8) (scope : BitVec 3) (s : State) : Out :=
  s.memory (decide (scope.toNat ≤ 4)) [] [] fun s => s.fenceRelease paths scope.toNat false

def execFenceAcq (paths : BitVec 8) (scope : BitVec 3) (s : State) : Out :=
  s.memory (decide (scope.toNat ≤ 4)) [] [] fun s =>
    let s := s.passAcqs
    if s.fenceReads paths then (s.fenceAcquire paths scope.toNat).retire 1 else s.hold

/-- `roinv` drops the core's read-only cache (R250). -/
def execRoinv (s : State) : Out := s.memory true [] [] fun s => (s.passAcqs.dropRo s.wave.core).retire 1

/-! ### Prefetch (R264) -/

/-- The line that a prefetch may fetch an address from: a sound line of local memory that is cached, on a page with R. A translation that
the core's TLB does not hold is walked for at once (log 81). -/
def State.prefPa (s : State) (va : Nat) : Option Nat :=
  let t := match s.trans s.myGang.asid va with
    | .ok p n => some (p, n)
    | .fault _ => none
    | .miss => (s.transNow s.myGang.asid va).toOption
  match t with
  | none => none
  | some (p, n) =>
    let pa := ptePa p n va
    if !pteR p || pteRmt p || pteMt p != 0 || decide (hostBase ≤ pa) || (s.bad.find (lineOf pa)).isSome then none else some pa

/-- Fetch a line into the L2 and the core's L1. -/
def State.prefLine (s : State) (pa : Nat) : State :=
  let core := s.wave.core
  let s := s.clean (lineOf pa)
  if s.l1.any fun x => x.core == core && x.line == lineOf pa then s else s.l1Fill core (lineOf pa)

/-- Fetch the lines of `n` bytes, unless one of them is skipped. -/
def State.prefetch (s : State) (va n : Nat) : State :=
  match s.prefPa va, s.prefPa (va + n - 1) with
  | some a, some b => if lineOf a = lineOf b then s.prefLine a else (s.prefLine a).prefLine b
  | _, _ => s

/-- `vpref`: the rows that a `vld` with the same fields would read. -/
def execVpref (a : BitVec 7) (off : BitVec 9) (s : State) : Out :=
  let x := s.wave.memCompact
  s.memory true [sOp a.toNat 0] [] fun s =>
    let s := s.passAcqs
    let w := s.wave
    let rows := if (w.lanesOf x.pred).isEmpty then [] else x.elems.map fun e =>
      (w.direct a 128 off + BitVec.ofNat 64 (128 * (16 * e.2.1 + e.2.2))).toNat
    (rows.foldl (fun s r => s.prefetch r 128) s).retire 1

/-- `spref`. -/
def execSpref (a : BitVec 7) (off : BitVec 9) (s : State) : Out :=
  s.memory true [sOp a.toNat 0] [] fun s =>
    let s := s.passAcqs
    (s.prefetch (s.wave.direct a 8 off).toNat 1).retire 1

/-! ### The compact forms and their long twins (R91) -/

def execSldN8 (d a : BitVec 7) (off : BitVec 9) (s : State) : Out :=
  let m := s.wave.memCompact
  s.sld m 1 false d a off
def execSldN8Long (d a : BitVec 7) (off : BitVec 9) (l : ML) (s : State) : Out :=
  let m := memLong l
  s.sld m 1 false d a off
def execSldI8 (d a : BitVec 7) (off : BitVec 9) (s : State) : Out :=
  let m := s.wave.memCompact
  s.sld m 1 true d a off
def execSldI8Long (d a : BitVec 7) (off : BitVec 9) (l : ML) (s : State) : Out :=
  let m := memLong l
  s.sld m 1 true d a off
def execSldN16 (d a : BitVec 7) (off : BitVec 9) (s : State) : Out :=
  let m := s.wave.memCompact
  s.sld m 2 false d a off
def execSldN16Long (d a : BitVec 7) (off : BitVec 9) (l : ML) (s : State) : Out :=
  let m := memLong l
  s.sld m 2 false d a off
def execSldI16 (d a : BitVec 7) (off : BitVec 9) (s : State) : Out :=
  let m := s.wave.memCompact
  s.sld m 2 true d a off
def execSldI16Long (d a : BitVec 7) (off : BitVec 9) (l : ML) (s : State) : Out :=
  let m := memLong l
  s.sld m 2 true d a off
def execSldN32 (d a : BitVec 7) (off : BitVec 9) (s : State) : Out :=
  let m := s.wave.memCompact
  s.sld m 4 false d a off
def execSldN32Long (d a : BitVec 7) (off : BitVec 9) (l : ML) (s : State) : Out :=
  let m := memLong l
  s.sld m 4 false d a off
def execSldI32 (d a : BitVec 7) (off : BitVec 9) (s : State) : Out :=
  let m := s.wave.memCompact
  s.sld m 4 true d a off
def execSldI32Long (d a : BitVec 7) (off : BitVec 9) (l : ML) (s : State) : Out :=
  let m := memLong l
  s.sld m 4 true d a off
def execSldN64 (d a : BitVec 7) (off : BitVec 9) (s : State) : Out :=
  let m := s.wave.memCompact
  s.sld m 8 false d a off
def execSldN64Long (d a : BitVec 7) (off : BitVec 9) (l : ML) (s : State) : Out :=
  let m := memLong l
  s.sld m 8 false d a off
def execSstN8 (d a : BitVec 7) (off : BitVec 9) (s : State) : Out :=
  let m := s.wave.memCompact
  s.sst m 1 d a off
def execSstN8Long (d a : BitVec 7) (off : BitVec 9) (l : ML) (s : State) : Out :=
  let m := memLong l
  s.sst m 1 d a off
def execSstN16 (d a : BitVec 7) (off : BitVec 9) (s : State) : Out :=
  let m := s.wave.memCompact
  s.sst m 2 d a off
def execSstN16Long (d a : BitVec 7) (off : BitVec 9) (l : ML) (s : State) : Out :=
  let m := memLong l
  s.sst m 2 d a off
def execSstN32 (d a : BitVec 7) (off : BitVec 9) (s : State) : Out :=
  let m := s.wave.memCompact
  s.sst m 4 d a off
def execSstN32Long (d a : BitVec 7) (off : BitVec 9) (l : ML) (s : State) : Out :=
  let m := memLong l
  s.sst m 4 d a off
def execSstN64 (d a : BitVec 7) (off : BitVec 9) (s : State) : Out :=
  let m := s.wave.memCompact
  s.sst m 8 d a off
def execSstN64Long (d a : BitVec 7) (off : BitVec 9) (l : ML) (s : State) : Out :=
  let m := memLong l
  s.sst m 8 d a off
def execVld (d : BitVec 8) (a : BitVec 7) (off : BitVec 9) (s : State) : Out :=
  let m := s.wave.memCompact
  s.vldOp m d a off
def execVldLong (d : BitVec 8) (a : BitVec 7) (off : BitVec 9) (l : ML) (s : State) : Out :=
  let m := memLong l
  s.vldOp m d a off
def execVst (d : BitVec 8) (a : BitVec 7) (off : BitVec 9) (s : State) : Out :=
  let m := s.wave.memCompact
  s.vstOp m d a off
def execVstLong (d : BitVec 8) (a : BitVec 7) (off : BitVec 9) (l : ML) (s : State) : Out :=
  let m := memLong l
  s.vstOp m d a off
def execVldx (d : BitVec 8) (a : BitVec 7) (sc : Bool) (xr : BitVec 8) (s : State) : Out :=
  let m := s.wave.memCompact
  s.vldxOp m d a sc xr
def execVldxLong (d : BitVec 8) (a : BitVec 7) (sc : Bool) (xr : BitVec 8) (l : ML) (s : State) : Out :=
  let m := memLong l
  s.vldxOp m d a sc xr
def execVstx (d : BitVec 8) (a : BitVec 7) (sc : Bool) (xr : BitVec 8) (s : State) : Out :=
  let m := s.wave.memCompact
  s.vstxOp m d a sc xr
def execVstxLong (d : BitVec 8) (a : BitVec 7) (sc : Bool) (xr : BitVec 8) (l : ML) (s : State) : Out :=
  let m := memLong l
  s.vstxOp m d a sc xr
def execVldro (d : BitVec 8) (a : BitVec 7) (off : BitVec 9) (s : State) : Out :=
  let m := s.wave.memCompact
  s.vldroOp m d a off
def execVldroLong (d : BitVec 8) (a : BitVec 7) (off : BitVec 9) (l : ML) (s : State) : Out :=
  let m := memLong l
  s.vldroOp m d a off
def execVldrox (d : BitVec 8) (a : BitVec 7) (sc : Bool) (xr : BitVec 8) (s : State) : Out :=
  let m := s.wave.memCompact
  s.vldroxOp m d a sc xr
def execVldroxLong (d : BitVec 8) (a : BitVec 7) (sc : Bool) (xr : BitVec 8) (l : ML) (s : State) : Out :=
  let m := memLong l
  s.vldroxOp m d a sc xr
def execVldv (d : BitVec 8) (a : BitVec 7) (off : BitVec 9) (s : State) : Out :=
  let m := s.wave.memCompact
  s.vldvOp m [m.base a] d (blockAddr a off)
def execVldvLong (d : BitVec 8) (a : BitVec 7) (off : BitVec 9) (l : ML) (s : State) : Out :=
  let m := memLong l
  s.vldvOp m [m.base a] d (blockAddr a off)
def execVstv (d : BitVec 8) (a : BitVec 7) (off : BitVec 9) (s : State) : Out :=
  let m := s.wave.memCompact
  s.vstvOp m [m.base a] d (blockAddr a off)
def execVstvLong (d : BitVec 8) (a : BitVec 7) (off : BitVec 9) (l : ML) (s : State) : Out :=
  let m := memLong l
  s.vstvOp m [m.base a] d (blockAddr a off)
def execVldvx (d : BitVec 8) (a : BitVec 7) (sc : Bool) (xr : BitVec 8) (s : State) : Out :=
  let m := s.wave.memCompact
  s.vldvOp m [m.base a, m.index xr] d (indexAddr a sc xr 4)
def execVldvxLong (d : BitVec 8) (a : BitVec 7) (sc : Bool) (xr : BitVec 8) (l : ML) (s : State) : Out :=
  let m := memLong l
  s.vldvOp m [m.base a, m.index xr] d (indexAddr a sc xr 4)
def execVstvx (d : BitVec 8) (a : BitVec 7) (sc : Bool) (xr : BitVec 8) (s : State) : Out :=
  let m := s.wave.memCompact
  s.vstvOp m [m.base a, m.index xr] d (indexAddr a sc xr 4)
def execVstvxLong (d : BitVec 8) (a : BitVec 7) (sc : Bool) (xr : BitVec 8) (l : ML) (s : State) : Out :=
  let m := memLong l
  s.vstvOp m [m.base a, m.index xr] d (indexAddr a sc xr 4)
def execVsts (d : BitVec 8) (a : BitVec 7) (off : BitVec 9) (s : State) : Out :=
  let m := s.wave.memCompact
  s.vstsOp m d a off
def execVstsLong (d : BitVec 8) (a : BitVec 7) (off : BitVec 9) (l : ML) (s : State) : Out :=
  let m := memLong l
  s.vstsOp m d a off
def execVaadd (d : BitVec 8) (a : BitVec 7) (sc : Bool) (xr : BitVec 8) (s : State) : Out :=
  let m := s.wave.memCompact
  s.vatomic m m.intFmt false d a sc xr fun _ _ _ => .add
def execVaaddLong (d : BitVec 8) (a : BitVec 7) (sc : Bool) (xr : BitVec 8) (l : ML) (s : State) : Out :=
  let m := memLong l
  s.vatomic m m.intFmt false d a sc xr fun _ _ _ => .add
def execVamin (d : BitVec 8) (a : BitVec 7) (sc : Bool) (xr : BitVec 8) (s : State) : Out :=
  let m := s.wave.memCompact
  s.vatomic m m.intFmt false d a sc xr fun _ _ _ => m.minOp
def execVaminLong (d : BitVec 8) (a : BitVec 7) (sc : Bool) (xr : BitVec 8) (l : ML) (s : State) : Out :=
  let m := memLong l
  s.vatomic m m.intFmt false d a sc xr fun _ _ _ => m.minOp
def execVamax (d : BitVec 8) (a : BitVec 7) (sc : Bool) (xr : BitVec 8) (s : State) : Out :=
  let m := s.wave.memCompact
  s.vatomic m m.intFmt false d a sc xr fun _ _ _ => m.maxOp
def execVamaxLong (d : BitVec 8) (a : BitVec 7) (sc : Bool) (xr : BitVec 8) (l : ML) (s : State) : Out :=
  let m := memLong l
  s.vatomic m m.intFmt false d a sc xr fun _ _ _ => m.maxOp
def execVaand (d : BitVec 8) (a : BitVec 7) (sc : Bool) (xr : BitVec 8) (s : State) : Out :=
  let m := s.wave.memCompact
  s.vatomic m m.intFmt false d a sc xr fun _ _ _ => .and
def execVaandLong (d : BitVec 8) (a : BitVec 7) (sc : Bool) (xr : BitVec 8) (l : ML) (s : State) : Out :=
  let m := memLong l
  s.vatomic m m.intFmt false d a sc xr fun _ _ _ => .and
def execVaor (d : BitVec 8) (a : BitVec 7) (sc : Bool) (xr : BitVec 8) (s : State) : Out :=
  let m := s.wave.memCompact
  s.vatomic m m.intFmt false d a sc xr fun _ _ _ => .or
def execVaorLong (d : BitVec 8) (a : BitVec 7) (sc : Bool) (xr : BitVec 8) (l : ML) (s : State) : Out :=
  let m := memLong l
  s.vatomic m m.intFmt false d a sc xr fun _ _ _ => .or
def execVaxor (d : BitVec 8) (a : BitVec 7) (sc : Bool) (xr : BitVec 8) (s : State) : Out :=
  let m := s.wave.memCompact
  s.vatomic m m.intFmt false d a sc xr fun _ _ _ => .xor
def execVaxorLong (d : BitVec 8) (a : BitVec 7) (sc : Bool) (xr : BitVec 8) (l : ML) (s : State) : Out :=
  let m := memLong l
  s.vatomic m m.intFmt false d a sc xr fun _ _ _ => .xor
def execVaxchg (d : BitVec 8) (a : BitVec 7) (sc : Bool) (xr : BitVec 8) (s : State) : Out :=
  let m := s.wave.memCompact
  s.vatomic m m.intFmt false d a sc xr fun _ _ _ => .xchg
def execVaxchgLong (d : BitVec 8) (a : BitVec 7) (sc : Bool) (xr : BitVec 8) (l : ML) (s : State) : Out :=
  let m := memLong l
  s.vatomic m m.intFmt false d a sc xr fun _ _ _ => .xchg
def execVacas (d : BitVec 8) (a : BitVec 7) (sc : Bool) (xr : BitVec 8) (s : State) : Out :=
  let m := s.wave.memCompact
  s.vatomic m m.intFmt true d a sc xr fun w reg l => .cas ((w.lane (reg + 1) l).setWidth 64)
def execVacasLong (d : BitVec 8) (a : BitVec 7) (sc : Bool) (xr : BitVec 8) (l : ML) (s : State) : Out :=
  let m := memLong l
  s.vatomic m m.intFmt true d a sc xr fun w reg l => .cas ((w.lane (reg + 1) l).setWidth 64)
def execVafadd (d : BitVec 8) (a : BitVec 7) (sc : Bool) (xr : BitVec 8) (s : State) : Out :=
  let m := s.wave.memCompact
  s.vatomic m m.floatFmt false d a sc xr fun _ _ _ => .fadd
def execVafaddLong (d : BitVec 8) (a : BitVec 7) (sc : Bool) (xr : BitVec 8) (l : ML) (s : State) : Out :=
  let m := memLong l
  s.vatomic m m.floatFmt false d a sc xr fun _ _ _ => .fadd
def execVafmin (d : BitVec 8) (a : BitVec 7) (sc : Bool) (xr : BitVec 8) (s : State) : Out :=
  let m := s.wave.memCompact
  s.vatomic m m.floatFmt false d a sc xr fun _ _ _ => .fmin
def execVafminLong (d : BitVec 8) (a : BitVec 7) (sc : Bool) (xr : BitVec 8) (l : ML) (s : State) : Out :=
  let m := memLong l
  s.vatomic m m.floatFmt false d a sc xr fun _ _ _ => .fmin
def execVafmax (d : BitVec 8) (a : BitVec 7) (sc : Bool) (xr : BitVec 8) (s : State) : Out :=
  let m := s.wave.memCompact
  s.vatomic m m.floatFmt false d a sc xr fun _ _ _ => .fmax
def execVafmaxLong (d : BitVec 8) (a : BitVec 7) (sc : Bool) (xr : BitVec 8) (l : ML) (s : State) : Out :=
  let m := memLong l
  s.vatomic m m.floatFmt false d a sc xr fun _ _ _ => .fmax
def execVredadd (d : BitVec 8) (a : BitVec 7) (sc : Bool) (xr : BitVec 8) (s : State) : Out :=
  let m := s.wave.memCompact
  s.vred m m.intFmt 4 .add d a sc xr
def execVredaddLong (d : BitVec 8) (a : BitVec 7) (sc : Bool) (xr : BitVec 8) (l : ML) (s : State) : Out :=
  let m := memLong l
  s.vred m m.intFmt 4 .add d a sc xr
def execVredmin (d : BitVec 8) (a : BitVec 7) (sc : Bool) (xr : BitVec 8) (s : State) : Out :=
  let m := s.wave.memCompact
  s.vred m m.intFmt 4 m.minOp d a sc xr
def execVredminLong (d : BitVec 8) (a : BitVec 7) (sc : Bool) (xr : BitVec 8) (l : ML) (s : State) : Out :=
  let m := memLong l
  s.vred m m.intFmt 4 m.minOp d a sc xr
def execVredmax (d : BitVec 8) (a : BitVec 7) (sc : Bool) (xr : BitVec 8) (s : State) : Out :=
  let m := s.wave.memCompact
  s.vred m m.intFmt 4 m.maxOp d a sc xr
def execVredmaxLong (d : BitVec 8) (a : BitVec 7) (sc : Bool) (xr : BitVec 8) (l : ML) (s : State) : Out :=
  let m := memLong l
  s.vred m m.intFmt 4 m.maxOp d a sc xr
def execVredand (d : BitVec 8) (a : BitVec 7) (sc : Bool) (xr : BitVec 8) (s : State) : Out :=
  let m := s.wave.memCompact
  s.vred m m.intFmt 4 .and d a sc xr
def execVredandLong (d : BitVec 8) (a : BitVec 7) (sc : Bool) (xr : BitVec 8) (l : ML) (s : State) : Out :=
  let m := memLong l
  s.vred m m.intFmt 4 .and d a sc xr
def execVredor (d : BitVec 8) (a : BitVec 7) (sc : Bool) (xr : BitVec 8) (s : State) : Out :=
  let m := s.wave.memCompact
  s.vred m m.intFmt 4 .or d a sc xr
def execVredorLong (d : BitVec 8) (a : BitVec 7) (sc : Bool) (xr : BitVec 8) (l : ML) (s : State) : Out :=
  let m := memLong l
  s.vred m m.intFmt 4 .or d a sc xr
def execVredxor (d : BitVec 8) (a : BitVec 7) (sc : Bool) (xr : BitVec 8) (s : State) : Out :=
  let m := s.wave.memCompact
  s.vred m m.intFmt 4 .xor d a sc xr
def execVredxorLong (d : BitVec 8) (a : BitVec 7) (sc : Bool) (xr : BitVec 8) (l : ML) (s : State) : Out :=
  let m := memLong l
  s.vred m m.intFmt 4 .xor d a sc xr
def execVredfadd (d : BitVec 8) (a : BitVec 7) (sc : Bool) (xr : BitVec 8) (s : State) : Out :=
  let m := s.wave.memCompact
  s.vredfaddOp m d a sc xr
def execVredfaddLong (d : BitVec 8) (a : BitVec 7) (sc : Bool) (xr : BitVec 8) (l : ML) (s : State) : Out :=
  let m := memLong l
  s.vredfaddOp m d a sc xr
def execVredfmin (d : BitVec 8) (a : BitVec 7) (sc : Bool) (xr : BitVec 8) (s : State) : Out :=
  let m := s.wave.memCompact
  s.vred m m.floatFmt 4 .fmin d a sc xr
def execVredfminLong (d : BitVec 8) (a : BitVec 7) (sc : Bool) (xr : BitVec 8) (l : ML) (s : State) : Out :=
  let m := memLong l
  s.vred m m.floatFmt 4 .fmin d a sc xr
def execVredfmax (d : BitVec 8) (a : BitVec 7) (sc : Bool) (xr : BitVec 8) (s : State) : Out :=
  let m := s.wave.memCompact
  s.vred m m.floatFmt 4 .fmax d a sc xr
def execVredfmaxLong (d : BitVec 8) (a : BitVec 7) (sc : Bool) (xr : BitVec 8) (l : ML) (s : State) : Out :=
  let m := memLong l
  s.vred m m.floatFmt 4 .fmax d a sc xr
def execSseqadd (d a : BitVec 7) (off : BitVec 9) (s : State) : Out :=
  let m := s.wave.memCompact
  s.sseqaddOp m d a off
def execSseqaddLong (d a : BitVec 7) (off : BitVec 9) (l : ML) (s : State) : Out :=
  let m := memLong l
  s.sseqaddOp m d a off
def execSarwait (d a : BitVec 7) (off : BitVec 9) (s : State) : Out :=
  let m := s.wave.memCompact
  s.sarwaitOp m d a off
def execSarwaitLong (d a : BitVec 7) (off : BitVec 9) (l : ML) (s : State) : Out :=
  let m := memLong l
  s.sarwaitOp m d a off
def execSaadd (d a : BitVec 7) (off : BitVec 9) (s : State) : Out :=
  let m := s.wave.memCompact
  s.satomic m false d a off
def execSaaddLong (d a : BitVec 7) (off : BitVec 9) (l : ML) (s : State) : Out :=
  let m := memLong l
  s.satomic m false d a off
def execSacas (d a : BitVec 7) (off : BitVec 9) (s : State) : Out :=
  let m := s.wave.memCompact
  s.satomic m true d a off
def execSacasLong (d a : BitVec 7) (off : BitVec 9) (l : ML) (s : State) : Out :=
  let m := memLong l
  s.satomic m true d a off
/-! ### Ends of the operations in flight -/

/-- LOAD_DATA_ARRIVE (R80): the data of a load's registers has come. -/
def execLoadDataArrive (op : Nat) (s : State) : Out :=
  .next (match s.opAt op with
    | some o => if (!o.tracker || o.emits) && !o.atomic && o.canFill then s.dataArrive o else s
    | none => s)

/-- TRACKER_ACK (R42): an operation with a tracker entry is performed and acknowledged; a counter add (R260) that was performed has its
launches evaluated again (R328). -/
def execTrackerAck (op : Nat) (s : State) : Out :=
  .next (match s.opAt op with
    | some o =>
      if o.tracker && !o.atomic && o.complete then
        let s := s.endOp o
        match o.seqctr with
        | some pa => if o.bad.isNone && !o.expzFull then s.reeval pa else s
        | none => s
      else s
    | none => s)

/-- ATOMIC_RESULT_RETURN (R257). -/
def execAtomicResultReturn (op : Nat) (s : State) : Out :=
  .next (match s.opAt op with
    | some o => if o.atomic && o.acc.isEmpty && !s.unfinished o.wave then s.atomicReturn o else s
    | none => s)

end Sys2Proof.Machine
end

