-- ==== Sys2Proof/Machine/Scalar.lean ====
section
/-!
DEFINITION. Scalar-class instructions (06_scalar_control_instructions.md, R142 to R153) and the hints of R87.
-/
namespace Sys2Proof.Machine

/-! ### Widths (R69, R143) -/

/-- The type is signed. -/
def tSigned (t : BitVec 3) : Bool := t.getLsbD 0

/-- The width N of a scalar TYPE. -/
def tWidth (t : BitVec 3) : Nat := 64 / 2 ^ (t.toNat / 2)

/-- A compact scalar form with sources A and B: `f sgn N x y` is the 64-bit result. -/
def State.sc2 (s : State) (d a b : BitVec 7) (t : BitVec 3) (f : Bool → Nat → Nat → Nat → Word) : Out :=
  s.scalar [a.toNat, b.toNat] [d.toNat] 1 fun w =>
    let n := tWidth t
    w.setS d.toNat (f (tSigned t) n ((w.sreg a.toNat).toNat % 2 ^ n) ((w.sreg b.toNat).toNat % 2 ^ n))

/-- A compact scalar form with the source A alone. -/
def State.sc1 (s : State) (d a : BitVec 7) (t : BitVec 3) (f : Bool → Nat → Nat → Word) : Out :=
  s.scalar [a.toNat] [d.toNat] 1 fun w =>
    let n := tWidth t
    w.setS d.toNat (f (tSigned t) n ((w.sreg a.toNat).toNat % 2 ^ n))

/-- A compare result. -/
def ofBit (b : Bool) : Word := if b then 1 else 0

/-- Narrow an exact integer to N bits and extend it (R122, R143). -/
def narrow (sgn : Bool) (n : Nat) (x : Int) : Word := extend sgn n (wrap n x)

/-! ### Compact forms (R144 to R146) -/

def execSadd (d a b : BitVec 7) (t : BitVec 3) (s : State) : Out :=
  s.sc2 d a b t fun g n x y => narrow g n (x + y)

def execSsub (d a b : BitVec 7) (t : BitVec 3) (s : State) : Out :=
  s.sc2 d a b t fun g n x y => narrow g n ((x : Int) - y)

def execSmul (d a b : BitVec 7) (t : BitVec 3) (s : State) : Out :=
  s.sc2 d a b t fun g n x y => narrow g n (x * y)

def execSmulh (d a b : BitVec 7) (t : BitVec 3) (s : State) : Out :=
  s.sc2 d a b t fun g n x y => narrow g n (valueOf g n x * valueOf g n y / 2 ^ n)

/-- Division by zero gives all N bits set (R145). -/
def execSdiv (d a b : BitVec 7) (t : BitVec 3) (s : State) : Out :=
  s.sc2 d a b t fun g n x y =>
    if y = 0 then extend g n (2 ^ n - 1) else narrow g n ((valueOf g n x).tdiv (valueOf g n y))

/-- The remainder by zero is x (R145). -/
def execSrem (d a b : BitVec 7) (t : BitVec 3) (s : State) : Out :=
  s.sc2 d a b t fun g n x y => if y = 0 then extend g n x else narrow g n ((valueOf g n x).tmod (valueOf g n y))

def execSmin (d a b : BitVec 7) (t : BitVec 3) (s : State) : Out :=
  s.sc2 d a b t fun g n x y => narrow g n (min (valueOf g n x) (valueOf g n y))

def execSmax (d a b : BitVec 7) (t : BitVec 3) (s : State) : Out :=
  s.sc2 d a b t fun g n x y => narrow g n (max (valueOf g n x) (valueOf g n y))

def execSand (d a b : BitVec 7) (t : BitVec 3) (s : State) : Out :=
  s.sc2 d a b t fun g n x y => extend g n (x &&& y)

def execSor (d a b : BitVec 7) (t : BitVec 3) (s : State) : Out :=
  s.sc2 d a b t fun g n x y => extend g n (x ||| y)

def execSxor (d a b : BitVec 7) (t : BitVec 3) (s : State) : Out :=
  s.sc2 d a b t fun g n x y => extend g n (x ^^^ y)

def execSandn (d a b : BitVec 7) (t : BitVec 3) (s : State) : Out :=
  s.sc2 d a b t fun g n x y => extend g n (x &&& (2 ^ n - 1 - y))

def execSshl (d a b : BitVec 7) (t : BitVec 3) (s : State) : Out :=
  s.sc2 d a b t fun g n x y => extend g n (x * 2 ^ (y % n))

/-- Logical under an unsigned type, arithmetic under a signed one. -/
def execSshr (d a b : BitVec 7) (t : BitVec 3) (s : State) : Out :=
  s.sc2 d a b t fun g n x y => narrow g n (valueOf g n x / 2 ^ (y % n))

def execSrot (d a b : BitVec 7) (t : BitVec 3) (s : State) : Out :=
  s.sc2 d a b t fun g n x y => extend g n (x * 2 ^ (y % n) + x / 2 ^ (n - y % n))

def execSclz (d a : BitVec 7) (t : BitVec 3) (s : State) : Out :=
  s.sc1 d a t fun _ n x => BitVec.ofNat 64 (leadingZeros n x)

def execSeq (d a b : BitVec 7) (t : BitVec 3) (s : State) : Out :=
  s.sc2 d a b t fun _ _ x y => ofBit (x == y)

def execSne (d a b : BitVec 7) (t : BitVec 3) (s : State) : Out :=
  s.sc2 d a b t fun _ _ x y => ofBit (x != y)

def execSlt (d a b : BitVec 7) (t : BitVec 3) (s : State) : Out :=
  s.sc2 d a b t fun g n x y => ofBit (decide (valueOf g n x < valueOf g n y))

def execSle (d a b : BitVec 7) (t : BitVec 3) (s : State) : Out :=
  s.sc2 d a b t fun g n x y => ofBit (decide (valueOf g n x ≤ valueOf g n y))

/-- Selects by all 64 bits of the old D (R144). -/
def execSsel (d a b : BitVec 7) (t : BitVec 3) (s : State) : Out :=
  s.scalar [a.toNat, b.toNat, d.toNat] [d.toNat] 1 fun w =>
    w.setS d.toNat (extend (tSigned t) (tWidth t) (w.sreg (if w.sreg d.toNat = 0 then b.toNat else a.toNat)).toNat)

def execSpopc (d a : BitVec 7) (t : BitVec 3) (s : State) : Out :=
  s.sc1 d a t fun _ n x => BitVec.ofNat 64 (popCount n x)

def execSctz (d a : BitVec 7) (t : BitVec 3) (s : State) : Out :=
  s.sc1 d a t fun _ n x => BitVec.ofNat 64 (trailingZeros n x)

def execSbrev (d a : BitVec 7) (t : BitVec 3) (s : State) : Out :=
  s.sc1 d a t fun g n x => extend g n (bitRev n x)

/-- Extract the field that S[B] gives (R146). -/
def execSbfx (d a b : BitVec 7) (t : BitVec 3) (s : State) : Out :=
  s.scalar [a.toNat, b.toNat] [d.toNat] 1 fun w =>
    let n := tWidth t
    let p := w.sreg b.toNat
    let len := min (Bits.of p 14 8) n
    let f := (w.sreg a.toNat).toNat % 2 ^ n / 2 ^ Bits.of p 5 0 % 2 ^ len
    w.setS d.toNat (narrow (tSigned t) n (if len = 0 then 0 else valueOf (tSigned t) len f))

/-- Insert x into the field of D that S[B] gives (R146). -/
def execSbfi (d a b : BitVec 7) (t : BitVec 3) (s : State) : Out :=
  s.scalar [a.toNat, b.toNat, d.toNat] [d.toNat] 1 fun w =>
    let n := tWidth t
    let p := w.sreg b.toNat
    let lo := Bits.of p 5 0
    let m := (2 ^ min (Bits.of p 14 8) n - 1) * 2 ^ lo % 2 ^ n
    let x := (w.sreg a.toNat).toNat % 2 ^ n * 2 ^ lo
    w.setS d.toNat (extend (tSigned t) n (((w.sreg d.toNat).toNat % 2 ^ n &&& (2 ^ n - 1 - m)) ||| (x &&& m)))

def execSmov (d a : BitVec 7) (t : BitVec 3) (s : State) : Out := s.sc1 d a t fun g n x => extend g n x

/-! ### Immediate forms (R147, R148) -/

/-- An immediate form of `len` words on all 64 bits. -/
def State.si (s : State) (d a : BitVec 7) (len : Nat) (imm : Word) (f : Word → Word → Word) : Out :=
  s.scalar [a.toNat] [d.toNat] len fun w => w.setS d.toNat (f (w.sreg a.toNat) imm)

/-- A shift by an unsigned amount: 64 or more is illegal (R147). -/
def State.shiftImm (s : State) (d a : BitVec 7) (len amount : Nat) (f : Word → Nat → Word) : Out :=
  .next (s.issue ((Check.need (decide (amount < 64))).andThen (s.wave.scalarCheck [a.toNat] [d.toNat])) fun s =>
    s.modWave fun w => (w.setS d.toNat (f (w.sreg a.toNat) amount)).retire len)

/-- The immediate of either form. -/
def imm64 {n : Nat} (imm : BitVec n) : Word := imm.signExtend 64

def eqi (x y : Word) : Word := ofBit (x == y)
def lti (x y : Word) : Word := ofBit (x.slt y)
def ltni (x y : Word) : Word := ofBit (x.ult y)

def execSaddi (d a : BitVec 7) (imm : BitVec 10) (s : State) : Out := s.si d a 1 (imm64 imm) (· + ·)
def execSmuli (d a : BitVec 7) (imm : BitVec 10) (s : State) : Out := s.si d a 1 (imm64 imm) (· * ·)
def execSandi (d a : BitVec 7) (imm : BitVec 10) (s : State) : Out := s.si d a 1 (imm64 imm) (· &&& ·)
def execSori (d a : BitVec 7) (imm : BitVec 10) (s : State) : Out := s.si d a 1 (imm64 imm) (· ||| ·)
def execSxori (d a : BitVec 7) (imm : BitVec 10) (s : State) : Out := s.si d a 1 (imm64 imm) (· ^^^ ·)
def execSshli (d a : BitVec 7) (imm : BitVec 10) (s : State) : Out := s.shiftImm d a 1 imm.toNat (· <<< ·)
def execSshri (d a : BitVec 7) (imm : BitVec 10) (s : State) : Out := s.shiftImm d a 1 imm.toNat (· >>> ·)
def execSsrai (d a : BitVec 7) (imm : BitVec 10) (s : State) : Out := s.shiftImm d a 1 imm.toNat BitVec.sshiftRight
def execSeqi (d a : BitVec 7) (imm : BitVec 10) (s : State) : Out := s.si d a 1 (imm64 imm) eqi
def execSlti (d a : BitVec 7) (imm : BitVec 10) (s : State) : Out := s.si d a 1 (imm64 imm) lti
def execSltni (d a : BitVec 7) (imm : BitVec 10) (s : State) : Out := s.si d a 1 (imm64 imm) ltni

def execSmovi (d : BitVec 7) (imm : BitVec 10) (s : State) : Out :=
  s.scalar [] [d.toNat] 1 fun w => w.setS d.toNat (imm64 imm)

def execSaddiLong (d a : BitVec 7) (imm : BitVec 32) (s : State) : Out := s.si d a 2 (imm64 imm) (· + ·)
def execSmuliLong (d a : BitVec 7) (imm : BitVec 32) (s : State) : Out := s.si d a 2 (imm64 imm) (· * ·)
def execSandiLong (d a : BitVec 7) (imm : BitVec 32) (s : State) : Out := s.si d a 2 (imm64 imm) (· &&& ·)
def execSoriLong (d a : BitVec 7) (imm : BitVec 32) (s : State) : Out := s.si d a 2 (imm64 imm) (· ||| ·)
def execSxoriLong (d a : BitVec 7) (imm : BitVec 32) (s : State) : Out := s.si d a 2 (imm64 imm) (· ^^^ ·)
def execSshliLong (d a : BitVec 7) (imm : BitVec 32) (s : State) : Out := s.shiftImm d a 2 imm.toNat (· <<< ·)
def execSshriLong (d a : BitVec 7) (imm : BitVec 32) (s : State) : Out := s.shiftImm d a 2 imm.toNat (· >>> ·)
def execSsraiLong (d a : BitVec 7) (imm : BitVec 32) (s : State) : Out := s.shiftImm d a 2 imm.toNat BitVec.sshiftRight
def execSeqiLong (d a : BitVec 7) (imm : BitVec 32) (s : State) : Out := s.si d a 2 (imm64 imm) eqi
def execSltiLong (d a : BitVec 7) (imm : BitVec 32) (s : State) : Out := s.si d a 2 (imm64 imm) lti
def execSltniLong (d a : BitVec 7) (imm : BitVec 32) (s : State) : Out := s.si d a 2 (imm64 imm) ltni

def execSmoviLong (d : BitVec 7) (imm : BitVec 32) (s : State) : Out :=
  s.scalar [] [d.toNat] 2 fun w => w.setS d.toNat (imm64 imm)

/-- Sets bits [63:32] and keeps bits [31:0] (R148). -/
def execSmovh (d : BitVec 7) (imm : BitVec 32) (s : State) : Out :=
  s.scalar [d.toNat] [d.toNat] 2 fun w => w.setS d.toNat (imm ++ (w.sreg d.toNat).setWidth 32)

/-! ### Control transfer (R149 to R153) -/

/-- The target of a relative branch: the address of the instruction's first word plus 4 times the offset (R149). -/
def Wave.target {n : Nat} (w : Wave) (off : BitVec n) : Word := w.here + 4 * off.signExtend 64

/-- An address with bits [1:0] cleared. -/
def wordAddr (a : Word) : Word := a &&& ~~~(3 : Word)

/-- A branch that is taken where a condition on the wave holds; otherwise the clause ends (R150). -/
def State.branch (s : State) (srcs : List Nat) (len : Nat) (unwinds : Bool) (cond : Wave → Bool) (target : Wave → Word) : Out :=
  s.transfer srcs [] len fun s => s.modWave fun w => if cond w then w.count.jump unwinds (target w) else w.retire len

def execBra (off : BitVec 17) (s : State) : Out := s.branch [] 1 true (fun _ => true) (·.target off)
def execBz (a : BitVec 7) (off : BitVec 17) (s : State) : Out :=
  s.branch [a.toNat] 1 true (fun w => w.sreg a.toNat == 0) (·.target off)
def execBnz (a : BitVec 7) (off : BitVec 17) (s : State) : Out :=
  s.branch [a.toNat] 1 true (fun w => w.sreg a.toNat != 0) (·.target off)

/-- `call`: the link register gets the next clause header, then the wave jumps; nothing unwinds (R40, R150). -/
def State.call (s : State) (a : BitVec 7) (len : Nat) (target : Wave → Word) : Out :=
  s.transfer [] [a.toNat] len fun s => s.modWave fun w => (w.setS a.toNat w.nextHeader).count.jump false (target w)

def execCall (a : BitVec 7) (off : BitVec 17) (s : State) : Out := s.call a 1 (·.target off)
def execRet (a : BitVec 7) (s : State) : Out :=
  s.branch [a.toNat] 1 false (fun _ => true) fun w => wordAddr (w.sreg a.toNat)
def execBrx (a : BitVec 7) (off : BitVec 17) (s : State) : Out :=
  s.branch [a.toNat] 1 true (fun _ => true) fun w => wordAddr (w.sreg a.toNat + 4 * off.signExtend 64)

def execBraLong (off : BitVec 32) (s : State) : Out := s.branch [] 2 true (fun _ => true) (·.target off)
def execBzLong (a : BitVec 7) (off : BitVec 32) (s : State) : Out :=
  s.branch [a.toNat] 2 true (fun w => w.sreg a.toNat == 0) (·.target off)
def execBnzLong (a : BitVec 7) (off : BitVec 32) (s : State) : Out :=
  s.branch [a.toNat] 2 true (fun w => w.sreg a.toNat != 0) (·.target off)
def execCallLong (a : BitVec 7) (off : BitVec 32) (s : State) : Out := s.call a 2 (·.target off)

/-- `yield` jumps to its target; like every end of a clause it leaves the pipe to the next ready wave (R51, R64, R150). -/
def execYield (off : BitVec 17) (s : State) : Out := s.branch [] 1 true (fun _ => true) (·.target off)
def execYieldLong (off : BitVec 32) (s : State) : Out := s.branch [] 2 true (fun _ => true) (·.target off)

/-- `loop` in a trap handler is illegal (R460); with four entries on the stack it raises LOOP_DEPTH; with a zero count it is over, and
fetch goes on behind the end instruction, whose word the clause fetch then reads (R35, R36). A `loop` clause closes no pass (R152). -/
def State.loopOp (s : State) (a : BitVec 7) (len : Nat) (fin : Wave → Word) : Out :=
  .next (s.issue ((Check.need (s.wave.endsClause len && !s.wave.inHandler)).andThen (s.wave.scalarCheck [a.toNat] [])) fun s =>
    let w := s.wave
    let e := fin w
    if w.ls.length ≥ 4 then s.trap Code.loopDepth 0
    else if w.sreg a.toNat ≠ 0 then
      s.modWave fun w => ({ w with ls := w.ls ++ [LoopEntry.mk w.nextHeader e (w.sreg a.toNat)] }.count).fetchAt w.nextHeader
    else s.modWave fun w => { w.count.fetchAt e with resume := .past })

def execLoop (a : BitVec 7) (off : BitVec 17) (s : State) : Out := s.loopOp a 1 (·.target off)
def execLoopLong (a : BitVec 7) (off : BitVec 32) (s : State) : Out := s.loopOp a 2 (·.target off)

/-- Pops the top entry, if there is one; in a handler the stack is frozen (R152, R459). -/
def execLpop (s : State) : Out := s.scalar [] [] 1 fun w => if w.inHandler then w else { w with ls := w.ls.dropLast }

/-- An instruction that only advances: `nop` (R153) and the hints (R87), which stand in every class. -/
def execNop (s : State) : Out := s.scalar [] [] 1 id

/-- End the wave; in a handler the trap is reported as the wave's fault (R452, R339). -/
def State.exitWave (s : State) (tail : Bool) : State :=
  let w := s.wave
  let t := w.trap
  let imp := bitAt t.kind.toNat 0
  let s := if w.inHandler then
      s.report w.gang { code := t.cause.setWidth 8, pc := if imp then t.info else t.pc, waveid := w.waveid, info := t.info,
                        mstat := t.mstat, imprecise := imp, ended := false, orig := 0 }
    else s
  (s.modWave (·.count)).endWave s.cur tail

def execExit (s : State) : Out := s.transfer [] [] 1 fun s => s.exitWave false
def execTail (s : State) : Out := s.transfer [] [] 1 fun s => s.exitWave true

end Sys2Proof.Machine
end

