-- ==== Sys2Proof/Machine/Splat.lean ====
section
/-!
DEFINITION. The splat instructions a wave runs itself (13_splat_pipeline.md, 16_splat_claim_task_instructions.md, R291 to
R306, R352 to R357): `kemit`, `vblend` and `vblendg`.
-/
namespace Sys2Proof.Machine

/-! ### Key emit (R294, R352) -/

/-- The ordered depth of FP32 bits (R294). -/
def depthKey (d : Lane) : Nat := if d.getLsbD 31 then (~~~d).toNat else (d ||| 0x80000000#32).toNat

/-- The key of a lane of `kemit`. -/
def emitKey (tile d : Lane) : Nat := 2 ^ 40 * (tile.toNat % 2 ^ 24) + 2 ^ 8 * depthKey d

/-- `kemit` (R352): one atomic add to the append counter, then the records below the capacity. -/
def State.kemitOp (s : State) (x : EArgs) (d : BitVec 8) (a b : BitVec 7) : Out :=
  let an := a.toNat
  let bn := b.toNat
  s.engine x true [x.a an, x.a (an + 1), (vOp [bn, bn + 1, bn + 2] 1).fe x.fe] [vOp [d.toNat]] fun s =>
    let w := s.wave
    let h := (w.sreg an).toNat
    let cap := Bits.of (w.sreg (an + 1)) 27 0
    s.behindAcqs fun s =>
    match s.checkAll s.myGang.asid [⟨.engBoth, h, 8, 16⟩, ⟨.engBoth, (w.sreg an + 16).toNat, 16 * cap, 1⟩] with
    | .miss s => s.hold
    | .fault f => s.addrTrap f
    | .ok =>
      let lanes := (List.range 32).filter (w.takes x.pred)
      if lanes.isEmpty then (s.noteAcq x.acqScope).retire x.len
      else if !s.trackerRoom w.core then s.block
      else
        let recs := lanes.map fun l => (l, emitKey (w.lane bn l) (w.lane (bn + 1) l), (w.lane (bn + 2) l).toNat)
        let (acc, _) := s.split s.myGang.asid [⟨0, 0, h, 8, .rmw .add (BitVec.ofNat 64 lanes.length)⟩]
        let args : OpArgs := { path := .gen, vec := true, tracker := true, atomic := false, fill := .emit d.toNat h cap recs,
                               len := x.len, acq := x.acqScope, rel := if x.rel then some x.scope else none, rlx := x.rlx }
        let (o, s) := s.newOp args acc
        let (s, o) := s.l1Issue w.core o
        s.launchOp args { o with counted := .none }

def execKemit (d : BitVec 8) (a b : BitVec 7) (s : State) : Out := s.kemitOp s.wave.engCompact d a b
def execKemitLong (d : BitVec 8) (a b : BitVec 7) (l : EL) (s : State) : Out := s.kemitOp (engLong l) d a b

/-! ### Alpha (R291 to R293) -/

/-- The words of a splat record. -/
def recWord (rec : List Lane) (i : Nat) : Lane := nth 0 rec i

/-- KIND of a record. -/
def recKind (rec : List Lane) : Nat := (recWord rec 15).toNat % 4

/-- Exact difference. -/
def FVal.sub (a b : FVal) : FVal := a.add 0 b.neg

/-- The centre of a pixel in FP32 (R354): one rounding. -/
def pixelCentre (x : Nat) : Lane := toF32 0 (.num false (2 * x + 1) (-1))

/-- Exact q of a Gaussian at a displacement. -/
def gaussQ (rec : List Lane) (dx dy : FVal) : FVal :=
  let a := f32 (recWord rec 2)
  let b := f32 (recWord rec 3)
  let c := f32 (recWord rec 4)
  ((a.mul (dx.mul dx)).add 0 ((b.mul (dx.mul dy)).mul (.num false 1 1))).add 0 (c.mul (dy.mul dy))

/-- OPAC · exp(−q/2): a value within 2 ulp of the exact one (R292; log 9); exactly OPAC when q = 0. -/
def gaussAlpha (rec : List Lane) (px py : Lane) (q : FVal) : Lane :=
  let opac := f32 (recWord rec 14)
  match q, opac with
  | .nan, _ => 0x7fc00000
  | _, .nan => 0x7fc00000
  | .inf neg, o => toF32 0 (o.mul (if neg then .inf false else .num false 0 0))
  | .num neg m e, o =>
    if m = 0 then recWord rec 14
    else match o with
      | .nan => 0x7fc00000
      | .inf n => toF32 0 (.inf n)
      | .num on om oe =>
        if om = 0 then toF32 0 o
        else
          let near (m : Nat) (e : Int) : Lane :=
            let lo := fp32.roundMag 1 on m e
            let c := lo + Config.alphaUlp ((List.range 5).map (recWord rec) ++ [recWord rec 14]) px py % 4 - 1
            let c := if (lo + 1) % 2 ^ 23 = 0 then min c (lo + 1) else c
            BitVec.ofNat 32 (fp32.withSign on (min c 0x7f800000))
          if 12 < e + bitLen m then (if neg then toF32 0 (.inf on) else near 1 (-1000))
          else
            let y := fixOf (!neg) m (e - 1) * (2 ^ fixBits : Nat) / (ln2Fix : Int)
            let n := y / (2 ^ fixBits : Nat)
            let fr := (y % (2 ^ fixBits : Nat)).toNat
            near (om * expFix (fr * ln2Fix / 2 ^ fixBits)) (oe + n - fixBits)

/-- An edge of a triangle covers a pixel centre (R292). -/
def edgeCovers (rec : List Lane) (i : Nat) (px py : Lane) : Bool :=
  let ea := f32 (recWord rec (3 * i))
  let eb := f32 (recWord rec (3 * i + 1))
  let ec := f32 (recWord rec (3 * i + 2))
  let zero : FVal := .num false 0 0
  let pos (v : FVal) : Bool := v.cmp zero == some .gt
  let nul (v : FVal) : Bool := v.cmp zero == some .eq
  let v := f32 (toF32 0 (((ea.mul (f32 px)).add 0 (eb.mul (f32 py))).add 0 ec))
  pos v || (nul v && (pos ea || (nul ea && pos eb)))

/-- α₀ of a record at a pixel centre (R292). -/
def alpha0 (rec : List Lane) (px py : Lane) : Lane :=
  let dx := (f32 px).sub (f32 (recWord rec 0))
  let dy := (f32 py).sub (f32 (recWord rec 1))
  match recKind rec with
  | 0 => gaussAlpha rec px py (gaussQ rec dx dy)
  | 1 =>
    let c := ((dx.mul dx).add 0 (dy.mul dy)).cmp (f32 (recWord rec 2))
    if c == some .lt || c == some .eq then recWord rec 14 else 0
  | 2 => if edgeCovers rec 0 px py && edgeCovers rec 1 px py && edgeCovers rec 2 px py then recWord rec 14 else 0
  | _ => 0

/-- 0.99 and 1/255 rounded to FP32 (R293). -/
def alphaTop : Lane := 0x3f7d70a4
def alphaLow : Lane := 0x3b808081

/-- The clamp of R293 acted. -/
def clamped (a0 : Lane) : Bool := (f32 a0).cmp (f32 alphaTop) == some .gt

/-- The entry's alpha at a pixel, or nothing where it is skipped (R293). -/
def alphaOf (a0 : Lane) : Option Lane :=
  let a := if clamped a0 then alphaTop else a0
  match (f32 a).cmp (f32 alphaLow) with
  | none => none
  | some .lt => none
  | _ => some a

/-! ### The walk (R354, R357) -/

/-- The bases of the pixel blocks from B on. -/
def blendBases (b : Nat) : List Nat := [b, b + 4, b + 8, b + 12]
def gradBases (b : Nat) : List Nat := [b + 32, b + 36, b + 40]

/-- The registers of 2×4 blocks. -/
def blocks24 (bases : List Nat) : List Nat := bases.flatMap fun n => blockRegs 2 4 n

/-- Blend status (R357). -/
def blendStatus (id kind : Nat) (below none_ noEntry : Bool) : Word :=
  BitVec.ofNat 64 (id + 2 ^ 32 * kind + (if kind = 3 then 2 ^ 34 else 0) + (if below then 2 ^ 35 else 0) +
    (if none_ then 2 ^ 36 else 0) + (if noEntry then 2 ^ 37 else 0))

/-- The pixels of a wave that take part, in the order in which they are visited. -/
def Wave.pixels (w : Wave) (p : Nat) : List ((Nat × Nat) × Nat) :=
  (extent 2 4).flatMap fun e => ((List.range 32).filter (w.takes p)).map fun l => (e, l)

/-- The centre of pixel (r, c), lane l of a tile whose origin is `o`. -/
def tileCentre (o : Word) (e : Nat × Nat) (l : Nat) : Lane × Lane :=
  (pixelCentre (Bits.of o 31 0 + l % 16), pixelCentre (Bits.of o 63 32 + 8 * e.1 + 2 * e.2 + l / 16))

/-- What a walk step reads: the id and the record, or why it cannot go on. -/
inductive Entry where
  | ok (id : Nat) (rec : List Lane) (s : State)
  | stop (s : State)

/-- Read on the GEN path what a wave-side instruction needs; a failing line stops the wave exactly (R357). -/
def State.walkRead (s : State) (ranges : List Range) (va : Word) (n : Nat) : Except State (List Byte × State) :=
  match s.checkAll s.myGang.asid ranges with
  | .miss s => .error s.hold
  | .fault f => .error (s.addrTrap f)
  | .ok => match s.genRead va.toNat n with
    | none => .error s.hold
    | some g => match g.bad with
      | some (c, pa) => .error (s.trap c (BitVec.ofNat 64 pa))
      | none => .ok (g.bytes, g.s)

/-- Read the key value and the splat record of entry `k` (R355). -/
def State.readEntry (s : State) (keys base : Word) (k : Nat) : Entry :=
  let va := keys + BitVec.ofNat 64 (16 * k) + 8
  match s.walkRead [⟨.blockRead, (va - 8).toNat, 0, 16⟩, ⟨.blockRead, va.toNat, 4, 1⟩] va 4 with
  | .error s => .stop s
  | .ok (b, s) =>
    let id := fromBytes b
    let ra := base + BitVec.ofNat 64 (64 * id)
    match s.walkRead [⟨.blockRead, ra.toNat, 64, 64⟩] ra 64 with
    | .error s => .stop s
    | .ok (r, s) => .ok id ((List.range 16).map fun i => BitVec.ofNat 32 (numAt r (4 * i) 4)) s

/-- The cursor register with its low half replaced. -/
def cursor (x : Word) (k : Nat) : Word := BitVec.ofNat 64 (x.toNat / 2 ^ 32 * 2 ^ 32 + k % 2 ^ 32)

/-- Issue a blend form: B is a multiple of 16, the scalar group has four registers. -/
def State.blend (s : State) (x : EArgs) (d a b : BitVec 7) (srcs dsts : List Nat) (eff : State → State) : Out :=
  let an := a.toNat
  s.engine x (b.toNat % 16 == 0) (((List.range 4).map fun i => x.a (an + i)) ++ [(vOp srcs 1).fe x.fe])
    [sOp d.toNat, sOp (an + 3), vOp dsts] fun s => s.behindAcqs eff

/-- End a blend form: the cursor, then the status word; an acquire is over. -/
def State.blended (s : State) (x : EArgs) (a d : Nat) (k : Nat) (status : Word) : State :=
  (s.modWave fun w => w.setS (a + 3) (cursor (w.sreg (a + 3)) k)).answer x d status

/-! ### `vblend` (R303, R355) -/

/-- One entry at one pixel, front to back. -/
def Wave.blendPixel (w : Wave) (rec : List Lane) (b : Nat) (alpha : Lane) (e : Nat × Nat) (l : Nat) : Wave :=
  let tr := blockReg b e.1 e.2
  let t := f32 (w.lane tr l)
  let wgt := toF32 0 (t.mul (f32 alpha))
  let w := (List.range 3).foldl (fun (w : Wave) ch =>
    let cr := blockReg (b + 4 + 4 * ch) e.1 e.2
    w.setLane cr l (toF32 0 (((f32 wgt).mul (f32 (recWord rec (11 + ch)))).add 0 (f32 (w.lane cr l))))) w
  w.setLane tr l (toF32 0 (t.sub (f32 wgt)))

/-- Blend an entry over the pixels that take part; counts the pixels at which it was not skipped. -/
def Wave.blendEntry (w : Wave) (p : Nat) (rec : List Lane) (origin : Word) (b : Nat) : Wave × Nat :=
  (w.pixels p).foldl (fun (x : Wave × Nat) px =>
    let (cx, cy) := tileCentre origin px.1 px.2
    match alphaOf (alpha0 rec cx cy) with
    | none => x
    | some al => (x.1.blendPixel rec b al px.1 px.2, x.2 + 1)) (w, 0)

def State.vblendOp (s : State) (x : EArgs) (d a b : BitVec 7) : Out :=
  let an := a.toNat
  let bn := b.toNat
  let regs := blocks24 (blendBases bn)
  s.blend x d a b regs regs fun s =>
    if !s.relDone x then s.hold
    else
      let w := s.wave
      let k := Bits.of (w.sreg (an + 3)) 31 0
      match s.readEntry (w.sreg an) (w.sreg (an + 1)) k with
      | .stop s => s
      | .ok id rec s =>
        let (w', n) := s.wave.blendEntry x.pred rec (w.sreg (an + 2)) bn
        let below := (w'.pixels x.pred).all fun px =>
          (f32 (w'.lane (blockReg bn px.1.1 px.1.2) px.2)).cmp (.num false 1 (-8)) == some .lt
        (s.setWave w').blended x an d.toNat (k + 1) (blendStatus id (recKind rec) below (n == 0) false)

def execVblend (d a b : BitVec 7) (s : State) : Out := s.vblendOp s.wave.engCompact d a b
def execVblendLong (d a b : BitVec 7) (l : EL) (s : State) : Out := s.vblendOp (engLong l) d a b

/-! ### `vblendg` (R306, R356) -/

/-- Products of exact values. -/
def prod (l : List FVal) : FVal := l.foldl (fun a b => a.mul b) (.num false 1 0)

/-- The gradient of the record's words at a pixel (R306, R356), given the transmittance in front of the entry. -/
def pixGrad (rec : List Lane) (a0 alpha t : Lane) (dx dy : FVal) (g : List Lane) (back : List Lane) : List Lane :=
  let two : FVal := .num false 1 1
  let al := f32 alpha
  let tv := f32 t
  let gv (ch : Nat) : FVal := f32 (nth 0 g ch)
  let dal := (List.range 3).foldl (fun (v : FVal) ch =>
    v.add 0 (prod [gv ch, tv, (f32 (recWord rec (11 + ch))).sub (f32 (nth 0 back ch))])) (.num false 0 0)
  let geo (dq : FVal) : Lane :=
    if recKind rec ≠ 0 ∨ clamped a0 then 0 else toF32 0 (prod [dal, .num true 1 (-1), f32 a0, dq])
  let ca := f32 (recWord rec 2)
  let cb := f32 (recWord rec 3)
  let cc := f32 (recWord rec 4)
  let m2 := two.neg
  [geo (m2.mul ((ca.mul dx).add 0 (cb.mul dy))), geo (m2.mul ((cb.mul dx).add 0 (cc.mul dy))), geo (dx.mul dx),
    geo (prod [two, dx, dy]), geo (dy.mul dy), 0, 0, 0, 0, 0, 0] ++
    ((List.range 3).map fun ch => toF32 0 (prod [gv ch, al, tv])) ++
    [if clamped a0 then 0 else toF32 0 ((dal.mul (f32 a0)).div (f32 (recWord rec 14))), 0]

/-- One entry at one pixel, back to front: the wave and the pixel's gradient. -/
def Wave.gradPixel (w : Wave) (rec : List Lane) (b : Nat) (a0 alpha : Lane) (dx dy : FVal) (e : Nat × Nat) (l : Nat) :
    Wave × List Lane :=
  let one : FVal := .num false 1 0
  let tr := blockReg b e.1 e.2
  let sr (ch : Nat) : Nat := blockReg (b + 4 + 4 * ch) e.1 e.2
  let rest := one.sub (f32 alpha)
  let t := toF32 0 ((f32 (w.lane tr l)).div (f32 (toF32 0 rest)))
  let g := (List.range 3).map fun ch => w.lane (blockReg (b + 32 + 4 * ch) e.1 e.2) l
  let back := (List.range 3).map fun ch => w.lane (sr ch) l
  let pix := pixGrad rec a0 alpha t dx dy g back
  let w := (List.range 3).foldl (fun (w : Wave) ch =>
    let inner := toF32 0 (rest.mul (f32 (nth 0 back ch)))
    w.setLane (sr ch) l (toF32 0 (((f32 (recWord rec (11 + ch))).mul (f32 alpha)).add 0 (f32 inner)))) w
  (w.setLane tr l t, pix)

/-- Replay an entry over the pixels that take part: the wave, the summed gradient and the count of pixels not skipped. -/
def Wave.gradEntry (w : Wave) (p : Nat) (rec : List Lane) (origin : Word) (b : Nat) : Wave × List Lane × Nat :=
  (w.pixels p).foldl (fun (x : Wave × List Lane × Nat) px =>
    let (cx, cy) := tileCentre origin px.1 px.2
    let a0 := alpha0 rec cx cy
    match alphaOf a0 with
    | none => x
    | some al =>
      let dx := (f32 cx).sub (f32 (recWord rec 0))
      let dy := (f32 cy).sub (f32 (recWord rec 1))
      let (w, pix) := x.1.gradPixel rec b a0 al dx dy px.1 px.2
      (w, List.zipWith f32add x.2.1 pix, x.2.2 + 1)) (w, copies 16 0, 0)

def State.vblendgOp (s : State) (x : EArgs) (d a b : BitVec 7) : Out :=
  let an := a.toNat
  let bn := b.toNat
  let regs := blocks24 (blendBases bn)
  s.blend x d a b (regs ++ blocks24 (gradBases bn)) (regs ++ [bn + 44]) fun s =>
    if !s.relDone x then s.hold
    else
      let w := s.wave
      let k := Bits.of (w.sreg (an + 3)) 31 0
      if k = 0 then s.answer x d.toNat (blendStatus 0 0 false false true)
      else match s.readEntry (w.sreg an) (w.sreg (an + 1)) (k - 1) with
        | .stop s => s
        | .ok id rec s =>
          let (w', acc, n) := s.wave.gradEntry x.pred rec (w.sreg (an + 2)) bn
          let w' := w'.setV (bn + 44) (acc ++ copies 16 0)
          (s.setWave w').blended x an d.toNat (k - 1) (blendStatus id (recKind rec) false (n == 0) false)

def execVblendg (d a b : BitVec 7) (s : State) : Out := s.vblendgOp s.wave.engCompact d a b
def execVblendgLong (d a b : BitVec 7) (l : EL) (s : State) : Out := s.vblendgOp (engLong l) d a b

end Sys2Proof.Machine
end

