-- ==== Sys2Proof/Decode.lean ====
section
/-!
DEFINITION. The decoder of clause words (R66 to R94), total on any words, and the encoder. A word that the tables of R89
to R94 do not assign decodes to `unassignedOpcode` with that word (R87). Rows follow the tables of R89 to R94: a code, its
one-word form, and its two-word form at the code + 0x80 (R88).
-/
namespace Sys2Proof

/-! ### Fields -/

/-- `n` bits of a word from bit `lo` on. -/
abbrev bits (lo n : Nat) (w : BitVec 32) : BitVec n := w.extractLsb' lo n

/-- One bit of a word. -/
abbrev flag (i : Nat) (w : BitVec 32) : Bool := w.getLsbD i

/-- The second word of a long vector form (R71). -/
def VL.of (w : BitVec 32) : VL :=
  ⟨bits 24 8 w, bits 21 3 w, bits 19 2 w, bits 17 2 w, bits 14 3 w, bits 10 4 w, bits 8 2 w, flag 7 w, bits 3 4 w⟩

/-- The second word of a long memory form (R75). -/
def ML.of (w : BitVec 32) : ML :=
  ⟨bits 24 8 w, bits 21 3 w, bits 19 2 w, bits 17 2 w, bits 14 3 w, flag 13 w, flag 12 w, bits 9 3 w, flag 8 w, flag 7 w⟩

/-- The second word of a long engine form (R78). -/
def EL.of (w : BitVec 32) : EL :=
  ⟨bits 24 8 w, bits 21 3 w, bits 19 2 w, bits 17 2 w, bits 14 3 w, flag 13 w, flag 12 w, bits 9 3 w, flag 8 w⟩

/-- A row of the opcode map. -/
structure OpRow where
  code : Nat
  one : BitVec 32 → Instr
  two : BitVec 32 → BitVec 32 → Instr

/-- The long form that a code without a twin has (R88): none. -/
noncomputable abbrev noTwin (w _w2 : BitVec 32) : Instr := .unassignedOpcode w

/-- The one-word form of a code that is long only. -/
noncomputable abbrev longOnly (w : BitVec 32) : Instr := .unassignedOpcode w

/-- Look a code up. -/
def opFind : List OpRow → Nat → Option OpRow
  | [], _ => none
  | r :: rs, c => if r.code = c then some r else opFind rs c

/-- A fence by its KIND (R76); KIND 3 is reserved. -/
noncomputable def decodeFence (w : BitVec 32) : Instr :=
  if bits 11 2 w = 0 then .fence (bits 16 8 w) (bits 13 3 w)
  else if bits 11 2 w = 1 then .fenceAcq (bits 16 8 w) (bits 13 3 w)
  else if bits 11 2 w = 2 then .fenceRel (bits 16 8 w) (bits 13 3 w)
  else .unassignedOpcode w

/-- `mring` by its OP (R431); OP 2 and 3 are illegal. -/
noncomputable def decodeMring (w : BitVec 32) : Instr :=
  if bits 0 2 w = 0 then .mringConfig (bits 16 8 w)
  else if bits 0 2 w = 1 then .mringAdvance (bits 16 8 w)
  else .unassignedOpcode w

/-- `mreuse`; a reserved IMM16 value is illegal (R424, R431). -/
noncomputable def decodeMreuse (w : BitVec 32) : Instr :=
  if bits 3 13 w = 0 then .mreuse (bits 0 3 w) else .unassignedOpcode w

/-- `mbra`; a reserved IMM16 value is illegal (R424, R431). -/
noncomputable def decodeMbra (w w2 : BitVec 32) : Instr :=
  if bits 1 15 w = 0 then .mbra (bits 16 8 w) (flag 0 w) w2 else .unassignedOpcode w

/-- Opcode rows of the scalar class (R89), part 1. -/
noncomputable def scalarRows1 : List OpRow := [
  ⟨0x0, fun w => .sadd (bits 17 7 w) (bits 10 7 w) (bits 3 7 w) (bits 0 3 w), noTwin⟩,
  ⟨0x1, fun w => .ssub (bits 17 7 w) (bits 10 7 w) (bits 3 7 w) (bits 0 3 w), noTwin⟩,
  ⟨0x2, fun w => .smul (bits 17 7 w) (bits 10 7 w) (bits 3 7 w) (bits 0 3 w), noTwin⟩,
  ⟨0x3, fun w => .smulh (bits 17 7 w) (bits 10 7 w) (bits 3 7 w) (bits 0 3 w), noTwin⟩,
  ⟨0x4, fun w => .sdiv (bits 17 7 w) (bits 10 7 w) (bits 3 7 w) (bits 0 3 w), noTwin⟩,
  ⟨0x5, fun w => .srem (bits 17 7 w) (bits 10 7 w) (bits 3 7 w) (bits 0 3 w), noTwin⟩,
  ⟨0x6, fun w => .smin (bits 17 7 w) (bits 10 7 w) (bits 3 7 w) (bits 0 3 w), noTwin⟩,
  ⟨0x7, fun w => .smax (bits 17 7 w) (bits 10 7 w) (bits 3 7 w) (bits 0 3 w), noTwin⟩,
  ⟨0x8, fun w => .sand (bits 17 7 w) (bits 10 7 w) (bits 3 7 w) (bits 0 3 w), noTwin⟩,
  ⟨0x9, fun w => .sor (bits 17 7 w) (bits 10 7 w) (bits 3 7 w) (bits 0 3 w), noTwin⟩,
  ⟨0xa, fun w => .sxor (bits 17 7 w) (bits 10 7 w) (bits 3 7 w) (bits 0 3 w), noTwin⟩,
  ⟨0xb, fun w => .sandn (bits 17 7 w) (bits 10 7 w) (bits 3 7 w) (bits 0 3 w), noTwin⟩,
  ⟨0xc, fun w => .sshl (bits 17 7 w) (bits 10 7 w) (bits 3 7 w) (bits 0 3 w), noTwin⟩,
  ⟨0xd, fun w => .sshr (bits 17 7 w) (bits 10 7 w) (bits 3 7 w) (bits 0 3 w), noTwin⟩,
  ⟨0xe, fun w => .srot (bits 17 7 w) (bits 10 7 w) (bits 3 7 w) (bits 0 3 w), noTwin⟩,
  ⟨0xf, fun w => .sclz (bits 17 7 w) (bits 10 7 w) (bits 0 3 w), noTwin⟩]

/-- Opcode rows of the scalar class (R89), part 2. -/
noncomputable def scalarRows2 : List OpRow := [
  ⟨0x10, fun w => .seq (bits 17 7 w) (bits 10 7 w) (bits 3 7 w) (bits 0 3 w), noTwin⟩,
  ⟨0x11, fun w => .sne (bits 17 7 w) (bits 10 7 w) (bits 3 7 w) (bits 0 3 w), noTwin⟩,
  ⟨0x12, fun w => .slt (bits 17 7 w) (bits 10 7 w) (bits 3 7 w) (bits 0 3 w), noTwin⟩,
  ⟨0x13, fun w => .sle (bits 17 7 w) (bits 10 7 w) (bits 3 7 w) (bits 0 3 w), noTwin⟩,
  ⟨0x14, fun w => .ssel (bits 17 7 w) (bits 10 7 w) (bits 3 7 w) (bits 0 3 w), noTwin⟩,
  ⟨0x15, fun w => .spopc (bits 17 7 w) (bits 10 7 w) (bits 0 3 w), noTwin⟩,
  ⟨0x16, fun w => .sctz (bits 17 7 w) (bits 10 7 w) (bits 0 3 w), noTwin⟩,
  ⟨0x17, fun w => .sbrev (bits 17 7 w) (bits 10 7 w) (bits 0 3 w), noTwin⟩,
  ⟨0x18, fun w => .sbfx (bits 17 7 w) (bits 10 7 w) (bits 3 7 w) (bits 0 3 w), noTwin⟩,
  ⟨0x19, fun w => .sbfi (bits 17 7 w) (bits 10 7 w) (bits 3 7 w) (bits 0 3 w), noTwin⟩,
  ⟨0x1a, fun w => .smov (bits 17 7 w) (bits 10 7 w) (bits 0 3 w), noTwin⟩,
  ⟨0x20, fun w => .saddi (bits 17 7 w) (bits 10 7 w) (bits 0 10 w), fun w w2 => .saddiLong (bits 17 7 w) (bits 10 7 w) w2⟩,
  ⟨0x21, fun w => .smuli (bits 17 7 w) (bits 10 7 w) (bits 0 10 w), fun w w2 => .smuliLong (bits 17 7 w) (bits 10 7 w) w2⟩,
  ⟨0x22, fun w => .sandi (bits 17 7 w) (bits 10 7 w) (bits 0 10 w), fun w w2 => .sandiLong (bits 17 7 w) (bits 10 7 w) w2⟩,
  ⟨0x23, fun w => .sori (bits 17 7 w) (bits 10 7 w) (bits 0 10 w), fun w w2 => .soriLong (bits 17 7 w) (bits 10 7 w) w2⟩,
  ⟨0x24, fun w => .sxori (bits 17 7 w) (bits 10 7 w) (bits 0 10 w), fun w w2 => .sxoriLong (bits 17 7 w) (bits 10 7 w) w2⟩]

/-- Opcode rows of the scalar class (R89), part 3. -/
noncomputable def scalarRows3 : List OpRow := [
  ⟨0x25, fun w => .sshli (bits 17 7 w) (bits 10 7 w) (bits 0 10 w), fun w w2 => .sshliLong (bits 17 7 w) (bits 10 7 w) w2⟩,
  ⟨0x26, fun w => .sshri (bits 17 7 w) (bits 10 7 w) (bits 0 10 w), fun w w2 => .sshriLong (bits 17 7 w) (bits 10 7 w) w2⟩,
  ⟨0x27, fun w => .ssrai (bits 17 7 w) (bits 10 7 w) (bits 0 10 w), fun w w2 => .ssraiLong (bits 17 7 w) (bits 10 7 w) w2⟩,
  ⟨0x28, fun w => .seqi (bits 17 7 w) (bits 10 7 w) (bits 0 10 w), fun w w2 => .seqiLong (bits 17 7 w) (bits 10 7 w) w2⟩,
  ⟨0x29, fun w => .slti (bits 17 7 w) (bits 10 7 w) (bits 0 10 w), fun w w2 => .sltiLong (bits 17 7 w) (bits 10 7 w) w2⟩,
  ⟨0x2a, fun w => .sltni (bits 17 7 w) (bits 10 7 w) (bits 0 10 w), fun w w2 => .sltniLong (bits 17 7 w) (bits 10 7 w) w2⟩,
  ⟨0x2b, fun w => .smovi (bits 17 7 w) (bits 0 10 w), fun w w2 => .smoviLong (bits 17 7 w) w2⟩,
  ⟨0x30, fun w => .bra (bits 0 17 w), fun _ w2 => .braLong w2⟩,
  ⟨0x31, fun w => .bz (bits 17 7 w) (bits 0 17 w), fun w w2 => .bzLong (bits 17 7 w) w2⟩,
  ⟨0x32, fun w => .bnz (bits 17 7 w) (bits 0 17 w), fun w w2 => .bnzLong (bits 17 7 w) w2⟩,
  ⟨0x33, fun w => .call (bits 17 7 w) (bits 0 17 w), fun w w2 => .callLong (bits 17 7 w) w2⟩,
  ⟨0x34, fun w => .ret (bits 17 7 w), noTwin⟩,
  ⟨0x35, fun w => .brx (bits 17 7 w) (bits 0 17 w), noTwin⟩,
  ⟨0x36, fun w => .loop (bits 17 7 w) (bits 0 17 w), fun w w2 => .loopLong (bits 17 7 w) w2⟩,
  ⟨0x37, fun _ => .lpop, noTwin⟩,
  ⟨0x38, fun _ => .exit, noTwin⟩]

/-- Opcode rows of the scalar class (R89), part 4. -/
noncomputable def scalarRows4 : List OpRow := [
  ⟨0x39, fun _ => .tail, noTwin⟩,
  ⟨0x3a, fun w => .yield (bits 0 17 w), fun _ w2 => .yieldLong w2⟩,
  ⟨0x3b, fun _ => .nop, noTwin⟩,
  ⟨0x2c, longOnly, fun w w2 => .smovh (bits 17 7 w) w2⟩]

/-- Opcode rows of the scalar class (R89). -/
noncomputable def scalarRows : List OpRow := scalarRows1 ++ scalarRows2 ++ scalarRows3 ++ scalarRows4

/-- Opcode rows of the vector class (R90), part 1. -/
noncomputable def vectorRows1 : List OpRow := [
  ⟨0x0, fun w => .vadd (bits 16 8 w) (bits 8 8 w) (bits 0 8 w), fun w w2 => .vaddLong (bits 16 8 w) (bits 8 8 w) (bits 0 8 w) (VL.of w2)⟩,
  ⟨0x1, fun w => .vsub (bits 16 8 w) (bits 8 8 w) (bits 0 8 w), fun w w2 => .vsubLong (bits 16 8 w) (bits 8 8 w) (bits 0 8 w) (VL.of w2)⟩,
  ⟨0x2, fun w => .vmul (bits 16 8 w) (bits 8 8 w) (bits 0 8 w), fun w w2 => .vmulLong (bits 16 8 w) (bits 8 8 w) (bits 0 8 w) (VL.of w2)⟩,
  ⟨0x3, fun w => .vfma (bits 16 8 w) (bits 8 8 w) (bits 0 8 w), fun w w2 => .vfmaLong (bits 16 8 w) (bits 8 8 w) (bits 0 8 w) (VL.of w2)⟩,
  ⟨0x4, fun w => .vmin (bits 16 8 w) (bits 8 8 w) (bits 0 8 w), fun w w2 => .vminLong (bits 16 8 w) (bits 8 8 w) (bits 0 8 w) (VL.of w2)⟩,
  ⟨0x5, fun w => .vmax (bits 16 8 w) (bits 8 8 w) (bits 0 8 w), fun w w2 => .vmaxLong (bits 16 8 w) (bits 8 8 w) (bits 0 8 w) (VL.of w2)⟩,
  ⟨0x6, fun w => .vaddmin (bits 16 8 w) (bits 8 8 w) (bits 0 8 w), fun w w2 => .vaddminLong (bits 16 8 w) (bits 8 8 w) (bits 0 8 w) (VL.of w2)⟩,
  ⟨0x7, fun w => .vaddmax (bits 16 8 w) (bits 8 8 w) (bits 0 8 w), fun w w2 => .vaddmaxLong (bits 16 8 w) (bits 8 8 w) (bits 0 8 w) (VL.of w2)⟩,
  ⟨0x8, fun w => .vrcp (bits 16 8 w) (bits 8 8 w), fun w w2 => .vrcpLong (bits 16 8 w) (bits 8 8 w) (VL.of w2)⟩,
  ⟨0x9, fun w => .vsqrt (bits 16 8 w) (bits 8 8 w), fun w w2 => .vsqrtLong (bits 16 8 w) (bits 8 8 w) (VL.of w2)⟩,
  ⟨0xa, fun w => .vrsq (bits 16 8 w) (bits 8 8 w), fun w w2 => .vrsqLong (bits 16 8 w) (bits 8 8 w) (VL.of w2)⟩,
  ⟨0xb, fun w => .vexp2 (bits 16 8 w) (bits 8 8 w), fun w w2 => .vexp2Long (bits 16 8 w) (bits 8 8 w) (VL.of w2)⟩,
  ⟨0xc, fun w => .vlog2 (bits 16 8 w) (bits 8 8 w), fun w w2 => .vlog2Long (bits 16 8 w) (bits 8 8 w) (VL.of w2)⟩,
  ⟨0xd, fun w => .vsin (bits 16 8 w) (bits 8 8 w), fun w w2 => .vsinLong (bits 16 8 w) (bits 8 8 w) (VL.of w2)⟩,
  ⟨0xe, fun w => .vcos (bits 16 8 w) (bits 8 8 w), fun w w2 => .vcosLong (bits 16 8 w) (bits 8 8 w) (VL.of w2)⟩,
  ⟨0xf, fun w => .vrint (bits 16 8 w) (bits 8 8 w), fun w w2 => .vrintLong (bits 16 8 w) (bits 8 8 w) (VL.of w2)⟩]

/-- Opcode rows of the vector class (R90), part 2. -/
noncomputable def vectorRows2 : List OpRow := [
  ⟨0x10, fun w => .vand (bits 16 8 w) (bits 8 8 w) (bits 0 8 w), fun w w2 => .vandLong (bits 16 8 w) (bits 8 8 w) (bits 0 8 w) (VL.of w2)⟩,
  ⟨0x11, fun w => .vor (bits 16 8 w) (bits 8 8 w) (bits 0 8 w), fun w w2 => .vorLong (bits 16 8 w) (bits 8 8 w) (bits 0 8 w) (VL.of w2)⟩,
  ⟨0x12, fun w => .vxor (bits 16 8 w) (bits 8 8 w) (bits 0 8 w), fun w w2 => .vxorLong (bits 16 8 w) (bits 8 8 w) (bits 0 8 w) (VL.of w2)⟩,
  ⟨0x13, fun w => .vandn (bits 16 8 w) (bits 8 8 w) (bits 0 8 w), fun w w2 => .vandnLong (bits 16 8 w) (bits 8 8 w) (bits 0 8 w) (VL.of w2)⟩,
  ⟨0x14, fun w => .vshl (bits 16 8 w) (bits 8 8 w) (bits 0 8 w), fun w w2 => .vshlLong (bits 16 8 w) (bits 8 8 w) (bits 0 8 w) (VL.of w2)⟩,
  ⟨0x15, fun w => .vshr (bits 16 8 w) (bits 8 8 w) (bits 0 8 w), fun w w2 => .vshrLong (bits 16 8 w) (bits 8 8 w) (bits 0 8 w) (VL.of w2)⟩,
  ⟨0x16, fun w => .vmullo (bits 16 8 w) (bits 8 8 w) (bits 0 8 w), fun w w2 => .vmulloLong (bits 16 8 w) (bits 8 8 w) (bits 0 8 w) (VL.of w2)⟩,
  ⟨0x17, fun w => .vmulhi (bits 16 8 w) (bits 8 8 w) (bits 0 8 w), fun w w2 => .vmulhiLong (bits 16 8 w) (bits 8 8 w) (bits 0 8 w) (VL.of w2)⟩,
  ⟨0x18, fun w => .vpopc (bits 16 8 w) (bits 8 8 w), fun w w2 => .vpopcLong (bits 16 8 w) (bits 8 8 w) (VL.of w2)⟩,
  ⟨0x19, fun w => .vclz (bits 16 8 w) (bits 8 8 w), fun w w2 => .vclzLong (bits 16 8 w) (bits 8 8 w) (VL.of w2)⟩,
  ⟨0x20, fun w => .vcmpEqF32 (bits 16 3 w) (bits 8 8 w) (bits 0 8 w), fun w w2 => .vcmpEqF32Long (bits 16 3 w) (bits 8 8 w) (bits 0 8 w) (VL.of w2)⟩,
  ⟨0x21, fun w => .vcmpNeF32 (bits 16 3 w) (bits 8 8 w) (bits 0 8 w), fun w w2 => .vcmpNeF32Long (bits 16 3 w) (bits 8 8 w) (bits 0 8 w) (VL.of w2)⟩,
  ⟨0x22, fun w => .vcmpLtF32 (bits 16 3 w) (bits 8 8 w) (bits 0 8 w), fun w w2 => .vcmpLtF32Long (bits 16 3 w) (bits 8 8 w) (bits 0 8 w) (VL.of w2)⟩,
  ⟨0x23, fun w => .vcmpLeF32 (bits 16 3 w) (bits 8 8 w) (bits 0 8 w), fun w w2 => .vcmpLeF32Long (bits 16 3 w) (bits 8 8 w) (bits 0 8 w) (VL.of w2)⟩,
  ⟨0x24, fun w => .vcmpGtF32 (bits 16 3 w) (bits 8 8 w) (bits 0 8 w), fun w w2 => .vcmpGtF32Long (bits 16 3 w) (bits 8 8 w) (bits 0 8 w) (VL.of w2)⟩,
  ⟨0x25, fun w => .vcmpGeF32 (bits 16 3 w) (bits 8 8 w) (bits 0 8 w), fun w w2 => .vcmpGeF32Long (bits 16 3 w) (bits 8 8 w) (bits 0 8 w) (VL.of w2)⟩]

/-- Opcode rows of the vector class (R90), part 3. -/
noncomputable def vectorRows3 : List OpRow := [
  ⟨0x26, fun w => .vcmpEqI32 (bits 16 3 w) (bits 8 8 w) (bits 0 8 w), fun w w2 => .vcmpEqI32Long (bits 16 3 w) (bits 8 8 w) (bits 0 8 w) (VL.of w2)⟩,
  ⟨0x27, fun w => .vcmpNeI32 (bits 16 3 w) (bits 8 8 w) (bits 0 8 w), fun w w2 => .vcmpNeI32Long (bits 16 3 w) (bits 8 8 w) (bits 0 8 w) (VL.of w2)⟩,
  ⟨0x28, fun w => .vcmpLtI32 (bits 16 3 w) (bits 8 8 w) (bits 0 8 w), fun w w2 => .vcmpLtI32Long (bits 16 3 w) (bits 8 8 w) (bits 0 8 w) (VL.of w2)⟩,
  ⟨0x29, fun w => .vcmpLeI32 (bits 16 3 w) (bits 8 8 w) (bits 0 8 w), fun w w2 => .vcmpLeI32Long (bits 16 3 w) (bits 8 8 w) (bits 0 8 w) (VL.of w2)⟩,
  ⟨0x2a, fun w => .vcmpGtI32 (bits 16 3 w) (bits 8 8 w) (bits 0 8 w), fun w w2 => .vcmpGtI32Long (bits 16 3 w) (bits 8 8 w) (bits 0 8 w) (VL.of w2)⟩,
  ⟨0x2b, fun w => .vcmpGeI32 (bits 16 3 w) (bits 8 8 w) (bits 0 8 w), fun w w2 => .vcmpGeI32Long (bits 16 3 w) (bits 8 8 w) (bits 0 8 w) (VL.of w2)⟩,
  ⟨0x2c, fun w => .vcmpLtN32 (bits 16 3 w) (bits 8 8 w) (bits 0 8 w), fun w w2 => .vcmpLtN32Long (bits 16 3 w) (bits 8 8 w) (bits 0 8 w) (VL.of w2)⟩,
  ⟨0x2d, fun w => .vcmpLeN32 (bits 16 3 w) (bits 8 8 w) (bits 0 8 w), fun w w2 => .vcmpLeN32Long (bits 16 3 w) (bits 8 8 w) (bits 0 8 w) (VL.of w2)⟩,
  ⟨0x2e, fun w => .vcmpGtN32 (bits 16 3 w) (bits 8 8 w) (bits 0 8 w), fun w w2 => .vcmpGtN32Long (bits 16 3 w) (bits 8 8 w) (bits 0 8 w) (VL.of w2)⟩,
  ⟨0x2f, fun w => .vcmpGeN32 (bits 16 3 w) (bits 8 8 w) (bits 0 8 w), fun w w2 => .vcmpGeN32Long (bits 16 3 w) (bits 8 8 w) (bits 0 8 w) (VL.of w2)⟩,
  ⟨0x30, fun w => .vpack (bits 16 8 w) (bits 8 8 w) (bits 0 8 w), fun w w2 => .vpackLong (bits 16 8 w) (bits 8 8 w) (bits 0 8 w) (VL.of w2)⟩,
  ⟨0x31, fun w => .vunplo (bits 16 8 w) (bits 8 8 w), fun w w2 => .vunploLong (bits 16 8 w) (bits 8 8 w) (VL.of w2)⟩,
  ⟨0x32, fun w => .vunphi (bits 16 8 w) (bits 8 8 w), fun w w2 => .vunphiLong (bits 16 8 w) (bits 8 8 w) (VL.of w2)⟩,
  ⟨0x33, fun w => .vmov (bits 16 8 w) (bits 8 8 w), fun w w2 => .vmovLong (bits 16 8 w) (bits 8 8 w) (VL.of w2)⟩,
  ⟨0x34, fun w => .vbcst (bits 16 8 w) (bits 8 8 w) (bits 0 7 w), fun w w2 => .vbcstLong (bits 16 8 w) (bits 8 8 w) (bits 0 7 w) (VL.of w2)⟩,
  ⟨0x35, fun w => .vshfl (bits 16 8 w) (bits 8 8 w) (bits 0 8 w), fun w w2 => .vshflLong (bits 16 8 w) (bits 8 8 w) (bits 0 8 w) (VL.of w2)⟩]

/-- Opcode rows of the vector class (R90), part 4. -/
noncomputable def vectorRows4 : List OpRow := [
  ⟨0x36, fun w => .vbfly (bits 16 8 w) (bits 8 8 w) (bits 0 7 w), fun w w2 => .vbflyLong (bits 16 8 w) (bits 8 8 w) (bits 0 7 w) (VL.of w2)⟩,
  ⟨0x37, fun w => .vlsu (bits 16 8 w) (bits 8 8 w) (bits 0 7 w), fun w w2 => .vlsuLong (bits 16 8 w) (bits 8 8 w) (bits 0 7 w) (VL.of w2)⟩,
  ⟨0x38, fun w => .vlsd (bits 16 8 w) (bits 8 8 w) (bits 0 7 w), fun w w2 => .vlsdLong (bits 16 8 w) (bits 8 8 w) (bits 0 7 w) (VL.of w2)⟩,
  ⟨0x39, fun w => .vscan (bits 16 8 w) (bits 8 8 w), fun w w2 => .vscanLong (bits 16 8 w) (bits 8 8 w) (VL.of w2)⟩,
  ⟨0x3a, fun w => .vdot2 (bits 16 8 w) (bits 8 8 w) (bits 0 8 w), fun w w2 => .vdot2Long (bits 16 8 w) (bits 8 8 w) (bits 0 8 w) (VL.of w2)⟩,
  ⟨0x60, fun w => .vlane (bits 16 8 w), fun w w2 => .vcvt (bits 16 8 w) (bits 8 8 w) (bits 0 8 w) (VL.of w2)⟩,
  ⟨0x61, fun w => .vmovs (bits 16 8 w) (bits 8 7 w), noTwin⟩,
  ⟨0x62, fun w => .vgetr (bits 16 8 w) (bits 8 7 w), noTwin⟩,
  ⟨0x63, fun w => .vsetr (bits 16 7 w) (bits 8 8 w), noTwin⟩,
  ⟨0x64, fun w => .vgetl (bits 16 7 w) (bits 8 8 w) (bits 0 7 w), noTwin⟩,
  ⟨0x65, fun w => .vputl (bits 16 8 w) (bits 8 7 w) (bits 0 7 w), noTwin⟩,
  ⟨0x66, fun w => .vpand (bits 16 3 w) (bits 8 3 w) (bits 0 3 w), noTwin⟩,
  ⟨0x67, fun w => .vpor (bits 16 3 w) (bits 8 3 w) (bits 0 3 w), noTwin⟩,
  ⟨0x68, fun w => .vpxor (bits 16 3 w) (bits 8 3 w) (bits 0 3 w), noTwin⟩,
  ⟨0x69, fun w => .vpandn (bits 16 3 w) (bits 8 3 w) (bits 0 3 w), noTwin⟩,
  ⟨0x6a, fun w => .vpmov (bits 16 3 w) (bits 8 7 w), noTwin⟩]

/-- Opcode rows of the vector class (R90), part 5. -/
noncomputable def vectorRows5 : List OpRow := [
  ⟨0x6b, fun w => .vpget (bits 16 7 w) (bits 8 3 w), noTwin⟩,
  ⟨0x6c, fun w => .vvall (bits 16 7 w) (bits 8 3 w), noTwin⟩,
  ⟨0x6d, fun w => .vvany (bits 16 7 w) (bits 8 3 w), noTwin⟩,
  ⟨0x6e, fun w => .vpcnt (bits 16 7 w) (bits 8 3 w), noTwin⟩,
  ⟨0x6f, fun w => .vmovi (bits 16 8 w) (bits 0 8 w), noTwin⟩]

/-- Opcode rows of the vector class (R90). -/
noncomputable def vectorRows : List OpRow := vectorRows1 ++ vectorRows2 ++ vectorRows3 ++ vectorRows4 ++ vectorRows5

/-- Opcode rows of the memory class (R91), part 1. -/
noncomputable def memoryRows1 : List OpRow := [
  ⟨0x0, fun w => .sldN8 (bits 16 7 w) (bits 9 7 w) (bits 0 9 w), fun w w2 => .sldN8Long (bits 16 7 w) (bits 9 7 w) (bits 0 9 w) (ML.of w2)⟩,
  ⟨0x1, fun w => .sldI8 (bits 16 7 w) (bits 9 7 w) (bits 0 9 w), fun w w2 => .sldI8Long (bits 16 7 w) (bits 9 7 w) (bits 0 9 w) (ML.of w2)⟩,
  ⟨0x2, fun w => .sldN16 (bits 16 7 w) (bits 9 7 w) (bits 0 9 w), fun w w2 => .sldN16Long (bits 16 7 w) (bits 9 7 w) (bits 0 9 w) (ML.of w2)⟩,
  ⟨0x3, fun w => .sldI16 (bits 16 7 w) (bits 9 7 w) (bits 0 9 w), fun w w2 => .sldI16Long (bits 16 7 w) (bits 9 7 w) (bits 0 9 w) (ML.of w2)⟩,
  ⟨0x4, fun w => .sldN32 (bits 16 7 w) (bits 9 7 w) (bits 0 9 w), fun w w2 => .sldN32Long (bits 16 7 w) (bits 9 7 w) (bits 0 9 w) (ML.of w2)⟩,
  ⟨0x5, fun w => .sldI32 (bits 16 7 w) (bits 9 7 w) (bits 0 9 w), fun w w2 => .sldI32Long (bits 16 7 w) (bits 9 7 w) (bits 0 9 w) (ML.of w2)⟩,
  ⟨0x6, fun w => .sldN64 (bits 16 7 w) (bits 9 7 w) (bits 0 9 w), fun w w2 => .sldN64Long (bits 16 7 w) (bits 9 7 w) (bits 0 9 w) (ML.of w2)⟩,
  ⟨0x8, fun w => .sstN8 (bits 16 7 w) (bits 9 7 w) (bits 0 9 w), fun w w2 => .sstN8Long (bits 16 7 w) (bits 9 7 w) (bits 0 9 w) (ML.of w2)⟩,
  ⟨0x9, fun w => .sstN16 (bits 16 7 w) (bits 9 7 w) (bits 0 9 w), fun w w2 => .sstN16Long (bits 16 7 w) (bits 9 7 w) (bits 0 9 w) (ML.of w2)⟩,
  ⟨0xa, fun w => .sstN32 (bits 16 7 w) (bits 9 7 w) (bits 0 9 w), fun w w2 => .sstN32Long (bits 16 7 w) (bits 9 7 w) (bits 0 9 w) (ML.of w2)⟩,
  ⟨0xb, fun w => .sstN64 (bits 16 7 w) (bits 9 7 w) (bits 0 9 w), fun w w2 => .sstN64Long (bits 16 7 w) (bits 9 7 w) (bits 0 9 w) (ML.of w2)⟩,
  ⟨0x10, fun w => .vld (bits 16 8 w) (bits 9 7 w) (bits 0 9 w), fun w w2 => .vldLong (bits 16 8 w) (bits 9 7 w) (bits 0 9 w) (ML.of w2)⟩,
  ⟨0x11, fun w => .vst (bits 16 8 w) (bits 9 7 w) (bits 0 9 w), fun w w2 => .vstLong (bits 16 8 w) (bits 9 7 w) (bits 0 9 w) (ML.of w2)⟩,
  ⟨0x12, fun w => .vldx (bits 16 8 w) (bits 9 7 w) (flag 8 w) (bits 0 8 w), fun w w2 => .vldxLong (bits 16 8 w) (bits 9 7 w) (flag 8 w) (bits 0 8 w) (ML.of w2)⟩,
  ⟨0x13, fun w => .vstx (bits 16 8 w) (bits 9 7 w) (flag 8 w) (bits 0 8 w), fun w w2 => .vstxLong (bits 16 8 w) (bits 9 7 w) (flag 8 w) (bits 0 8 w) (ML.of w2)⟩,
  ⟨0x14, fun w => .vldro (bits 16 8 w) (bits 9 7 w) (bits 0 9 w), fun w w2 => .vldroLong (bits 16 8 w) (bits 9 7 w) (bits 0 9 w) (ML.of w2)⟩]

/-- Opcode rows of the memory class (R91), part 2. -/
noncomputable def memoryRows2 : List OpRow := [
  ⟨0x15, fun w => .vldrox (bits 16 8 w) (bits 9 7 w) (flag 8 w) (bits 0 8 w), fun w w2 => .vldroxLong (bits 16 8 w) (bits 9 7 w) (flag 8 w) (bits 0 8 w) (ML.of w2)⟩,
  ⟨0x16, fun w => .vldv (bits 16 8 w) (bits 9 7 w) (bits 0 9 w), fun w w2 => .vldvLong (bits 16 8 w) (bits 9 7 w) (bits 0 9 w) (ML.of w2)⟩,
  ⟨0x17, fun w => .vstv (bits 16 8 w) (bits 9 7 w) (bits 0 9 w), fun w w2 => .vstvLong (bits 16 8 w) (bits 9 7 w) (bits 0 9 w) (ML.of w2)⟩,
  ⟨0x18, fun w => .vldvx (bits 16 8 w) (bits 9 7 w) (flag 8 w) (bits 0 8 w), fun w w2 => .vldvxLong (bits 16 8 w) (bits 9 7 w) (flag 8 w) (bits 0 8 w) (ML.of w2)⟩,
  ⟨0x19, fun w => .vstvx (bits 16 8 w) (bits 9 7 w) (flag 8 w) (bits 0 8 w), fun w w2 => .vstvxLong (bits 16 8 w) (bits 9 7 w) (flag 8 w) (bits 0 8 w) (ML.of w2)⟩,
  ⟨0x1a, fun w => .vsts (bits 16 8 w) (bits 9 7 w) (bits 0 9 w), fun w w2 => .vstsLong (bits 16 8 w) (bits 9 7 w) (bits 0 9 w) (ML.of w2)⟩,
  ⟨0x20, fun w => .vaadd (bits 16 8 w) (bits 9 7 w) (flag 8 w) (bits 0 8 w), fun w w2 => .vaaddLong (bits 16 8 w) (bits 9 7 w) (flag 8 w) (bits 0 8 w) (ML.of w2)⟩,
  ⟨0x21, fun w => .vamin (bits 16 8 w) (bits 9 7 w) (flag 8 w) (bits 0 8 w), fun w w2 => .vaminLong (bits 16 8 w) (bits 9 7 w) (flag 8 w) (bits 0 8 w) (ML.of w2)⟩,
  ⟨0x22, fun w => .vamax (bits 16 8 w) (bits 9 7 w) (flag 8 w) (bits 0 8 w), fun w w2 => .vamaxLong (bits 16 8 w) (bits 9 7 w) (flag 8 w) (bits 0 8 w) (ML.of w2)⟩,
  ⟨0x23, fun w => .vaand (bits 16 8 w) (bits 9 7 w) (flag 8 w) (bits 0 8 w), fun w w2 => .vaandLong (bits 16 8 w) (bits 9 7 w) (flag 8 w) (bits 0 8 w) (ML.of w2)⟩,
  ⟨0x24, fun w => .vaor (bits 16 8 w) (bits 9 7 w) (flag 8 w) (bits 0 8 w), fun w w2 => .vaorLong (bits 16 8 w) (bits 9 7 w) (flag 8 w) (bits 0 8 w) (ML.of w2)⟩,
  ⟨0x25, fun w => .vaxor (bits 16 8 w) (bits 9 7 w) (flag 8 w) (bits 0 8 w), fun w w2 => .vaxorLong (bits 16 8 w) (bits 9 7 w) (flag 8 w) (bits 0 8 w) (ML.of w2)⟩,
  ⟨0x26, fun w => .vaxchg (bits 16 8 w) (bits 9 7 w) (flag 8 w) (bits 0 8 w), fun w w2 => .vaxchgLong (bits 16 8 w) (bits 9 7 w) (flag 8 w) (bits 0 8 w) (ML.of w2)⟩,
  ⟨0x27, fun w => .vacas (bits 16 8 w) (bits 9 7 w) (flag 8 w) (bits 0 8 w), fun w w2 => .vacasLong (bits 16 8 w) (bits 9 7 w) (flag 8 w) (bits 0 8 w) (ML.of w2)⟩,
  ⟨0x28, fun w => .vafadd (bits 16 8 w) (bits 9 7 w) (flag 8 w) (bits 0 8 w), fun w w2 => .vafaddLong (bits 16 8 w) (bits 9 7 w) (flag 8 w) (bits 0 8 w) (ML.of w2)⟩,
  ⟨0x29, fun w => .vafmin (bits 16 8 w) (bits 9 7 w) (flag 8 w) (bits 0 8 w), fun w w2 => .vafminLong (bits 16 8 w) (bits 9 7 w) (flag 8 w) (bits 0 8 w) (ML.of w2)⟩]

/-- Opcode rows of the memory class (R91), part 3. -/
noncomputable def memoryRows3 : List OpRow := [
  ⟨0x2a, fun w => .vafmax (bits 16 8 w) (bits 9 7 w) (flag 8 w) (bits 0 8 w), fun w w2 => .vafmaxLong (bits 16 8 w) (bits 9 7 w) (flag 8 w) (bits 0 8 w) (ML.of w2)⟩,
  ⟨0x30, fun w => .vredadd (bits 16 8 w) (bits 9 7 w) (flag 8 w) (bits 0 8 w), fun w w2 => .vredaddLong (bits 16 8 w) (bits 9 7 w) (flag 8 w) (bits 0 8 w) (ML.of w2)⟩,
  ⟨0x31, fun w => .vredmin (bits 16 8 w) (bits 9 7 w) (flag 8 w) (bits 0 8 w), fun w w2 => .vredminLong (bits 16 8 w) (bits 9 7 w) (flag 8 w) (bits 0 8 w) (ML.of w2)⟩,
  ⟨0x32, fun w => .vredmax (bits 16 8 w) (bits 9 7 w) (flag 8 w) (bits 0 8 w), fun w w2 => .vredmaxLong (bits 16 8 w) (bits 9 7 w) (flag 8 w) (bits 0 8 w) (ML.of w2)⟩,
  ⟨0x33, fun w => .vredand (bits 16 8 w) (bits 9 7 w) (flag 8 w) (bits 0 8 w), fun w w2 => .vredandLong (bits 16 8 w) (bits 9 7 w) (flag 8 w) (bits 0 8 w) (ML.of w2)⟩,
  ⟨0x34, fun w => .vredor (bits 16 8 w) (bits 9 7 w) (flag 8 w) (bits 0 8 w), fun w w2 => .vredorLong (bits 16 8 w) (bits 9 7 w) (flag 8 w) (bits 0 8 w) (ML.of w2)⟩,
  ⟨0x35, fun w => .vredxor (bits 16 8 w) (bits 9 7 w) (flag 8 w) (bits 0 8 w), fun w w2 => .vredxorLong (bits 16 8 w) (bits 9 7 w) (flag 8 w) (bits 0 8 w) (ML.of w2)⟩,
  ⟨0x36, fun w => .vredfadd (bits 16 8 w) (bits 9 7 w) (flag 8 w) (bits 0 8 w), fun w w2 => .vredfaddLong (bits 16 8 w) (bits 9 7 w) (flag 8 w) (bits 0 8 w) (ML.of w2)⟩,
  ⟨0x37, fun w => .vredfmin (bits 16 8 w) (bits 9 7 w) (flag 8 w) (bits 0 8 w), fun w w2 => .vredfminLong (bits 16 8 w) (bits 9 7 w) (flag 8 w) (bits 0 8 w) (ML.of w2)⟩,
  ⟨0x38, fun w => .vredfmax (bits 16 8 w) (bits 9 7 w) (flag 8 w) (bits 0 8 w), fun w w2 => .vredfmaxLong (bits 16 8 w) (bits 9 7 w) (flag 8 w) (bits 0 8 w) (ML.of w2)⟩,
  ⟨0x40, fun w => .sseqadd (bits 16 7 w) (bits 9 7 w) (bits 0 9 w), fun w w2 => .sseqaddLong (bits 16 7 w) (bits 9 7 w) (bits 0 9 w) (ML.of w2)⟩,
  ⟨0x41, fun w => .sarwait (bits 16 7 w) (bits 9 7 w) (bits 0 9 w), fun w w2 => .sarwaitLong (bits 16 7 w) (bits 9 7 w) (bits 0 9 w) (ML.of w2)⟩,
  ⟨0x42, fun w => .saadd (bits 16 7 w) (bits 9 7 w) (bits 0 9 w), fun w w2 => .saaddLong (bits 16 7 w) (bits 9 7 w) (bits 0 9 w) (ML.of w2)⟩,
  ⟨0x43, fun w => .sacas (bits 16 7 w) (bits 9 7 w) (bits 0 9 w), fun w w2 => .sacasLong (bits 16 7 w) (bits 9 7 w) (bits 0 9 w) (ML.of w2)⟩,
  ⟨0x50, decodeFence, noTwin⟩,
  ⟨0x51, fun _ => .roinv, noTwin⟩]

/-- Opcode rows of the memory class (R91), part 4. -/
noncomputable def memoryRows4 : List OpRow := [
  ⟨0x52, fun w => .vpref (bits 9 7 w) (bits 0 9 w), noTwin⟩,
  ⟨0x53, fun w => .spref (bits 9 7 w) (bits 0 9 w), noTwin⟩]

/-- Opcode rows of the memory class (R91). -/
noncomputable def memoryRows : List OpRow := memoryRows1 ++ memoryRows2 ++ memoryRows3 ++ memoryRows4

/-- Opcode rows of the matrix class (R92), part 1. -/
noncomputable def matrixRows1 : List OpRow := [
  ⟨0x0, fun w => .mma (bits 17 7 w) (bits 12 5 w) (bits 7 5 w) (flag 6 w) (bits 2 4 w), fun w w2 => .mmaLong (bits 17 7 w) (bits 12 5 w) (bits 7 5 w) (flag 6 w) (bits 2 4 w) w2⟩,
  ⟨0x1, fun w => .mdual (bits 17 7 w) (bits 12 5 w) (bits 7 5 w) (flag 6 w) (bits 2 4 w), fun w w2 => .mdualLong (bits 17 7 w) (bits 12 5 w) (bits 7 5 w) (flag 6 w) (bits 2 4 w) w2⟩,
  ⟨0x2, fun w => .mclr (bits 17 7 w) (flag 6 w) (bits 2 4 w), noTwin⟩,
  ⟨0x3, fun w => .mdrain (bits 17 7 w) (bits 12 5 w) (flag 6 w) (bits 2 4 w), fun w w2 => .mdrainLong (bits 17 7 w) (bits 12 5 w) (flag 6 w) (bits 2 4 w) w2⟩,
  ⟨0x4, fun w => .mstash (bits 17 7 w) (bits 12 5 w) (flag 6 w) (bits 2 4 w), fun w w2 => .mstashLong (bits 17 7 w) (bits 12 5 w) (flag 6 w) (bits 2 4 w) w2⟩,
  ⟨0x5, fun w => .mmaxr (bits 12 5 w) (flag 6 w) (bits 2 4 w), noTwin⟩,
  ⟨0x6, decodeMring, noTwin⟩,
  ⟨0x7, fun w => .mtqset (bits 16 8 w) (bits 0 16 w), noTwin⟩,
  ⟨0x8, fun w => .mwait (bits 16 8 w), noTwin⟩,
  ⟨0x9, fun w => .marrive (bits 16 8 w), noTwin⟩,
  ⟨0xa, fun w => .mfmt (bits 16 8 w), fun w w2 => .mfmtLong (bits 16 8 w) w2⟩,
  ⟨0xb, fun _ => .mend, fun w w2 => .mdesc (bits 16 8 w) w2⟩,
  ⟨0xc, decodeMreuse, noTwin⟩,
  ⟨0xd, fun _ => .mnop, fun w w2 => .mloop (bits 0 16 w) w2⟩,
  ⟨0xe, longOnly, decodeMbra⟩]

/-- Opcode rows of the matrix class (R92). -/
noncomputable def matrixRows : List OpRow := matrixRows1

/-- Opcode rows of the engine class (R93), part 1. -/
noncomputable def engineRows1 : List OpRow := [
  ⟨0x0, fun w => .kemit (bits 16 8 w) (bits 9 7 w) (bits 2 7 w), fun w w2 => .kemitLong (bits 16 8 w) (bits 9 7 w) (bits 2 7 w) (EL.of w2)⟩,
  ⟨0x1, fun w => .srtrun (bits 16 7 w) (bits 9 7 w) (bits 2 7 w), fun w w2 => .srtrunLong (bits 16 7 w) (bits 9 7 w) (bits 2 7 w) (EL.of w2)⟩,
  ⟨0x2, fun w => .srtmrg (bits 16 7 w) (bits 9 7 w) (bits 2 7 w), fun w w2 => .srtmrgLong (bits 16 7 w) (bits 9 7 w) (bits 2 7 w) (EL.of w2)⟩,
  ⟨0x3, fun w => .srttab (bits 16 7 w) (bits 9 7 w) (bits 2 7 w), fun w w2 => .srttabLong (bits 16 7 w) (bits 9 7 w) (bits 2 7 w) (EL.of w2)⟩,
  ⟨0x4, fun w => .vblend (bits 16 7 w) (bits 9 7 w) (bits 2 7 w), fun w w2 => .vblendLong (bits 16 7 w) (bits 9 7 w) (bits 2 7 w) (EL.of w2)⟩,
  ⟨0x5, fun w => .vblendg (bits 16 7 w) (bits 9 7 w) (bits 2 7 w), fun w w2 => .vblendgLong (bits 16 7 w) (bits 9 7 w) (bits 2 7 w) (EL.of w2)⟩,
  ⟨0x6, fun w => .gdeg (bits 16 7 w) (bits 9 7 w) (bits 2 7 w), fun w w2 => .gdegLong (bits 16 7 w) (bits 9 7 w) (bits 2 7 w) (EL.of w2)⟩,
  ⟨0x7, fun w => .gdes (bits 16 7 w) (bits 9 7 w) (bits 2 7 w), fun w w2 => .gdesLong (bits 16 7 w) (bits 9 7 w) (bits 2 7 w) (EL.of w2)⟩,
  ⟨0x8, fun w => .claimPost (bits 16 7 w) (bits 9 7 w) (bits 2 7 w), fun w w2 => .claimPostLong (bits 16 7 w) (bits 9 7 w) (bits 2 7 w) (EL.of w2)⟩,
  ⟨0x9, fun w => .claimTake (bits 16 7 w) (bits 9 7 w) (bits 2 7 w), fun w w2 => .claimTakeLong (bits 16 7 w) (bits 9 7 w) (bits 2 7 w) (EL.of w2)⟩,
  ⟨0xa, fun w => .claimDone (bits 16 7 w), fun w w2 => .claimDoneLong (bits 16 7 w) (EL.of w2)⟩,
  ⟨0xb, fun w => .taskPush (bits 16 7 w) (bits 9 7 w) (bits 2 7 w), fun w w2 => .taskPushLong (bits 16 7 w) (bits 9 7 w) (bits 2 7 w) (EL.of w2)⟩,
  ⟨0xc, fun w => .taskSpawn (bits 16 7 w) (bits 9 7 w) (bits 2 7 w), fun w w2 => .taskSpawnLong (bits 16 7 w) (bits 9 7 w) (bits 2 7 w) (EL.of w2)⟩,
  ⟨0xd, fun w => .wpset (bits 16 7 w) (bits 9 7 w) (bits 2 7 w), fun w w2 => .wpsetLong (bits 16 7 w) (bits 9 7 w) (bits 2 7 w) (EL.of w2)⟩,
  ⟨0xe, fun w => .wpclr (bits 16 7 w) (bits 9 7 w), fun w w2 => .wpclrLong (bits 16 7 w) (bits 9 7 w) (EL.of w2)⟩,
  ⟨0x10, fun w => .cpy (bits 16 7 w) (bits 9 7 w) (bits 2 7 w), fun w w2 => .cpyLong (bits 16 7 w) (bits 9 7 w) (bits 2 7 w) (EL.of w2)⟩]

/-- Opcode rows of the engine class (R93), part 2. -/
noncomputable def engineRows2 : List OpRow := [
  ⟨0x11, fun w => .cpym (bits 16 7 w) (bits 9 7 w) (bits 2 7 w), fun w w2 => .cpymLong (bits 16 7 w) (bits 9 7 w) (bits 2 7 w) (EL.of w2)⟩,
  ⟨0x12, fun w => .cpydrn (bits 16 7 w) (bits 9 7 w) (bits 2 7 w), fun w w2 => .cpydrnLong (bits 16 7 w) (bits 9 7 w) (bits 2 7 w) (EL.of w2)⟩,
  ⟨0x13, fun w => .cstage (bits 16 7 w) (bits 9 7 w), fun w w2 => .cstageLong (bits 16 7 w) (bits 9 7 w) (EL.of w2)⟩,
  ⟨0x18, fun w => .colRun (bits 16 7 w) (bits 9 7 w) (bits 2 7 w), fun w w2 => .colRunLong (bits 16 7 w) (bits 9 7 w) (bits 2 7 w) (EL.of w2)⟩,
  ⟨0x19, fun w => .colSend (bits 9 7 w) (bits 2 7 w), noTwin⟩,
  ⟨0x1a, fun w => .colRed (bits 9 7 w) (bits 2 7 w), noTwin⟩,
  ⟨0x1b, fun _ => .colStep, noTwin⟩,
  ⟨0x1c, fun _ => .colEnd, noTwin⟩,
  ⟨0x1d, fun w => .colSig (bits 9 7 w) (bits 2 7 w), noTwin⟩,
  ⟨0x20, fun w => .fblkw (bits 16 7 w) (bits 9 7 w) (bits 2 7 w), fun w w2 => .fblkwLong (bits 16 7 w) (bits 9 7 w) (bits 2 7 w) (EL.of w2)⟩,
  ⟨0x21, fun w => .fblkr (bits 16 7 w) (bits 9 7 w) (bits 2 7 w), fun w w2 => .fblkrLong (bits 16 7 w) (bits 9 7 w) (bits 2 7 w) (EL.of w2)⟩,
  ⟨0x22, fun w => .fld (bits 16 7 w) (bits 9 7 w), fun w w2 => .fldLong (bits 16 7 w) (bits 9 7 w) (EL.of w2)⟩,
  ⟨0x23, fun w => .fst (bits 16 7 w) (bits 9 7 w) (bits 2 7 w), fun w w2 => .fstLong (bits 16 7 w) (bits 9 7 w) (bits 2 7 w) (EL.of w2)⟩,
  ⟨0x24, fun w => .stepArrive (bits 16 7 w), fun w w2 => .stepArriveLong (bits 16 7 w) (EL.of w2)⟩,
  ⟨0x25, fun w => .stepWait (bits 16 7 w), fun w w2 => .stepWaitLong (bits 16 7 w) (EL.of w2)⟩,
  ⟨0x26, fun w => .arrtgt (bits 16 7 w) (bits 9 7 w), fun w w2 => .arrtgtLong (bits 16 7 w) (bits 9 7 w) (EL.of w2)⟩]

/-- Opcode rows of the engine class (R93), part 3. -/
noncomputable def engineRows3 : List OpRow := [
  ⟨0x27, fun w => .lnkdrn (bits 16 7 w) (bits 9 7 w), fun w w2 => .lnkdrnLong (bits 16 7 w) (bits 9 7 w) (EL.of w2)⟩,
  ⟨0x28, fun w => .lnkctlRead (bits 16 7 w) (bits 9 7 w) (bits 2 7 w), fun w w2 => .lnkctlLong (bits 16 7 w) (bits 9 7 w) (bits 2 7 w) (EL.of w2)⟩]

/-- Opcode rows of the engine class (R93). -/
noncomputable def engineRows : List OpRow := engineRows1 ++ engineRows2 ++ engineRows3

/-- Opcode rows of the system class (R94), part 1. -/
noncomputable def systemRows1 : List OpRow := [
  ⟨0x0, fun w => .mfs (bits 17 7 w) (bits 0 10 w), noTwin⟩,
  ⟨0x1, fun w => .mts (bits 10 7 w) (bits 0 10 w), noTwin⟩,
  ⟨0x2, fun w => if bits 0 10 w = 5 then .barPod else .bar (bits 0 10 w), noTwin⟩,
  ⟨0x3, fun w => .nbarw (bits 17 7 w) (bits 0 10 w), noTwin⟩,
  ⟨0x4, fun w => .nbarr (bits 0 10 w), noTwin⟩,
  ⟨0x5, fun w => .nbwait (bits 10 7 w) (bits 0 10 w), noTwin⟩,
  ⟨0x6, fun w => .nbinit (bits 10 7 w) (bits 0 10 w), noTwin⟩,
  ⟨0x7, fun w => .trap (bits 0 10 w), noTwin⟩,
  ⟨0x8, fun _ => .rft, noTwin⟩,
  ⟨0x9, fun w => .brk (bits 0 10 w), fun w w2 => .phint (bits 22 2 w) (bits 16 6 w) (bits 0 16 w) w2⟩]

/-- Opcode rows of the system class (R94). -/
noncomputable def systemRows : List OpRow := systemRows1

/-- The opcode rows of a class; classes 6 and 7 have none (R56). -/
noncomputable def opRows : Nat → List OpRow
  | 0 => scalarRows
  | 1 => vectorRows
  | 2 => memoryRows
  | 3 => matrixRows
  | 4 => engineRows
  | 5 => systemRows
  | _ => []

/-- The opcode of a word. -/
abbrev opOf (w : BitVec 32) : Nat := (bits 24 8 w).toNat

/-- Decode an instruction word of a class, with the word after it (R58, R87). -/
noncomputable def decode (cls : Nat) (w w2 : BitVec 32) : Instr :=
  if 0xf0 ≤ opOf w then .hint (bits 24 4 w)
  else match opFind (opRows cls) (opOf w % 128) with
    | none => .unassignedOpcode w
    | some r => if opOf w < 0x80 then r.one w else r.two w w2

/-- The classes in the order in which a word of the opcode table, which names no class, is tried (log 4). -/
noncomputable def tableDecode (w w2 : BitVec 32) : (cls : List Nat) → Instr
  | [] => .unassignedOpcode w
  | c :: cs => match decode c w w2 with
    | .unassignedOpcode _ => tableDecode w w2 cs
    | i => i

/-- The instruction read from a word of the opcode table: bits 31 to 0 are the first word, bits 63 to 32 the second. -/
noncomputable def decodeTableWord (_nbits w : Nat) : Option Instr :=
  some (tableDecode (BitVec.ofNat 32 w) (BitVec.ofNat 32 (w / 2 ^ 32)) [0, 1, 2, 3, 4, 5])

/-! ### The encoder -/

/-- The second words of long forms (R71, R75, R78), reserved bits 0. -/
def VL.word (l : VL) : BitVec 32 :=
  l.c ++ l.pred ++ l.exh ++ l.exw ++ l.fe ++ l.type ++ l.rnd ++ BitVec.ofBool l.sat ++ l.mod ++ (0 : BitVec 3)
def ML.word (l : ML) : BitVec 32 :=
  l.fmt8 ++ l.pred ++ l.exh ++ l.exw ++ l.fe ++ BitVec.ofBool l.acq ++ BitVec.ofBool l.rel ++ l.scope ++
    BitVec.ofBool l.rlx ++ BitVec.ofBool l.nt ++ (0 : BitVec 7)
def EL.word (l : EL) : BitVec 32 :=
  l.c ++ l.pred ++ l.exh ++ l.exw ++ l.fe ++ BitVec.ofBool l.acq ++ BitVec.ofBool l.rel ++ l.scope ++
    BitVec.ofBool l.rlx ++ (0 : BitVec 8)

/-- First words by format (R68, R70, R74, R77, R78, R79), reserved and unused bits 0. -/
def encSC (op : BitVec 8) (d a b : BitVec 7) (t : BitVec 3) : BitVec 32 := op ++ d ++ a ++ b ++ t
def encSI (op : BitVec 8) (d a : BitVec 7) (imm : BitVec 10) : BitVec 32 := op ++ d ++ a ++ imm
def encSB (op : BitVec 8) (a : BitVec 7) (off : BitVec 17) : BitVec 32 := op ++ a ++ off
def encVC (op : BitVec 8) (d a b : BitVec 8) : BitVec 32 := op ++ d ++ a ++ b
def encMD (op : BitVec 8) (d : BitVec 8) (a : BitVec 7) (off : BitVec 9) : BitVec 32 := op ++ d ++ a ++ off
def encMX (op : BitVec 8) (d : BitVec 8) (a : BitVec 7) (sc : Bool) (x : BitVec 8) : BitVec 32 :=
  op ++ d ++ a ++ BitVec.ofBool sc ++ x
def encMF (op : BitVec 8) (paths : BitVec 8) (scope : BitVec 3) (kind : BitVec 2) : BitVec 32 :=
  op ++ paths ++ scope ++ kind ++ (0 : BitVec 11)
def encMT (op : BitVec 8) (t : BitVec 7) (x y : BitVec 5) (qn : Bool) (q : BitVec 4) : BitVec 32 :=
  op ++ t ++ x ++ y ++ BitVec.ofBool qn ++ q ++ (0 : BitVec 2)
def encMK (op : BitVec 8) (n : BitVec 8) (imm : BitVec 16) : BitVec 32 := op ++ n ++ imm
def encEC (op : BitVec 8) (d : BitVec 8) (a b : BitVec 7) : BitVec 32 := op ++ d ++ a ++ b ++ (0 : BitVec 2)
def encSY (op : BitVec 8) (d a : BitVec 7) (imm : BitVec 10) : BitVec 32 := op ++ d ++ a ++ imm

/-- An operand of 7 or 3 bits in a field of 8 (R70, R74). -/
abbrev in8 {n : Nat} (x : BitVec n) : BitVec 8 := x.setWidth 8

/-- The words of an instruction; an instruction without an encoding has none. -/
def encode : Instr → List (BitVec 32)
  | .sadd d a b t => [encSC 0x00 d a b t]
  | .ssub d a b t => [encSC 0x01 d a b t]
  | .smul d a b t => [encSC 0x02 d a b t]
  | .smulh d a b t => [encSC 0x03 d a b t]
  | .sdiv d a b t => [encSC 0x04 d a b t]
  | .srem d a b t => [encSC 0x05 d a b t]
  | .smin d a b t => [encSC 0x06 d a b t]
  | .smax d a b t => [encSC 0x07 d a b t]
  | .sand d a b t => [encSC 0x08 d a b t]
  | .sor d a b t => [encSC 0x09 d a b t]
  | .sxor d a b t => [encSC 0x0a d a b t]
  | .sandn d a b t => [encSC 0x0b d a b t]
  | .sshl d a b t => [encSC 0x0c d a b t]
  | .sshr d a b t => [encSC 0x0d d a b t]
  | .srot d a b t => [encSC 0x0e d a b t]
  | .sclz d a t => [encSC 0x0f d a 0 t]
  | .seq d a b t => [encSC 0x10 d a b t]
  | .sne d a b t => [encSC 0x11 d a b t]
  | .slt d a b t => [encSC 0x12 d a b t]
  | .sle d a b t => [encSC 0x13 d a b t]
  | .ssel d a b t => [encSC 0x14 d a b t]
  | .spopc d a t => [encSC 0x15 d a 0 t]
  | .sctz d a t => [encSC 0x16 d a 0 t]
  | .sbrev d a t => [encSC 0x17 d a 0 t]
  | .sbfx d a b t => [encSC 0x18 d a b t]
  | .sbfi d a b t => [encSC 0x19 d a b t]
  | .smov d a t => [encSC 0x1a d a 0 t]
  | .saddi d a imm => [encSI 0x20 d a imm]
  | .smuli d a imm => [encSI 0x21 d a imm]
  | .sandi d a imm => [encSI 0x22 d a imm]
  | .sori d a imm => [encSI 0x23 d a imm]
  | .sxori d a imm => [encSI 0x24 d a imm]
  | .sshli d a imm => [encSI 0x25 d a imm]
  | .sshri d a imm => [encSI 0x26 d a imm]
  | .ssrai d a imm => [encSI 0x27 d a imm]
  | .seqi d a imm => [encSI 0x28 d a imm]
  | .slti d a imm => [encSI 0x29 d a imm]
  | .sltni d a imm => [encSI 0x2a d a imm]
  | .smovi d imm => [encSI 0x2b d 0 imm]
  | .saddiLong d a imm => [encSI 0xa0 d a 0, imm]
  | .smuliLong d a imm => [encSI 0xa1 d a 0, imm]
  | .sandiLong d a imm => [encSI 0xa2 d a 0, imm]
  | .soriLong d a imm => [encSI 0xa3 d a 0, imm]
  | .sxoriLong d a imm => [encSI 0xa4 d a 0, imm]
  | .sshliLong d a imm => [encSI 0xa5 d a 0, imm]
  | .sshriLong d a imm => [encSI 0xa6 d a 0, imm]
  | .ssraiLong d a imm => [encSI 0xa7 d a 0, imm]
  | .seqiLong d a imm => [encSI 0xa8 d a 0, imm]
  | .sltiLong d a imm => [encSI 0xa9 d a 0, imm]
  | .sltniLong d a imm => [encSI 0xaa d a 0, imm]
  | .smoviLong d imm => [encSI 0xab d 0 0, imm]
  | .smovh d imm => [encSI 0xac d 0 0, imm]
  | .bra off => [encSB 0x30 0 off]
  | .bz a off => [encSB 0x31 a off]
  | .bnz a off => [encSB 0x32 a off]
  | .call a off => [encSB 0x33 a off]
  | .ret a => [encSB 0x34 a 0]
  | .brx a off => [encSB 0x35 a off]
  | .loop a off => [encSB 0x36 a off]
  | .lpop => [encSB 0x37 0 0]
  | .exit => [encSB 0x38 0 0]
  | .tail => [encSB 0x39 0 0]
  | .yield off => [encSB 0x3a 0 off]
  | .nop => [encSB 0x3b 0 0]
  | .braLong off => [encSB 0xb0 0 0, off]
  | .bzLong a off => [encSB 0xb1 a 0, off]
  | .bnzLong a off => [encSB 0xb2 a 0, off]
  | .callLong a off => [encSB 0xb3 a 0, off]
  | .loopLong a off => [encSB 0xb6 a 0, off]
  | .yieldLong off => [encSB 0xba 0 0, off]
  | .hint lo => [(0xf : BitVec 4) ++ lo ++ (0 : BitVec 24)]
  | .mfs d n => [encSY 0x00 d 0 n]
  | .mts a n => [encSY 0x01 0 a n]
  | .bar n => [encSY 0x02 0 0 n]
  | .barPod => [encSY 0x02 0 0 5]
  | .nbarw d n => [encSY 0x03 d 0 n]
  | .nbarr n => [encSY 0x04 0 0 n]
  | .nbwait a n => [encSY 0x05 0 a n]
  | .nbinit a n => [encSY 0x06 0 a n]
  | .trap code => [encSY 0x07 0 0 code]
  | .rft => [encSY 0x08 0 0 0]
  | .brk code => [encSY 0x09 0 0 code]
  | .phint nm ap smap vmap => [(0x89 : BitVec 8) ++ nm ++ ap ++ smap, vmap]
  | .vadd d a b => [encVC 0x00 d a b]
  | .vsub d a b => [encVC 0x01 d a b]
  | .vmul d a b => [encVC 0x02 d a b]
  | .vfma d a b => [encVC 0x03 d a b]
  | .vmin d a b => [encVC 0x04 d a b]
  | .vmax d a b => [encVC 0x05 d a b]
  | .vaddmin d a b => [encVC 0x06 d a b]
  | .vaddmax d a b => [encVC 0x07 d a b]
  | .vrcp d a => [encVC 0x08 d a 0]
  | .vsqrt d a => [encVC 0x09 d a 0]
  | .vrsq d a => [encVC 0x0a d a 0]
  | .vexp2 d a => [encVC 0x0b d a 0]
  | .vlog2 d a => [encVC 0x0c d a 0]
  | .vsin d a => [encVC 0x0d d a 0]
  | .vcos d a => [encVC 0x0e d a 0]
  | .vrint d a => [encVC 0x0f d a 0]
  | .vand d a b => [encVC 0x10 d a b]
  | .vor d a b => [encVC 0x11 d a b]
  | .vxor d a b => [encVC 0x12 d a b]
  | .vandn d a b => [encVC 0x13 d a b]
  | .vshl d a b => [encVC 0x14 d a b]
  | .vshr d a b => [encVC 0x15 d a b]
  | .vmullo d a b => [encVC 0x16 d a b]
  | .vmulhi d a b => [encVC 0x17 d a b]
  | .vpopc d a => [encVC 0x18 d a 0]
  | .vclz d a => [encVC 0x19 d a 0]
  | .vcmpEqF32 d a b => [encVC 0x20 (in8 d) a b]
  | .vcmpNeF32 d a b => [encVC 0x21 (in8 d) a b]
  | .vcmpLtF32 d a b => [encVC 0x22 (in8 d) a b]
  | .vcmpLeF32 d a b => [encVC 0x23 (in8 d) a b]
  | .vcmpGtF32 d a b => [encVC 0x24 (in8 d) a b]
  | .vcmpGeF32 d a b => [encVC 0x25 (in8 d) a b]
  | .vcmpEqI32 d a b => [encVC 0x26 (in8 d) a b]
  | .vcmpNeI32 d a b => [encVC 0x27 (in8 d) a b]
  | .vcmpLtI32 d a b => [encVC 0x28 (in8 d) a b]
  | .vcmpLeI32 d a b => [encVC 0x29 (in8 d) a b]
  | .vcmpGtI32 d a b => [encVC 0x2a (in8 d) a b]
  | .vcmpGeI32 d a b => [encVC 0x2b (in8 d) a b]
  | .vcmpLtN32 d a b => [encVC 0x2c (in8 d) a b]
  | .vcmpLeN32 d a b => [encVC 0x2d (in8 d) a b]
  | .vcmpGtN32 d a b => [encVC 0x2e (in8 d) a b]
  | .vcmpGeN32 d a b => [encVC 0x2f (in8 d) a b]
  | .vpack d a b => [encVC 0x30 d a b]
  | .vunplo d a => [encVC 0x31 d a 0]
  | .vunphi d a => [encVC 0x32 d a 0]
  | .vmov d a => [encVC 0x33 d a 0]
  | .vbcst d a b => [encVC 0x34 d a (in8 b)]
  | .vshfl d a b => [encVC 0x35 d a b]
  | .vbfly d a b => [encVC 0x36 d a (in8 b)]
  | .vlsu d a b => [encVC 0x37 d a (in8 b)]
  | .vlsd d a b => [encVC 0x38 d a (in8 b)]
  | .vscan d a => [encVC 0x39 d a 0]
  | .vdot2 d a b => [encVC 0x3a d a b]
  | .vaddLong d a b l => [encVC 0x80 d a b, l.word]
  | .vsubLong d a b l => [encVC 0x81 d a b, l.word]
  | .vmulLong d a b l => [encVC 0x82 d a b, l.word]
  | .vfmaLong d a b l => [encVC 0x83 d a b, l.word]
  | .vminLong d a b l => [encVC 0x84 d a b, l.word]
  | .vmaxLong d a b l => [encVC 0x85 d a b, l.word]
  | .vaddminLong d a b l => [encVC 0x86 d a b, l.word]
  | .vaddmaxLong d a b l => [encVC 0x87 d a b, l.word]
  | .vrcpLong d a l => [encVC 0x88 d a 0, l.word]
  | .vsqrtLong d a l => [encVC 0x89 d a 0, l.word]
  | .vrsqLong d a l => [encVC 0x8a d a 0, l.word]
  | .vexp2Long d a l => [encVC 0x8b d a 0, l.word]
  | .vlog2Long d a l => [encVC 0x8c d a 0, l.word]
  | .vsinLong d a l => [encVC 0x8d d a 0, l.word]
  | .vcosLong d a l => [encVC 0x8e d a 0, l.word]
  | .vrintLong d a l => [encVC 0x8f d a 0, l.word]
  | .vandLong d a b l => [encVC 0x90 d a b, l.word]
  | .vorLong d a b l => [encVC 0x91 d a b, l.word]
  | .vxorLong d a b l => [encVC 0x92 d a b, l.word]
  | .vandnLong d a b l => [encVC 0x93 d a b, l.word]
  | .vshlLong d a b l => [encVC 0x94 d a b, l.word]
  | .vshrLong d a b l => [encVC 0x95 d a b, l.word]
  | .vmulloLong d a b l => [encVC 0x96 d a b, l.word]
  | .vmulhiLong d a b l => [encVC 0x97 d a b, l.word]
  | .vpopcLong d a l => [encVC 0x98 d a 0, l.word]
  | .vclzLong d a l => [encVC 0x99 d a 0, l.word]
  | .vcmpEqF32Long d a b l => [encVC 0xa0 (in8 d) a b, l.word]
  | .vcmpNeF32Long d a b l => [encVC 0xa1 (in8 d) a b, l.word]
  | .vcmpLtF32Long d a b l => [encVC 0xa2 (in8 d) a b, l.word]
  | .vcmpLeF32Long d a b l => [encVC 0xa3 (in8 d) a b, l.word]
  | .vcmpGtF32Long d a b l => [encVC 0xa4 (in8 d) a b, l.word]
  | .vcmpGeF32Long d a b l => [encVC 0xa5 (in8 d) a b, l.word]
  | .vcmpEqI32Long d a b l => [encVC 0xa6 (in8 d) a b, l.word]
  | .vcmpNeI32Long d a b l => [encVC 0xa7 (in8 d) a b, l.word]
  | .vcmpLtI32Long d a b l => [encVC 0xa8 (in8 d) a b, l.word]
  | .vcmpLeI32Long d a b l => [encVC 0xa9 (in8 d) a b, l.word]
  | .vcmpGtI32Long d a b l => [encVC 0xaa (in8 d) a b, l.word]
  | .vcmpGeI32Long d a b l => [encVC 0xab (in8 d) a b, l.word]
  | .vcmpLtN32Long d a b l => [encVC 0xac (in8 d) a b, l.word]
  | .vcmpLeN32Long d a b l => [encVC 0xad (in8 d) a b, l.word]
  | .vcmpGtN32Long d a b l => [encVC 0xae (in8 d) a b, l.word]
  | .vcmpGeN32Long d a b l => [encVC 0xaf (in8 d) a b, l.word]
  | .vpackLong d a b l => [encVC 0xb0 d a b, l.word]
  | .vunploLong d a l => [encVC 0xb1 d a 0, l.word]
  | .vunphiLong d a l => [encVC 0xb2 d a 0, l.word]
  | .vmovLong d a l => [encVC 0xb3 d a 0, l.word]
  | .vbcstLong d a b l => [encVC 0xb4 d a (in8 b), l.word]
  | .vshflLong d a b l => [encVC 0xb5 d a b, l.word]
  | .vbflyLong d a b l => [encVC 0xb6 d a (in8 b), l.word]
  | .vlsuLong d a b l => [encVC 0xb7 d a (in8 b), l.word]
  | .vlsdLong d a b l => [encVC 0xb8 d a (in8 b), l.word]
  | .vscanLong d a l => [encVC 0xb9 d a 0, l.word]
  | .vdot2Long d a b l => [encVC 0xba d a b, l.word]
  | .vlane d => [encVC 0x60 d 0 0]
  | .vmovs d a => [encVC 0x61 d (in8 a) 0]
  | .vgetr d a => [encVC 0x62 d (in8 a) 0]
  | .vsetr d a => [encVC 0x63 (in8 d) a 0]
  | .vgetl d a b => [encVC 0x64 (in8 d) a (in8 b)]
  | .vputl d a b => [encVC 0x65 d (in8 a) (in8 b)]
  | .vpand d a b => [encVC 0x66 (in8 d) (in8 a) (in8 b)]
  | .vpor d a b => [encVC 0x67 (in8 d) (in8 a) (in8 b)]
  | .vpxor d a b => [encVC 0x68 (in8 d) (in8 a) (in8 b)]
  | .vpandn d a b => [encVC 0x69 (in8 d) (in8 a) (in8 b)]
  | .vpmov d a => [encVC 0x6a (in8 d) (in8 a) 0]
  | .vpget d a => [encVC 0x6b (in8 d) (in8 a) 0]
  | .vvall d a => [encVC 0x6c (in8 d) (in8 a) 0]
  | .vvany d a => [encVC 0x6d (in8 d) (in8 a) 0]
  | .vpcnt d a => [encVC 0x6e (in8 d) (in8 a) 0]
  | .vmovi d imm => [encVC 0x6f d 0 imm]
  | .vcvt d a dfmt l => [encVC 0xe0 d a dfmt, l.word]
  | .sldN8 d a off => [encMD 0x00 (in8 d) a off]
  | .sldI8 d a off => [encMD 0x01 (in8 d) a off]
  | .sldN16 d a off => [encMD 0x02 (in8 d) a off]
  | .sldI16 d a off => [encMD 0x03 (in8 d) a off]
  | .sldN32 d a off => [encMD 0x04 (in8 d) a off]
  | .sldI32 d a off => [encMD 0x05 (in8 d) a off]
  | .sldN64 d a off => [encMD 0x06 (in8 d) a off]
  | .sstN8 d a off => [encMD 0x08 (in8 d) a off]
  | .sstN16 d a off => [encMD 0x09 (in8 d) a off]
  | .sstN32 d a off => [encMD 0x0a (in8 d) a off]
  | .sstN64 d a off => [encMD 0x0b (in8 d) a off]
  | .vld d a off => [encMD 0x10 d a off]
  | .vst d a off => [encMD 0x11 d a off]
  | .vldx d a sc x => [encMX 0x12 d a sc x]
  | .vstx d a sc x => [encMX 0x13 d a sc x]
  | .vldro d a off => [encMD 0x14 d a off]
  | .vldrox d a sc x => [encMX 0x15 d a sc x]
  | .vldv d a off => [encMD 0x16 d a off]
  | .vstv d a off => [encMD 0x17 d a off]
  | .vldvx d a sc x => [encMX 0x18 d a sc x]
  | .vstvx d a sc x => [encMX 0x19 d a sc x]
  | .vsts d a off => [encMD 0x1a d a off]
  | .vaadd d a sc x => [encMX 0x20 d a sc x]
  | .vamin d a sc x => [encMX 0x21 d a sc x]
  | .vamax d a sc x => [encMX 0x22 d a sc x]
  | .vaand d a sc x => [encMX 0x23 d a sc x]
  | .vaor d a sc x => [encMX 0x24 d a sc x]
  | .vaxor d a sc x => [encMX 0x25 d a sc x]
  | .vaxchg d a sc x => [encMX 0x26 d a sc x]
  | .vacas d a sc x => [encMX 0x27 d a sc x]
  | .vafadd d a sc x => [encMX 0x28 d a sc x]
  | .vafmin d a sc x => [encMX 0x29 d a sc x]
  | .vafmax d a sc x => [encMX 0x2a d a sc x]
  | .vredadd d a sc x => [encMX 0x30 d a sc x]
  | .vredmin d a sc x => [encMX 0x31 d a sc x]
  | .vredmax d a sc x => [encMX 0x32 d a sc x]
  | .vredand d a sc x => [encMX 0x33 d a sc x]
  | .vredor d a sc x => [encMX 0x34 d a sc x]
  | .vredxor d a sc x => [encMX 0x35 d a sc x]
  | .vredfadd d a sc x => [encMX 0x36 d a sc x]
  | .vredfmin d a sc x => [encMX 0x37 d a sc x]
  | .vredfmax d a sc x => [encMX 0x38 d a sc x]
  | .sseqadd d a off => [encMD 0x40 (in8 d) a off]
  | .sarwait d a off => [encMD 0x41 (in8 d) a off]
  | .saadd d a off => [encMD 0x42 (in8 d) a off]
  | .sacas d a off => [encMD 0x43 (in8 d) a off]
  | .fence paths scope => [encMF 0x50 paths scope 0]
  | .fenceAcq paths scope => [encMF 0x50 paths scope 1]
  | .fenceRel paths scope => [encMF 0x50 paths scope 2]
  | .roinv => [encMF 0x51 0 0 0]
  | .vpref a off => [encMD 0x52 0 a off]
  | .spref a off => [encMD 0x53 0 a off]
  | .sldN8Long d a off l => [encMD 0x80 (in8 d) a off, l.word]
  | .sldI8Long d a off l => [encMD 0x81 (in8 d) a off, l.word]
  | .sldN16Long d a off l => [encMD 0x82 (in8 d) a off, l.word]
  | .sldI16Long d a off l => [encMD 0x83 (in8 d) a off, l.word]
  | .sldN32Long d a off l => [encMD 0x84 (in8 d) a off, l.word]
  | .sldI32Long d a off l => [encMD 0x85 (in8 d) a off, l.word]
  | .sldN64Long d a off l => [encMD 0x86 (in8 d) a off, l.word]
  | .sstN8Long d a off l => [encMD 0x88 (in8 d) a off, l.word]
  | .sstN16Long d a off l => [encMD 0x89 (in8 d) a off, l.word]
  | .sstN32Long d a off l => [encMD 0x8a (in8 d) a off, l.word]
  | .sstN64Long d a off l => [encMD 0x8b (in8 d) a off, l.word]
  | .vldLong d a off l => [encMD 0x90 d a off, l.word]
  | .vstLong d a off l => [encMD 0x91 d a off, l.word]
  | .vldxLong d a sc x l => [encMX 0x92 d a sc x, l.word]
  | .vstxLong d a sc x l => [encMX 0x93 d a sc x, l.word]
  | .vldroLong d a off l => [encMD 0x94 d a off, l.word]
  | .vldroxLong d a sc x l => [encMX 0x95 d a sc x, l.word]
  | .vldvLong d a off l => [encMD 0x96 d a off, l.word]
  | .vstvLong d a off l => [encMD 0x97 d a off, l.word]
  | .vldvxLong d a sc x l => [encMX 0x98 d a sc x, l.word]
  | .vstvxLong d a sc x l => [encMX 0x99 d a sc x, l.word]
  | .vstsLong d a off l => [encMD 0x9a d a off, l.word]
  | .vaaddLong d a sc x l => [encMX 0xa0 d a sc x, l.word]
  | .vaminLong d a sc x l => [encMX 0xa1 d a sc x, l.word]
  | .vamaxLong d a sc x l => [encMX 0xa2 d a sc x, l.word]
  | .vaandLong d a sc x l => [encMX 0xa3 d a sc x, l.word]
  | .vaorLong d a sc x l => [encMX 0xa4 d a sc x, l.word]
  | .vaxorLong d a sc x l => [encMX 0xa5 d a sc x, l.word]
  | .vaxchgLong d a sc x l => [encMX 0xa6 d a sc x, l.word]
  | .vacasLong d a sc x l => [encMX 0xa7 d a sc x, l.word]
  | .vafaddLong d a sc x l => [encMX 0xa8 d a sc x, l.word]
  | .vafminLong d a sc x l => [encMX 0xa9 d a sc x, l.word]
  | .vafmaxLong d a sc x l => [encMX 0xaa d a sc x, l.word]
  | .vredaddLong d a sc x l => [encMX 0xb0 d a sc x, l.word]
  | .vredminLong d a sc x l => [encMX 0xb1 d a sc x, l.word]
  | .vredmaxLong d a sc x l => [encMX 0xb2 d a sc x, l.word]
  | .vredandLong d a sc x l => [encMX 0xb3 d a sc x, l.word]
  | .vredorLong d a sc x l => [encMX 0xb4 d a sc x, l.word]
  | .vredxorLong d a sc x l => [encMX 0xb5 d a sc x, l.word]
  | .vredfaddLong d a sc x l => [encMX 0xb6 d a sc x, l.word]
  | .vredfminLong d a sc x l => [encMX 0xb7 d a sc x, l.word]
  | .vredfmaxLong d a sc x l => [encMX 0xb8 d a sc x, l.word]
  | .sseqaddLong d a off l => [encMD 0xc0 (in8 d) a off, l.word]
  | .sarwaitLong d a off l => [encMD 0xc1 (in8 d) a off, l.word]
  | .saaddLong d a off l => [encMD 0xc2 (in8 d) a off, l.word]
  | .sacasLong d a off l => [encMD 0xc3 (in8 d) a off, l.word]
  | .mma t x y qn q => [encMT 0x00 t x y qn q]
  | .mdual t x y qn q => [encMT 0x01 t x y qn q]
  | .mclr t qn q => [encMT 0x02 t 0 0 qn q]
  | .mdrain t x qn q => [encMT 0x03 t x 0 qn q]
  | .mstash t x qn q => [encMT 0x04 t x 0 qn q]
  | .mmaxr x qn q => [encMT 0x05 0 x 0 qn q]
  | .mmaLong t x y qn q imm => [encMT 0x80 t x y qn q, imm]
  | .mdualLong t x y qn q imm => [encMT 0x81 t x y qn q, imm]
  | .mdrainLong t x qn q imm => [encMT 0x83 t x 0 qn q, imm]
  | .mstashLong t x qn q imm => [encMT 0x84 t x 0 qn q, imm]
  | .mringConfig n => [encMK 0x06 n 0]
  | .mringAdvance n => [encMK 0x06 n 1]
  | .mtqset n imm => [encMK 0x07 n imm]
  | .mwait n => [encMK 0x08 n 0]
  | .marrive n => [encMK 0x09 n 0]
  | .mfmt n => [encMK 0x0a n 0]
  | .mend => [encMK 0x0b 0 0]
  | .mreuse sel => [encMK 0x0c 0 (sel.setWidth 16)]
  | .mnop => [encMK 0x0d 0 0]
  | .mfmtLong n imm => [encMK 0x8a n 0, imm]
  | .mdesc n imm => [encMK 0x8b n 0, imm]
  | .mloop count off => [encMK 0x8d 0 count, off]
  | .mbra n inv off => [encMK 0x8e n ((BitVec.ofBool inv).setWidth 16), off]
  | .kemit d a b => [encEC 0x00 d a b]
  | .srtrun d a b => [encEC 0x01 (in8 d) a b]
  | .srtmrg d a b => [encEC 0x02 (in8 d) a b]
  | .srttab d a b => [encEC 0x03 (in8 d) a b]
  | .vblend d a b => [encEC 0x04 (in8 d) a b]
  | .vblendg d a b => [encEC 0x05 (in8 d) a b]
  | .gdeg d a b => [encEC 0x06 (in8 d) a b]
  | .gdes d a b => [encEC 0x07 (in8 d) a b]
  | .claimPost d a b => [encEC 0x08 (in8 d) a b]
  | .claimTake d a b => [encEC 0x09 (in8 d) a b]
  | .claimDone d => [encEC 0x0a (in8 d) 0 0]
  | .taskPush d a b => [encEC 0x0b (in8 d) a b]
  | .taskSpawn d a b => [encEC 0x0c (in8 d) a b]
  | .wpset d a b => [encEC 0x0d (in8 d) a b]
  | .wpclr d a => [encEC 0x0e (in8 d) a 0]
  | .cpy d a b => [encEC 0x10 (in8 d) a b]
  | .cpym d a b => [encEC 0x11 (in8 d) a b]
  | .cpydrn d a b => [encEC 0x12 (in8 d) a b]
  | .cstage d a => [encEC 0x13 (in8 d) a 0]
  | .colRun d a b => [encEC 0x18 (in8 d) a b]
  | .colSend a b => [encEC 0x19 0 a b]
  | .colRed a b => [encEC 0x1a 0 a b]
  | .colStep => [encEC 0x1b 0 0 0]
  | .colEnd => [encEC 0x1c 0 0 0]
  | .colSig a b => [encEC 0x1d 0 a b]
  | .fblkw d a b => [encEC 0x20 (in8 d) a b]
  | .fblkr d a b => [encEC 0x21 (in8 d) a b]
  | .fld d a => [encEC 0x22 (in8 d) a 0]
  | .fst d a b => [encEC 0x23 (in8 d) a b]
  | .stepArrive d => [encEC 0x24 (in8 d) 0 0]
  | .stepWait d => [encEC 0x25 (in8 d) 0 0]
  | .arrtgt d a => [encEC 0x26 (in8 d) a 0]
  | .lnkdrn d a => [encEC 0x27 (in8 d) a 0]
  | .lnkctlRead d a b => [encEC 0x28 (in8 d) a b]
  | .lnkctlHold d a b => [encEC 0x28 (in8 d) a b]
  | .lnkctlRelease d a b => [encEC 0x28 (in8 d) a b]
  | .lnkctlDisable d a b => [encEC 0x28 (in8 d) a b]
  | .lnkctlEnable d a b => [encEC 0x28 (in8 d) a b]
  | .kemitLong d a b l => [encEC 0x80 d a b, l.word]
  | .srtrunLong d a b l => [encEC 0x81 (in8 d) a b, l.word]
  | .srtmrgLong d a b l => [encEC 0x82 (in8 d) a b, l.word]
  | .srttabLong d a b l => [encEC 0x83 (in8 d) a b, l.word]
  | .vblendLong d a b l => [encEC 0x84 (in8 d) a b, l.word]
  | .vblendgLong d a b l => [encEC 0x85 (in8 d) a b, l.word]
  | .gdegLong d a b l => [encEC 0x86 (in8 d) a b, l.word]
  | .gdesLong d a b l => [encEC 0x87 (in8 d) a b, l.word]
  | .claimPostLong d a b l => [encEC 0x88 (in8 d) a b, l.word]
  | .claimTakeLong d a b l => [encEC 0x89 (in8 d) a b, l.word]
  | .claimDoneLong d l => [encEC 0x8a (in8 d) 0 0, l.word]
  | .taskPushLong d a b l => [encEC 0x8b (in8 d) a b, l.word]
  | .taskSpawnLong d a b l => [encEC 0x8c (in8 d) a b, l.word]
  | .wpsetLong d a b l => [encEC 0x8d (in8 d) a b, l.word]
  | .wpclrLong d a l => [encEC 0x8e (in8 d) a 0, l.word]
  | .cpyLong d a b l => [encEC 0x90 (in8 d) a b, l.word]
  | .cpymLong d a b l => [encEC 0x91 (in8 d) a b, l.word]
  | .cpydrnLong d a b l => [encEC 0x92 (in8 d) a b, l.word]
  | .cstageLong d a l => [encEC 0x93 (in8 d) a 0, l.word]
  | .colRunLong d a b l => [encEC 0x98 (in8 d) a b, l.word]
  | .fblkwLong d a b l => [encEC 0xa0 (in8 d) a b, l.word]
  | .fblkrLong d a b l => [encEC 0xa1 (in8 d) a b, l.word]
  | .fldLong d a l => [encEC 0xa2 (in8 d) a 0, l.word]
  | .fstLong d a b l => [encEC 0xa3 (in8 d) a b, l.word]
  | .stepArriveLong d l => [encEC 0xa4 (in8 d) 0 0, l.word]
  | .stepWaitLong d l => [encEC 0xa5 (in8 d) 0 0, l.word]
  | .arrtgtLong d a l => [encEC 0xa6 (in8 d) a 0, l.word]
  | .lnkdrnLong d a l => [encEC 0xa7 (in8 d) a 0, l.word]
  | .lnkctlLong d a b l => [encEC 0xa8 (in8 d) a b, l.word]
  | .clauseFetch => []
  | .clauseWaitMet => []
  | .watchdogBudget => []
  | .watchdogStall => []
  | .impreciseFaultDeliver .. => []
  | .loadDataArrive .. => []
  | .atomicResultReturn .. => []
  | .trackerAck .. => []
  | .reduceFlushApply .. => []
  | .pageWalk => []
  | .binTimerExpire .. => []
  | .gangPlace .. => []
  | .gangAge .. => []
  | .gangBlocking .. => []
  | .saveBudgetExpire .. => []
  | .saveWrite .. => []
  | .gangRestore .. => []
  | .gangRetire .. => []
  | .launchCompletion .. => []
  | .bodyPhaseStart .. => []
  | .bodyWaveForm .. => []
  | .pitchRequest .. => []
  | .pitchRelease .. => []
  | .sortStart .. => []
  | .gdeStart .. => []
  | .copyStart .. => []
  | .scheduleEntryStart .. => []
  | .collectiveStart => []
  | .engineCompletion .. => []
  | .chainTailWrite .. => []
  | .chainEnable .. => []
  | .chainReset .. => []
  | .chainLaunch .. => []
  | .chainSignal .. => []
  | .chainNodedef .. => []
  | .chainNop .. => []
  | .launchPacketSend .. => []
  | .launchPacketAck => []
  | .launchPacketReceive .. => []
  | .residencyReportReceive .. => []
  | .pieceArrive .. => []
  | .pieceAck .. => []
  | .pieceRetransmit .. => []
  | .remoteReadRequest .. => []
  | .remoteReadReply .. => []
  | .vcEscape .. => []
  | .stepArrivedSend => []
  | .stepArrivedReceive .. => []
  | .stepLostReceive .. => []
  | .stepOpenReceive .. => []
  | .stepTimeout => []
  | .stepCommit .. => []
  | .stepAbort .. => []
  | .stepOutcomeAck .. => []
  | .stepApplyComplete => []
  | .linkLoss .. => []
  | .linkLock .. => []
  | .noRouteTimeout .. => []
  | .drainMarkerReturn .. => []
  | .linkEnableTimeout .. => []
  | .podForm => []
  | .podDissolve => []
  | .tlbInvalidate => []
  | .invalidateComplete => []
  | .lineRepair .. => []
  | .serviceWrite .. => []
  | .thermalResume => []
  | .evstatClear .. => []
  | .wpclearHandle .. => []
  | .wpclearAsid .. => []
  | .wpclearAll => []
  | .routeWrite .. => []
  | .checkpointGo => []
  | .checkpointDone .. => []
  | .msixVectorUnmask .. => []
  | .registerWrite .. => []
  | .deviceReset => []
  | .powerStateEnter => []
  | .powerWake => []
  | .powerExitComplete => []
  | .thermalTrip .. => []
  | .thermalHoldEnd => []
  | .unassignedOpcode w => [w]
  | .drainPerformed .. => []
  | .stepOutcomeResend .. => []
  | .arithmeticClockChange .. => []

/-- The class whose clauses hold an instruction; none for what the device does by itself. A hint stands in every
class. -/
def Instr.cls : Instr → Option Nat
  | .sadd .. => some 0
  | .ssub .. => some 0
  | .smul .. => some 0
  | .smulh .. => some 0
  | .sdiv .. => some 0
  | .srem .. => some 0
  | .smin .. => some 0
  | .smax .. => some 0
  | .sand .. => some 0
  | .sor .. => some 0
  | .sxor .. => some 0
  | .sandn .. => some 0
  | .sshl .. => some 0
  | .sshr .. => some 0
  | .srot .. => some 0
  | .sclz .. => some 0
  | .seq .. => some 0
  | .sne .. => some 0
  | .slt .. => some 0
  | .sle .. => some 0
  | .ssel .. => some 0
  | .spopc .. => some 0
  | .sctz .. => some 0
  | .sbrev .. => some 0
  | .sbfx .. => some 0
  | .sbfi .. => some 0
  | .smov .. => some 0
  | .saddi .. => some 0
  | .smuli .. => some 0
  | .sandi .. => some 0
  | .sori .. => some 0
  | .sxori .. => some 0
  | .sshli .. => some 0
  | .sshri .. => some 0
  | .ssrai .. => some 0
  | .seqi .. => some 0
  | .slti .. => some 0
  | .sltni .. => some 0
  | .smovi .. => some 0
  | .saddiLong .. => some 0
  | .smuliLong .. => some 0
  | .sandiLong .. => some 0
  | .soriLong .. => some 0
  | .sxoriLong .. => some 0
  | .sshliLong .. => some 0
  | .sshriLong .. => some 0
  | .ssraiLong .. => some 0
  | .seqiLong .. => some 0
  | .sltiLong .. => some 0
  | .sltniLong .. => some 0
  | .smoviLong .. => some 0
  | .smovh .. => some 0
  | .bra .. => some 0
  | .bz .. => some 0
  | .bnz .. => some 0
  | .call .. => some 0
  | .ret .. => some 0
  | .brx .. => some 0
  | .loop .. => some 0
  | .lpop => some 0
  | .exit => some 0
  | .tail => some 0
  | .yield .. => some 0
  | .nop => some 0
  | .braLong .. => some 0
  | .bzLong .. => some 0
  | .bnzLong .. => some 0
  | .callLong .. => some 0
  | .loopLong .. => some 0
  | .yieldLong .. => some 0
  | .hint .. => some 0
  | .mfs .. => some 5
  | .mts .. => some 5
  | .bar .. => some 5
  | .barPod => some 5
  | .nbarw .. => some 5
  | .nbarr .. => some 5
  | .nbwait .. => some 5
  | .nbinit .. => some 5
  | .trap .. => some 5
  | .rft => some 5
  | .brk .. => some 5
  | .phint .. => some 5
  | .vadd .. => some 1
  | .vsub .. => some 1
  | .vmul .. => some 1
  | .vfma .. => some 1
  | .vmin .. => some 1
  | .vmax .. => some 1
  | .vaddmin .. => some 1
  | .vaddmax .. => some 1
  | .vrcp .. => some 1
  | .vsqrt .. => some 1
  | .vrsq .. => some 1
  | .vexp2 .. => some 1
  | .vlog2 .. => some 1
  | .vsin .. => some 1
  | .vcos .. => some 1
  | .vrint .. => some 1
  | .vand .. => some 1
  | .vor .. => some 1
  | .vxor .. => some 1
  | .vandn .. => some 1
  | .vshl .. => some 1
  | .vshr .. => some 1
  | .vmullo .. => some 1
  | .vmulhi .. => some 1
  | .vpopc .. => some 1
  | .vclz .. => some 1
  | .vcmpEqF32 .. => some 1
  | .vcmpNeF32 .. => some 1
  | .vcmpLtF32 .. => some 1
  | .vcmpLeF32 .. => some 1
  | .vcmpGtF32 .. => some 1
  | .vcmpGeF32 .. => some 1
  | .vcmpEqI32 .. => some 1
  | .vcmpNeI32 .. => some 1
  | .vcmpLtI32 .. => some 1
  | .vcmpLeI32 .. => some 1
  | .vcmpGtI32 .. => some 1
  | .vcmpGeI32 .. => some 1
  | .vcmpLtN32 .. => some 1
  | .vcmpLeN32 .. => some 1
  | .vcmpGtN32 .. => some 1
  | .vcmpGeN32 .. => some 1
  | .vpack .. => some 1
  | .vunplo .. => some 1
  | .vunphi .. => some 1
  | .vmov .. => some 1
  | .vbcst .. => some 1
  | .vshfl .. => some 1
  | .vbfly .. => some 1
  | .vlsu .. => some 1
  | .vlsd .. => some 1
  | .vscan .. => some 1
  | .vdot2 .. => some 1
  | .vaddLong .. => some 1
  | .vsubLong .. => some 1
  | .vmulLong .. => some 1
  | .vfmaLong .. => some 1
  | .vminLong .. => some 1
  | .vmaxLong .. => some 1
  | .vaddminLong .. => some 1
  | .vaddmaxLong .. => some 1
  | .vrcpLong .. => some 1
  | .vsqrtLong .. => some 1
  | .vrsqLong .. => some 1
  | .vexp2Long .. => some 1
  | .vlog2Long .. => some 1
  | .vsinLong .. => some 1
  | .vcosLong .. => some 1
  | .vrintLong .. => some 1
  | .vandLong .. => some 1
  | .vorLong .. => some 1
  | .vxorLong .. => some 1
  | .vandnLong .. => some 1
  | .vshlLong .. => some 1
  | .vshrLong .. => some 1
  | .vmulloLong .. => some 1
  | .vmulhiLong .. => some 1
  | .vpopcLong .. => some 1
  | .vclzLong .. => some 1
  | .vcmpEqF32Long .. => some 1
  | .vcmpNeF32Long .. => some 1
  | .vcmpLtF32Long .. => some 1
  | .vcmpLeF32Long .. => some 1
  | .vcmpGtF32Long .. => some 1
  | .vcmpGeF32Long .. => some 1
  | .vcmpEqI32Long .. => some 1
  | .vcmpNeI32Long .. => some 1
  | .vcmpLtI32Long .. => some 1
  | .vcmpLeI32Long .. => some 1
  | .vcmpGtI32Long .. => some 1
  | .vcmpGeI32Long .. => some 1
  | .vcmpLtN32Long .. => some 1
  | .vcmpLeN32Long .. => some 1
  | .vcmpGtN32Long .. => some 1
  | .vcmpGeN32Long .. => some 1
  | .vpackLong .. => some 1
  | .vunploLong .. => some 1
  | .vunphiLong .. => some 1
  | .vmovLong .. => some 1
  | .vbcstLong .. => some 1
  | .vshflLong .. => some 1
  | .vbflyLong .. => some 1
  | .vlsuLong .. => some 1
  | .vlsdLong .. => some 1
  | .vscanLong .. => some 1
  | .vdot2Long .. => some 1
  | .vlane .. => some 1
  | .vmovs .. => some 1
  | .vgetr .. => some 1
  | .vsetr .. => some 1
  | .vgetl .. => some 1
  | .vputl .. => some 1
  | .vpand .. => some 1
  | .vpor .. => some 1
  | .vpxor .. => some 1
  | .vpandn .. => some 1
  | .vpmov .. => some 1
  | .vpget .. => some 1
  | .vvall .. => some 1
  | .vvany .. => some 1
  | .vpcnt .. => some 1
  | .vmovi .. => some 1
  | .vcvt .. => some 1
  | .sldN8 .. => some 2
  | .sldI8 .. => some 2
  | .sldN16 .. => some 2
  | .sldI16 .. => some 2
  | .sldN32 .. => some 2
  | .sldI32 .. => some 2
  | .sldN64 .. => some 2
  | .sstN8 .. => some 2
  | .sstN16 .. => some 2
  | .sstN32 .. => some 2
  | .sstN64 .. => some 2
  | .vld .. => some 2
  | .vst .. => some 2
  | .vldx .. => some 2
  | .vstx .. => some 2
  | .vldro .. => some 2
  | .vldrox .. => some 2
  | .vldv .. => some 2
  | .vstv .. => some 2
  | .vldvx .. => some 2
  | .vstvx .. => some 2
  | .vsts .. => some 2
  | .vaadd .. => some 2
  | .vamin .. => some 2
  | .vamax .. => some 2
  | .vaand .. => some 2
  | .vaor .. => some 2
  | .vaxor .. => some 2
  | .vaxchg .. => some 2
  | .vacas .. => some 2
  | .vafadd .. => some 2
  | .vafmin .. => some 2
  | .vafmax .. => some 2
  | .vredadd .. => some 2
  | .vredmin .. => some 2
  | .vredmax .. => some 2
  | .vredand .. => some 2
  | .vredor .. => some 2
  | .vredxor .. => some 2
  | .vredfadd .. => some 2
  | .vredfmin .. => some 2
  | .vredfmax .. => some 2
  | .sseqadd .. => some 2
  | .sarwait .. => some 2
  | .saadd .. => some 2
  | .sacas .. => some 2
  | .fence .. => some 2
  | .fenceAcq .. => some 2
  | .fenceRel .. => some 2
  | .roinv => some 2
  | .vpref .. => some 2
  | .spref .. => some 2
  | .sldN8Long .. => some 2
  | .sldI8Long .. => some 2
  | .sldN16Long .. => some 2
  | .sldI16Long .. => some 2
  | .sldN32Long .. => some 2
  | .sldI32Long .. => some 2
  | .sldN64Long .. => some 2
  | .sstN8Long .. => some 2
  | .sstN16Long .. => some 2
  | .sstN32Long .. => some 2
  | .sstN64Long .. => some 2
  | .vldLong .. => some 2
  | .vstLong .. => some 2
  | .vldxLong .. => some 2
  | .vstxLong .. => some 2
  | .vldroLong .. => some 2
  | .vldroxLong .. => some 2
  | .vldvLong .. => some 2
  | .vstvLong .. => some 2
  | .vldvxLong .. => some 2
  | .vstvxLong .. => some 2
  | .vstsLong .. => some 2
  | .vaaddLong .. => some 2
  | .vaminLong .. => some 2
  | .vamaxLong .. => some 2
  | .vaandLong .. => some 2
  | .vaorLong .. => some 2
  | .vaxorLong .. => some 2
  | .vaxchgLong .. => some 2
  | .vacasLong .. => some 2
  | .vafaddLong .. => some 2
  | .vafminLong .. => some 2
  | .vafmaxLong .. => some 2
  | .vredaddLong .. => some 2
  | .vredminLong .. => some 2
  | .vredmaxLong .. => some 2
  | .vredandLong .. => some 2
  | .vredorLong .. => some 2
  | .vredxorLong .. => some 2
  | .vredfaddLong .. => some 2
  | .vredfminLong .. => some 2
  | .vredfmaxLong .. => some 2
  | .sseqaddLong .. => some 2
  | .sarwaitLong .. => some 2
  | .saaddLong .. => some 2
  | .sacasLong .. => some 2
  | .mma .. => some 3
  | .mdual .. => some 3
  | .mclr .. => some 3
  | .mdrain .. => some 3
  | .mstash .. => some 3
  | .mmaxr .. => some 3
  | .mmaLong .. => some 3
  | .mdualLong .. => some 3
  | .mdrainLong .. => some 3
  | .mstashLong .. => some 3
  | .mringConfig .. => some 3
  | .mringAdvance .. => some 3
  | .mtqset .. => some 3
  | .mwait .. => some 3
  | .marrive .. => some 3
  | .mfmt .. => some 3
  | .mend => some 3
  | .mreuse .. => some 3
  | .mnop => some 3
  | .mfmtLong .. => some 3
  | .mdesc .. => some 3
  | .mloop .. => some 3
  | .mbra .. => some 3
  | .kemit .. => some 4
  | .srtrun .. => some 4
  | .srtmrg .. => some 4
  | .srttab .. => some 4
  | .vblend .. => some 4
  | .vblendg .. => some 4
  | .gdeg .. => some 4
  | .gdes .. => some 4
  | .claimPost .. => some 4
  | .claimTake .. => some 4
  | .claimDone .. => some 4
  | .taskPush .. => some 4
  | .taskSpawn .. => some 4
  | .wpset .. => some 4
  | .wpclr .. => some 4
  | .cpy .. => some 4
  | .cpym .. => some 4
  | .cpydrn .. => some 4
  | .cstage .. => some 4
  | .colRun .. => some 4
  | .colSend .. => some 4
  | .colRed .. => some 4
  | .colStep => some 4
  | .colEnd => some 4
  | .colSig .. => some 4
  | .fblkw .. => some 4
  | .fblkr .. => some 4
  | .fld .. => some 4
  | .fst .. => some 4
  | .stepArrive .. => some 4
  | .stepWait .. => some 4
  | .arrtgt .. => some 4
  | .lnkdrn .. => some 4
  | .lnkctlRead .. => some 4
  | .lnkctlHold .. => some 4
  | .lnkctlRelease .. => some 4
  | .lnkctlDisable .. => some 4
  | .lnkctlEnable .. => some 4
  | .kemitLong .. => some 4
  | .srtrunLong .. => some 4
  | .srtmrgLong .. => some 4
  | .srttabLong .. => some 4
  | .vblendLong .. => some 4
  | .vblendgLong .. => some 4
  | .gdegLong .. => some 4
  | .gdesLong .. => some 4
  | .claimPostLong .. => some 4
  | .claimTakeLong .. => some 4
  | .claimDoneLong .. => some 4
  | .taskPushLong .. => some 4
  | .taskSpawnLong .. => some 4
  | .wpsetLong .. => some 4
  | .wpclrLong .. => some 4
  | .cpyLong .. => some 4
  | .cpymLong .. => some 4
  | .cpydrnLong .. => some 4
  | .cstageLong .. => some 4
  | .colRunLong .. => some 4
  | .fblkwLong .. => some 4
  | .fblkrLong .. => some 4
  | .fldLong .. => some 4
  | .fstLong .. => some 4
  | .stepArriveLong .. => some 4
  | .stepWaitLong .. => some 4
  | .arrtgtLong .. => some 4
  | .lnkdrnLong .. => some 4
  | .lnkctlLong .. => some 4
  | .clauseFetch => none
  | .clauseWaitMet => none
  | .watchdogBudget => none
  | .watchdogStall => none
  | .impreciseFaultDeliver .. => none
  | .loadDataArrive .. => none
  | .atomicResultReturn .. => none
  | .trackerAck .. => none
  | .reduceFlushApply .. => none
  | .pageWalk => none
  | .binTimerExpire .. => none
  | .gangPlace .. => none
  | .gangAge .. => none
  | .gangBlocking .. => none
  | .saveBudgetExpire .. => none
  | .saveWrite .. => none
  | .gangRestore .. => none
  | .gangRetire .. => none
  | .launchCompletion .. => none
  | .bodyPhaseStart .. => none
  | .bodyWaveForm .. => none
  | .pitchRequest .. => none
  | .pitchRelease .. => none
  | .sortStart .. => none
  | .gdeStart .. => none
  | .copyStart .. => none
  | .scheduleEntryStart .. => none
  | .collectiveStart => none
  | .engineCompletion .. => none
  | .chainTailWrite .. => none
  | .chainEnable .. => none
  | .chainReset .. => none
  | .chainLaunch .. => none
  | .chainSignal .. => none
  | .chainNodedef .. => none
  | .chainNop .. => none
  | .launchPacketSend .. => none
  | .launchPacketAck => none
  | .launchPacketReceive .. => none
  | .residencyReportReceive .. => none
  | .pieceArrive .. => none
  | .pieceAck .. => none
  | .pieceRetransmit .. => none
  | .remoteReadRequest .. => none
  | .remoteReadReply .. => none
  | .vcEscape .. => none
  | .stepArrivedSend => none
  | .stepArrivedReceive .. => none
  | .stepLostReceive .. => none
  | .stepOpenReceive .. => none
  | .stepTimeout => none
  | .stepCommit .. => none
  | .stepAbort .. => none
  | .stepOutcomeAck .. => none
  | .stepApplyComplete => none
  | .linkLoss .. => none
  | .linkLock .. => none
  | .noRouteTimeout .. => none
  | .drainMarkerReturn .. => none
  | .linkEnableTimeout .. => none
  | .podForm => none
  | .podDissolve => none
  | .tlbInvalidate => none
  | .invalidateComplete => none
  | .lineRepair .. => none
  | .serviceWrite .. => none
  | .thermalResume => none
  | .evstatClear .. => none
  | .wpclearHandle .. => none
  | .wpclearAsid .. => none
  | .wpclearAll => none
  | .routeWrite .. => none
  | .checkpointGo => none
  | .checkpointDone .. => none
  | .msixVectorUnmask .. => none
  | .registerWrite .. => none
  | .deviceReset => none
  | .powerStateEnter => none
  | .powerWake => none
  | .powerExitComplete => none
  | .thermalTrip .. => none
  | .thermalHoldEnd => none
  | .unassignedOpcode .. => none
  | .drainPerformed .. => none
  | .stepOutcomeResend .. => none
  | .arithmeticClockChange .. => none

/-- The instruction that its words decode to: the four forms of `lnkctl` that S[B] selects share the words of the fifth (R448), and
`bar` of scope 5 is `bar.pod` (R156). -/
def Instr.canonical : Instr → Bool
  | .lnkctlHold .. => false
  | .lnkctlRelease .. => false
  | .lnkctlDisable .. => false
  | .lnkctlEnable .. => false
  | .bar n => n != 5
  | i => i.cls.isSome

end Sys2Proof
end

