-- ==== Sys2Proof/Machine/Tasks.lean ====
section
/-!
DEFINITION. Work-graph node bins, task instructions and watchpoint instructions (R331 to R336, R363 to R366).
-/
namespace Sys2Proof.Machine

/-! ### Bins (R331 to R334) -/

/-- The key of a node's bin on a die. -/
def binKey (die node : Nat) : Nat := 256 * die + node

/-- A bin of a die. -/
def State.bin (s : State) (die node : Nat) : Bin := s.bins.get ⟨[], none, []⟩ (binKey die node)

/-- Replace a bin. -/
def State.setBin (s : State) (die node : Nat) (b : Bin) : State := { s with bins := s.bins.set (binKey die node) b }

/-- A bin's batch is due (R332). -/
def State.binDue (s : State) (die : Nat) (nd : Node) (b : Bin) : Bool :=
  decide (nd.coal ≤ b.recs.length) || match b.deadline with
    | some t => decide (t ≤ s.clock die)
    | none => false

/-- A free batch slot of a node on a die: R332 says a free slot, and that it is the lowest is the model's choice (log 111). -/
def Node.freeSlot (nd : Node) (b : Bin) : Option Nat := (List.range nd.nbatch).find? fun i => !b.slots.contains i

/-- Bytes of a batch slot. -/
def Node.slotSize (nd : Node) : Nat := 64 + nd.coal * nd.rsize

/-- Free a batch slot. -/
def State.freeBatch (s : State) (die node slot : Nat) : State :=
  let b := s.bin die node
  s.setBin die node { b with slots := b.slots.filter (· != slot) }

/-- A bin closes its batch into a slot and queues a gang of its launch record (R332). Where the launch is refused no gang will retire, and that
the slot is then free at once is the model's choice (log 112). -/
def State.closeBatch (s : State) (die node : Nat) (nd : Node) (slot : Nat) : State :=
  let b := s.bin die node
  let addr := nd.batch.toNat + (die * nd.nbatch + slot) * nd.slotSize
  let s := s.devPut nd.asid addr (toBytes 4 b.recs.length ++ toBytes 4 node ++ copies 56 0 ++ b.recs.flatten)
  let s := s.setBin die node ⟨[], none, b.slots ++ [slot]⟩
  match s.submit nd.asid nd.lrec none { node := true } with
  | .dropped => s.freeBatch die node slot
  | .taken l s =>
    let x := s.launch l
    if x.status = .done then s.freeBatch die node slot
    else
      let entry := if x.kernel.mode = 1 then x.kernel.code + BitVec.ofNat 64 x.kernel.scout else x.kernel.code
      let (g, s) := s.newGang l 0 die (BitVec.ofNat 64 addr) 0 entry (some (node, die, slot))
      s.enqueue (.gang g) [die] x.prio

/-- Close a bin's batch if it is due and a slot is free (R332, R333). -/
def State.settleBin (s : State) (die node : Nat) : State :=
  match s.nodes.find node with
  | none => s
  | some nd =>
    let b := s.bin die node
    match if s.binDue die nd b then nd.freeSlot b else none with
    | none => s
    | some slot => s.closeBatch die node nd slot

/-- BIN_TIMER_EXPIRE (R332): the bin's batch is due. -/
def execBinTimerExpire (die node : Nat) (s : State) : Out := .next (s.settleBin die node)

/-! ### `task.push` and `task.spawn` (R363, R364) -/

/-- A record enters the bin of its die. A batch that is due by then closes first, if it has a slot, so that the record starts a new one
(R332, R333). -/
def State.pushRecord (s : State) (die node : Nat) (nd : Node) (r : List Byte) : Nat × State :=
  let s := s.settleBin die node
  let b := s.bin die node
  let deadline := if b.recs.isEmpty ∧ nd.timer ≠ 0 then some (s.clock die + nd.timer) else b.deadline
  (b.recs.length + 1, (s.setBin die node { b with recs := b.recs ++ [r], deadline := deadline }).settleBin die node)

def State.taskPushOp (s : State) (x : EArgs) (d a b : BitVec 7) : Out :=
  s.engine x true [x.a a.toNat, x.b b.toNat] [sOp d.toNat] fun s =>
    let w := s.wave
    let node := Bits.of (w.sreg b.toNat) 7 0
    let die := dieOf w.core
    let va := w.sreg a.toNat
    match s.nodes.find node with
    | none => s.answer x d.toNat (s.refusal engTask stBadNode)
    | some nd =>
      s.behindAcqs fun s =>
      match s.checkAll s.myGang.asid [⟨.engRead, va.toNat, nd.rsize, 16⟩] with
      | .miss s => s.hold
      | .fault f => s.addrTrap f
      | .ok => match s.genRead va.toNat nd.rsize with
        | none => s.hold
        | some g =>
          if !s.genDone s.cur 4 then s.hold
          else if decide (nd.coal ≤ ((s.settleBin die node).bin die node).recs.length) then s.block
          else
            let (n, s) := g.s.pushRecord die node nd g.bytes
            s.answer x d.toNat (engWord engTask 0 n)

def execTaskPush (d a b : BitVec 7) (s : State) : Out := s.taskPushOp s.wave.engCompact d a b
def execTaskPushLong (d a b : BitVec 7) (l : EL) (s : State) : Out := s.taskPushOp (engLong l) d a b

def State.taskSpawnOp (s : State) (x : EArgs) (d a b : BitVec 7) : Out :=
  s.engine x true [x.a a.toNat, x.b b.toNat] [sOp d.toNat] fun s =>
    let w := s.wave
    let rec_ := w.sreg a.toNat
    match s.checkAll s.myGang.asid [⟨.blockRead, rec_.toNat, 160, 32⟩] with
    | .miss s => s.hold
    | .fault f => s.addrTrap f
    | .ok =>
      if !s.genDone s.cur 4 then s.hold
      else if !s.readyRoom then s.block
      else
        match s.submit s.myGang.asid rec_ (some (w.sreg b.toNat)) {} with
        | .dropped => s.answer x d.toNat (s.refusal engTask stBadDesc)
        | .taken _ s => s.answer x d.toNat (engWord engTask 0 0)

def execTaskSpawn (d a b : BitVec 7) (s : State) : Out := s.taskSpawnOp s.wave.engCompact d a b
def execTaskSpawnLong (d a b : BitVec 7) (l : EL) (s : State) : Out := s.taskSpawnOp (engLong l) d a b

/-! ### Watchpoints (R335, R336, R365, R366) -/

/-- A watchpoint that has no number: submissions it once queued count for none. -/
def State.forgetWatch (s : State) (h : Nat) : State :=
  { s with
    launches := s.launches.update fun _ (x : Launch) => if x.watch == some h then { x with watch := none } else x
    fires := s.fires.map fun (f : Fire) => if f.watch == some h then { f with watch := none } else f }

/-- The lowest free watchpoint of a die. -/
def State.freeWatch (s : State) (die : Nat) : Option Nat :=
  (List.range 64).find? fun n => match s.watch.find (64 * die + n) with
    | some w => !w.armed
    | none => true

/-- The checks of a watch block (R365). -/
def watchBad (addr len : Nat) : Bool :=
  addr % 8 != 0 || len % 8 != 0 || decide (len < 8) || decide (2048 < len) || addr / 2048 != (addr + len - 1) / 2048

def State.wpsetOp (s : State) (x : EArgs) (d a b : BitVec 7) : Out :=
  s.engine x true [x.a a.toNat, x.b b.toNat] [sOp d.toNat] fun s =>
    let w := s.wave
    let va := (w.sreg a.toNat).toNat
    let asid := s.myGang.asid
    s.behindAcqs fun s =>
    match s.checkAll asid [⟨.blockRead, va, 32, 8⟩] with
    | .miss s => s.hold
    | .fault f => s.addrTrap f
    | .ok => match s.genRead va 32 with
      | none => s.hold
      | some g =>
        let addr := numAt g.bytes 0 8
        let len := numAt g.bytes 8 4
        if watchBad addr len then g.s.answer x d.toNat (s.refusal engWatch stBadDesc)
        else match s.checkAll asid [⟨.engRead, addr, len, 1⟩], s.trans asid addr with
          | .miss s, _ => s.hold
          | .fault f, _ => s.addrTrap f
          | .ok, .ok p span =>
            if !s.relDone x then s.hold
            else
              let pa := ptePa p span addr
              let s := g.s
              match s.freeWatch (homeDie pa) with
              | none => s.answer x d.toNat (s.refusal engWatch stFull)
              | some n =>
                let h := 64 * homeDie pa + n
                let s := s.forgetWatch h
                let wp : Watch := ⟨pa, len, wordAt g.bytes 16, wordAt g.bytes 24, w.sreg b.toNat, asid,
                  bitAt (numAt g.bytes 12 4) 0, true, false, 0⟩
                ({ s with watch := s.watch.set h wp }).answer x d.toNat (engWord engWatch 0 h)
          | .ok, _ => s.hold

def execWpset (d a b : BitVec 7) (s : State) : Out := s.wpsetOp s.wave.engCompact d a b
def execWpsetLong (d a b : BitVec 7) (l : EL) (s : State) : Out := s.wpsetOp (engLong l) d a b

def State.wpclrOp (s : State) (x : EArgs) (d a : BitVec 7) : Out :=
  s.engine x true [x.a a.toNat] [sOp d.toNat] fun s =>
    let h := Bits.of (s.wave.sreg a.toNat) 7 0
    if !s.relDone x then s.hold
    else match s.watch.find h with
      | some w =>
        if w.armed && w.asid == s.myGang.asid then
          ({ s with watch := s.watch.set h { w with armed := false } }).answer x d.toNat
            (engWord engWatch 0 w.queued (if w.overflow then 1 else 0))
        else s.answer x d.toNat (s.refusal engWatch stNotFound)
      | none => s.answer x d.toNat (s.refusal engWatch stNotFound)

def execWpclr (d a : BitVec 7) (s : State) : Out := s.wpclrOp s.wave.engCompact d a
def execWpclrLong (d a : BitVec 7) (l : EL) (s : State) : Out := s.wpclrOp (engLong l) d a

/-- A submission stands behind no access that its writer issued before the matching write and that is still to be performed: the write
and the firing are a release at `.pkg` (R336). -/
def State.fireReady (s : State) (f : Fire) : Bool :=
  f.behind.all fun i => s.ops.all (fun o => o.id != i || o.doneAt 4) && s.drains.all fun d => d.id != i

/-- Submit what watchpoints and arrival words have fired (R336, R422). -/
def State.submitFires (s : State) : State :=
  s.fires.foldl (fun (s : State) (f : Fire) =>
    if !s.fireReady f || !s.readyRoom then { s with fires := s.fires ++ [f] }
    else match s.submit f.asid f.lrec none { watch := f.watch } with
    | .dropped => match f.watch with
      | some h => match s.watch.find h with
        | some w => { s with watch := s.watch.set h { w with queued := w.queued - 1 } }
        | none => s
      | none => s
    | .taken _ s => s) { s with fires := [] }

end Sys2Proof.Machine
end

