-- ==== Sys2Proof/Machine/Dispatcher.lean ====
section
/-!
DEFINITION. The gang dispatcher (R20 to R29, R33, R45, R47, R341 to R345, R499): what a core and a quad have free, the
place a gang, a unit or a wave former gets, pre-emption requests and their room in the save area (R497), and the
retirement of a gang.
-/
namespace Sys2Proof.Machine

/-! ### What is held (R22, R26, R27, R43, R44) -/

/-- A gang holds its quad's resources: until its save completes, a gang being saved does (R343). -/
def Gang.placedNow (g : Gang) : Bool := g.status == .resident || g.status == .saving

/-- A wave holds its slot and its registers. -/
def State.holds (s : State) (w : Wave) : Bool :=
  w.status == .live || w.status == .ended || w.status == .tailed || (w.status == .saved && (s.gang w.gang).status == .saving)

/-- `WAVEID` of a slot and generation (R20). -/
def mkWaveid (gen core pipe pos : Nat) : BitVec 32 :=
  BitVec.ofNat 32 (2 ^ 14 * gen + 2 ^ 12 * dieOf core + 16 * (core % 144) + 4 * pipe + pos)

/-- The key of a wave slot. -/
def slotKey (core pipe pos : Nat) : Nat := 16 * core + 4 * pipe + pos

/-- The waves that hold slots on a pipe. -/
def State.onPipe (s : State) (core pipe : Nat) : List Wave :=
  (s.waves.filter fun w => w.2.core == core && field w.2.waveid.toNat 3 2 == pipe && s.holds w.2).map (·.2)

/-- An operation or a command in flight names a `WAVEID`. -/
def State.idNamed (s : State) (id : BitVec 32) : Bool :=
  s.ops.any (fun o => o.waveid == id) || s.cmds.any fun c => c.waveid == id

/-- The generation that a new wave of a slot takes (R45): the next one that no entry names. -/
def State.nextGen (s : State) (core pipe pos : Nat) : Option Nat :=
  ((List.range 4).map fun i => (s.gens.get 0 (slotKey core pipe pos) + i) % 4).find? fun g => !s.idNamed (mkWaveid g core pipe pos)

/-- Positions of a pipe that a new wave can take. -/
def State.freePos (s : State) (core pipe : Nat) : List Nat :=
  (List.range 4).filter fun p => !(s.onPipe core pipe).any (fun w => field w.waveid.toNat 1 0 == p) && (s.nextGen core pipe p).isSome

/-- Kernels of the formations that hold a slot on a pipe of a core. -/
def State.formingOn (s : State) (core pipe : Nat) : List Kernel :=
  (s.formers.filter fun f => f.core == core && f.pipe == pipe).map fun f => (s.launch f.loop).kernel

/-- Waves of a kernel for which a pipe has room (R22). -/
def State.pipeRoom (s : State) (k : Kernel) (core pipe : Nat) : Nat :=
  let ws := s.onPipe core pipe
  let fs := s.formingOn core pipe
  let octs := ws.foldl (fun n w => n + w.vregN / 8) 0 + fs.foldl (fun n f => n + f.vregs / 8) 0
  let sregs := ws.foldl (fun n w => n + w.sregN) 0 + fs.foldl (fun n f => n + f.sregs) 0
  min ((s.freePos core pipe).length - fs.length) (min ((96 - octs) / (k.vregs / 8)) ((512 - sregs) / k.sregs))

/-- The room of a core's four pipes. -/
def State.caps (s : State) (k : Kernel) (core : Nat) : List Nat := (List.range 4).map (s.pipeRoom k core)

/-- Workgroups on a core; a formation counts as the one it will be (R26). -/
def State.wgsOn (s : State) (core : Nat) : Nat :=
  s.gangs.foldl (fun n g => if g.2.placedNow then n + (g.2.wgs.filter fun w => w.core == core).length else n) 0 +
    (s.formers.filter fun f => f.core == core).length

/-- A core's matrix sequencer has an owner. -/
def State.seqOwned (s : State) (core : Nat) : Bool :=
  s.gangs.any fun g => g.2.placedNow && g.2.wgs.any fun w => w.core == core && w.seq

/-- A workgroup of `n` waves of a kernel fits a core (R27, R28). -/
def State.coreFits (s : State) (k : Kernel) (core n : Nat) : Bool :=
  decide (s.wgsOn core < 4) && !(k.mseq && s.seqOwned core) && (spread (s.caps k core) n).isSome

/-- Whole workgroups of a kernel for which a core has room. -/
def State.coreRoom (s : State) (k : Kernel) (core : Nat) : Nat :=
  spreadMany k.waves (if k.mseq then (if s.seqOwned core then 0 else min 1 (4 - s.wgsOn core)) else 4 - s.wgsOn core) (s.caps k core)

/-- Vault bytes of a quad that are free (R212, R342). -/
def State.vaultFree (s : State) (quad : Nat) : Nat :=
  2 ^ 24 - s.gangs.foldl (fun n g => if g.2.placedNow && g.2.quad == quad then n + g.2.vaultSize else n) 0 -
    s.formers.foldl (fun n f => if quadOf f.core == quad then n + (s.launch f.loop).kernel.vaultSize else n) 0

/-- The four cores of a quad, those with most room for the kernel first. -/
def State.coresOf (s : State) (k : Kernel) (quad : Nat) : List Nat :=
  sortBy ((List.range 4).map (4 * quad + ·)) fun a b => decide (s.coreRoom k b ≤ s.coreRoom k a)

/-- Distinct cores for workgroups of the given sizes. -/
def assign (fits : Nat → Nat → Bool) : List Nat → List Nat → Option (List Nat)
  | [], _ => some []
  | n :: ns, cores => cores.findSome? fun c =>
      if fits c n then (assign fits ns (cores.filter (· != c))).map (c :: ·) else none

/-- The waves that gang `g` has still to be placed with, per workgroup: those saved and not ended, or all. -/
def State.needs (s : State) (g : Nat) : List Nat :=
  let gg := s.gang g
  let k := (s.launch gg.launch).kernel
  if gg.status = .saved then
    (List.range k.wg).map fun i => (s.waves.filter fun w => w.2.gang == g && w.2.wg == i && w.2.status == .saved).length
  else copies k.wg k.waves

/-- The cores of a quad that gang `g` would get (R27). -/
def State.spotOn (s : State) (g quad : Nat) : Option (List Nat) :=
  let gg := s.gang g
  let k := (s.launch gg.launch).kernel
  if s.vaultFree quad < gg.vaultSize then none else assign (s.coreFits k) (s.needs g) (s.coresOf k quad)

/-- Of the quads of a die that an entry fits, the one with the fewest free vault bytes, the lowest among equals (R342). -/
def State.bestQuad {α : Type} (s : State) (die : Nat) (fit : Nat → Option α) : Option (Nat × α) :=
  (upto (36 * die) 36).foldl (fun (best : Option (Nat × α)) q => match fit q with
    | none => best
    | some x => match best with
      | some b => if s.vaultFree q < s.vaultFree b.1 then some (q, x) else best
      | none => some (q, x)) none

/-- The quad and the cores that gang `g` gets on a die. -/
def State.spot (s : State) (g die : Nat) : Option (Nat × List Nat) := s.bestQuad die (s.spotOn g)

/-- The core and the pipe that a formation of a loop gets (R499). -/
def State.formerSpot (s : State) (l die : Nat) : Option (Nat × Nat) :=
  let k := (s.launch l).kernel
  (s.bestQuad die fun q =>
    if s.vaultFree q < k.vaultSize then none
    else ((List.range 4).map (4 * q + ·)).findSome? fun c =>
      if s.formers.any (fun f => f.core == c) || !s.coreFits k c 1 then none
      else (spread (s.caps k c) 1).map fun counts => (c, (counts.findIdx? (· != 0)).getD 0)).map (·.2)

/-! ### Placement (R6, R20, R45, R160, R379) -/

/-- Give wave `k` a slot on a pipe of a core, with a fresh `WAVEID`. -/
def State.slotIn (s : State) (k core pipe : Nat) : State :=
  match s.freePos core pipe with
  | [] => s
  | pos :: _ =>
    let gen := (s.nextGen core pipe pos).getD 0
    let s := { s with gens := s.gens.set (slotKey core pipe pos) ((gen + 1) % 4) }
    s.setWaveAt k { s.waveAt k with waveid := mkWaveid gen core pipe pos, core := core, status := .live }

/-- Seat the waves of a workgroup on a core's pipes (R28); its caches are emptied (R280). -/
def State.seat (s : State) (k : Kernel) (core : Nat) (keys : List Nat) : State :=
  let counts := (spread (s.caps k core) keys.length).getD []
  let pipes := (List.range 4).flatMap fun p => copies (nth 0 counts p) p
  (((List.zip keys pipes).foldl (fun (s : State) x => s.slotIn x.1 core x.2) s).emptyL1 core).dropRo core

/-- A wave as it starts (R6, R48). -/
def State.freshWave (s : State) (g wg no : Nat) (k : Kernel) : Wave :=
  let gg := s.gang g
  { Wave.blank with
    gang := g, wg := wg, no := no, sregN := k.sregs, vregN := k.vregs, pc := gg.entryPc, budget := k.budget, stall := k.stall,
    s := [(0, ⟨gg.s0, true⟩), (1, ⟨gg.s1 + BitVec.ofNat 64 (wg * k.waves + no), true⟩)] }

/-- The numbered barriers of a workgroup as it is placed: EXPECT counts its waves and its sequencer (R160). -/
def freshNb (k : Kernel) : Map NBar :=
  (List.range 16).map fun i => (i, ⟨k.waves + (if k.mseq then 1 else 0), 0, 0, []⟩)

/-- Place workgroup `wg` of gang `g` on a core for the first time. -/
def State.placeWg (s : State) (g wg core : Nat) (k : Kernel) : State :=
  let (keys, s) := (List.range k.waves).foldl (fun (x : List Nat × State) no =>
    let (id, s) := x.2.fresh
    (x.1 ++ [id], s.setWaveAt id (s.freshWave g wg no k))) ([], s)
  let s := if k.mseq then
      { s with seqs := s.seqs.set (seqKey g wg) { Seqr.blank with
          gang := g, wg := wg, core := core, asid := (s.gang g).asid, args := (s.launch (s.gang g).launch).args,
          status := .run, mpc := k.mstream } }
    else s
  s.seat k core keys

/-- Count a placement of the launch, and report its first (R336, R337). -/
def State.notePlaced (s : State) (l : Nat) : State :=
  let first := (s.launch l).placedN = 0
  let s := s.modLaunch l fun x => { x with placedN := x.placedN + 1 }
  let s := if first then s.reportLaunch l 1 else s
  let x := s.launch l
  if x.kernel.mode ≠ 1 ∧ x.placedN = x.gangs then s.watchFree l else s

/-- Place gang `g` for the first time, on the cores of a quad. -/
def State.placeFresh (s : State) (g quad level : Nat) (cores : List Nat) : State :=
  let k := (s.launch (s.gang g).launch).kernel
  let (n, s) := s.fresh
  let s := s.modGang g fun x => { x with
    status := .resident, quad := quad, placed := n, resLevel := level, vault := [],
    wgs := cores.map fun c => ⟨c, k.waves, k.mseq, freshNb k, 0⟩ }
  let s := (List.zip (upto 0 k.wg) cores).foldl (fun (s : State) x => s.placeWg g x.1 x.2 k) s
  s.notePlaced (s.gang g).launch

/-! ### The save area (R469, R497) -/

/-- Bytes of a wave record saved whole (R468). -/
def waveRecMax (k : Kernel) : Nat := pad128 (512 + 8 * k.sregs + 128 * k.vregs)

/-- Units of the largest image that a gang of a kernel could need (R469, R497). -/
def imageMax (k : Kernel) (vault : Nat) : Nat :=
  let waves := k.wg * k.waves
  let bytes := 128 + pad128 680 + pad128 16 + 8 * pad128 (16 + 16384) + (if k.mseq then k.wg * (1024 + 128 * 4096) else 0) +
    (if vault = 0 then 0 else pad128 (16 + pad128 vault)) + waves * waveRecMax k + pad128 (16 * waves * k.sregs)
  (bytes + 65535) / 65536

/-- Units of the save area. -/
def State.saveUnits (s : State) : Nat := min 524288 (s.hr.savesize.toNat / 65536 - 1)

/-- A run of units is free. -/
def State.runFree (s : State) (first n : Nat) : Bool :=
  decide (first + n ≤ s.saveUnits) && s.saved.all fun x => x.units == 0 || decide (first + n ≤ x.first ∨ x.first + x.units ≤ first)

/-- The lowest run of `n` free units. -/
def State.findRun (s : State) (n : Nat) : Option Nat :=
  smallest ((0 :: s.saved.map fun x => x.first + x.units).filter fun f => s.runFree f n)

/-- Set or clear the bits of a run in the allocation map. -/
def State.markUnits (s : State) (first n : Nat) (b : Bool) : State :=
  if n = 0 then s
  else (List.range ((first + n - 1) / 8 - first / 8 + 1)).foldl (fun (s : State) i =>
    let byte := first / 8 + i
    let pa := s.hr.savebase.toNat + byte
    let old := (Memory.get s.mem pa).toNat
    let new := (List.range 8).foldl (fun m j =>
      let u := 8 * byte + j
      let bit := if first ≤ u ∧ u < first + n then b else bitAt old j
      if bit then m + 2 ^ j else m) 0
    s.physPut pa [BitVec.ofNat 8 new]) s

/-- Free the units that a gang holds in the save area. -/
def State.freeSave (s : State) (g : Nat) : State :=
  match s.saved.find? (fun x => x.gang == g) with
  | none => s
  | some x => ({ s with saved := s.saved.filter fun y => y.gang != g }).markUnits x.first x.units false

/-- Reserve room for one gang's image. -/
def State.reserveSave (s : State) (unit : Bool) (g : Nat) : Option State :=
  let gg := s.gang g
  let n := imageMax (s.launch gg.launch).kernel gg.vaultSize
  (s.findRun n).map fun f =>
    ({ s with saved := s.saved ++ [Saved.mk g f n gg.resLevel unit] }).markUnits f n true

/-- Gangs that are saved and restored with gang `g` (R29, R34): those of its launch's unit that are still there. -/
def State.unitOf (s : State) (g : Nat) : List Nat :=
  let l := (s.gang g).launch
  if (s.launch l).unit && (s.gang g).batch.isNone then
    (s.gangs.filter fun x => x.2.launch == l && (x.2.placedNow || x.2.status == .saved)).map (·.1)
  else [g]

/-- Request the save of a gang, with its unit; the deadline is its save budget from now (R466, R497). -/
def State.requestSave (s : State) (g : Nat) (budget : Nat) : State :=
  let gs := s.unitOf g
  if gs.any fun x => (s.gang x).status == .saving then s
  else match gs.foldlM (fun (t : State) x => t.reserveSave (decide (1 < gs.length) || (s.launch (s.gang g).launch).unit) x) s with
    | none => s.raise evSaveRef
    | some t => gs.foldl (fun (t : State) x =>
        t.modGang x fun y => { y with status := .saving, saveAt := some (t.clock y.die + budget), phintRanges := [] }) t

/-! ### Restore (R168, R206, R470) -/

/-- Entries that a `cstage` released name the wave under its new `WAVEID`. -/
def State.renameReleases (s : State) (g : Nat) : State :=
  s.modGang g fun x => { x with releases := x.releases.map fun r =>
    if (s.waveAt r.2.1).status = .live then (r.1, r.2.1, (s.waveAt r.2.1).waveid, r.2.2.2) else r }

/-- Additions that came to the arrival words of a gang while it was saved are applied (R422). -/
def State.releaseHeld (s : State) (g : Nat) : State :=
  s.arrivals.foldl (fun (s : State) e =>
    if e.2.gang = g ∧ e.2.held ≠ 0 then
      { s.addArrival e.2 e.2.held.toNat with arrivals := s.arrivals.set e.1 { e.2 with held := 0 } }
    else s) s

/-- Copy commands that a save has withdrawn are issued again on the quad that their gang now occupies, each once its core's tracker has an
entry for it (R42, R439). -/
def State.reissueDrains (s : State) : State :=
  s.cmds.foldl (fun (s : State) c =>
    let w := s.waveAt c.wave
    if c.eng != engCopy || c.unit != 144 || (s.gang c.gang).status != .resident || !s.trackerRoom w.core then s
    else { s with cmds := s.cmds.map fun (q : Cmd) =>
      if q.id == c.id then { q with unit := (s.gang c.gang).quad, core := w.core, waveid := w.waveid, tracker := true } else q }) s

/-- Restore gang `g` on the cores of a quad (R470). -/
def State.restoreGang (s : State) (g quad level : Nat) (cores : List Nat) : State :=
  let k := (s.launch (s.gang g).launch).kernel
  let (n, s) := s.fresh
  let s := s.freeSave g
  let s := s.modGang g fun x => { x with
    status := .resident, die := quad / 36, quad := quad, placed := n, resLevel := level, saveAt := none, phintRanges := [],
    wgs := List.zipWith (fun (w : Wg) c => { w with core := c }) x.wgs cores }
  let s := { s with slots := s.slots.map fun (x : Slot) => if x.gang == g then { x with quad := quad } else x }
  let s := (List.zip (upto 0 k.wg) cores).foldl (fun (s : State) x =>
    let keys := (s.waves.filter fun w => w.2.gang == g && w.2.wg == x.1 && w.2.status == .saved).map (·.1)
    let s := s.seat k x.2 keys
    let s := keys.foldl (fun (s : State) i => s.setWaveAt i { s.waveAt i with saveMap := none }) s
    let q := seqKey g x.1
    match s.seqs.find q with
    | some y => { s with seqs := s.seqs.set q { y with core := x.2, status := if y.status = .saved then y.before else y.status } }
    | none => s) s
  ((s.renameReleases g).releaseHeld g).reissueDrains

/-! ### Formations (R317, R318, R499) -/

/-- Pending items of a loop that no former tries. -/
def Launch.free (x : Launch) : List Nat := (x.item.filter fun i => i.2.state == 1 && !i.2.trial).map (·.1)

/-- The lowest pending item of a loop, under trial or not. -/
def Launch.lowest (x : Launch) : Option Nat := smallest ((x.item.filter fun i => i.2.state == 1).map (·.1))

/-- The dies that the gangs of a launch may lie on: with a lateral grant the lowest die of the mask alone (R330, R481). -/
def Launch.homeDies (x : Launch) : List Nat := if x.grants % 4 != 0 then [x.dies.headD 0] else x.dies

/-- Keep one queue entry per die of a loop in its body phase with a pending item not under trial (R499). -/
def State.formerEntries (s : State) (l : Nat) : State :=
  let x := s.launch l
  if x.bodyPhase && !x.free.isEmpty then
    x.homeDies.foldl (fun (s : State) d =>
      if s.queue.any fun e => e.2.kind == .former l && e.2.dies == [d] then s else s.enqueue (.former l) [d] x.prio) s
  else { s with queue := s.queue.filter fun e => e.2.kind != .former l }

/-- Begin a formation on a core: the loop's next body number, and its candidates, which are under trial (R317, R318). -/
def State.beginForm (s : State) (l core pipe level : Nat) : State :=
  let x := s.launch l
  let cands := (x.free.take 64).map fun i => (i, x.lowest == some i)
  let item := cands.foldl (fun (m : Map Item) c => match m.find c.1 with
    | some it => m.set c.1 { it with trial := true }
    | none => m) x.item
  let s := s.modLaunch l fun x => { x with nextBody := x.nextBody + 1, item := item }
  ({ s with formers := s.formers ++ [Former.mk l core pipe level x.nextBody cands [] [] false] }).formerEntries l

/-! ### The scan of a die's ready queue (R341 to R343) -/

/-- In a pod of PART 1 a second launch of scope `.pod` is held until the first completes (R408; log 36). -/
def State.podHeld (s : State) (l : Nat) : Bool :=
  s.pod.any (fun p => p.part == 1) && (s.launch l).kernel.bscope == 6 && s.launches.any fun x => x.1 != l && x.2.kernel.bscope == 6 && x.2.status == .ready && x.2.placedN != 0

/-- Place one gang that waits on a die: for the first time, or restored. -/
def State.placeGang (s : State) (g level die : Nat) : Option State :=
  (s.spot g die).map fun x => if (s.gang g).status = .saved then s.restoreGang g x.1 level x.2 else s.placeFresh g x.1 level x.2

/-- The gangs of a unit that wait for it. -/
def State.unitGangs (s : State) (l : Nat) : List Nat :=
  (s.gangs.filter fun x => x.2.launch == l && x.2.batch.isNone && (x.2.status == .ready || x.2.status == .saved)).map (·.1)

/-- The entry stands for the gangs of a unit (R33). -/
def QKind.isUnit : QKind → Bool
  | .unit _ => true
  | _ => false

/-- Place a queue entry on die `die`, if it fits: for a former this begins a formation there. The gangs of a unit lie on the dies that they are
bound to (R330), a gang that was saved on any die of its entry (R206). An entry that R408 holds back is not placed either: the scan passes over
it as over one that does not fit, so that it may become blocking, which is the model's choice (log 114). -/
def State.placeEntry (s : State) (die : Nat) (e : QEntry) : Option State :=
  match e.kind with
  | .gang g => if s.podHeld (s.gang g).launch then none else s.placeGang g e.level die
  | .unit l => if s.podHeld l then none else (s.unitGangs l).foldlM (fun (t : State) g => t.placeGang g e.level (s.gang g).die) s
  | .former l => if (s.launch l).free.isEmpty then none else (s.formerSpot l die).map fun x => s.beginForm l x.1 x.2 e.level

/-- An entry's gangs were saved before. -/
def State.isRestore (s : State) : QKind → Bool
  | .gang g => (s.gang g).status == .saved
  | .unit l => (s.unitGangs l).any fun g => (s.gang g).status == .saved
  | .former _ => false

/-- The entries of a die's ready queue: level 7 first, in queue order within a level. -/
def State.order (s : State) (die : Nat) : List (Nat × QEntry) :=
  (List.range 8).reverse.flatMap fun lv => s.queue.filter fun e => e.2.level == lv && e.2.dies.contains die

/-- The head of a level on a die. -/
def State.headOf (s : State) (die level : Nat) : Option Nat :=
  ((s.queue.filter fun e => e.2.level == level && e.2.dies.contains die).head?).map (·.1)

/-- On die `die` a blocking entry that waits for that die bars another entry of its level or below (R342); a unit, which is placed on all its
dies together, is barred by one that waits for any of them (R330). Of two blocking entries of one level the
one ahead in the queue bars the other, and not the other way round, so that one of them is placed (R345; log 96). -/
def State.barred (s : State) (die key : Nat) (e : QEntry) : Bool :=
  s.queue.any fun b => b.1 != key && b.2.blocking && decide (e.level ≤ b.2.level) &&
    (if e.kind.isUnit then b.2.dies.any e.dies.contains else b.2.dies.contains die) && !(e.blocking && e.level == b.2.level && decide (key < b.1))

/-- The state with some gangs gone from their quads: what saves would free. -/
def State.without (s : State) (gs : List Nat) : State :=
  { s with
    waves := s.waves.filter fun w => !gs.contains w.2.gang
    gangs := s.gangs.update fun g (x : Gang) => if gs.contains g then { x with status := .retired } else x }

/-- The gangs whose saves are under way. -/
def State.savingGangs (s : State) : List Nat := (s.gangs.filter fun g => g.2.status == .saving).map (·.1)

/-- Gangs of a die that may be saved for an entry: of a lower level, the lowest level first and the most recently placed
first within it. -/
def State.victims (s : State) (die level : Nat) : List Nat :=
  (sortBy (s.gangs.filter fun g => g.2.status == .resident && g.2.die == die && decide (g.2.resLevel < level)) fun a b =>
    decide (a.2.resLevel < b.2.resLevel) || (a.2.resLevel == b.2.resLevel && decide (b.2.placed ≤ a.2.placed))).map (·.1)

/-- The fewest of the victims, taken in order, whose saves would let an entry be placed. Where not even the saves of all of them would, none is
requested: R343 does not say, and that is the model's choice (log 116). -/
def State.pickVictims (s : State) (fits : State → Bool) (gone : List Nat) : (vs : List Nat) → Option (List Nat)
  | [] => if fits (s.without gone) then some [] else none
  | v :: vs =>
    if fits (s.without gone) then some []
    else (State.pickVictims s fits (gone ++ s.unitOf v) vs).map (v :: ·)

/-- The part of an entry that concerns one die fits: for a unit, the gangs bound to that die (R343). -/
def State.fitsOn (s : State) (die : Nat) (e : QEntry) : Bool :=
  match e.kind with
  | .unit l => (((s.unitGangs l).filter fun g => (s.gang g).die == die).foldlM (fun (t : State) g => t.placeGang g e.level die) s).isSome
  | _ => (s.placeEntry die e).isSome

/-- Request on one die the fewest saves that make room for an entry there, counting the saves that are under way as done. -/
def State.requestOn (s : State) (die : Nat) (e : QEntry) : State :=
  match s.pickVictims (fun t => t.fitsOn die e) s.savingGangs (s.victims die e.level) with
  | none => s
  | some vs => vs.foldl (fun (s : State) v => s.requestSave v s.hr.savebud.toNat) s

/-- Request saves for an entry at or above the pre-emption level that does not fit on die `die`: for a unit on each of its dies; for one gang
on that die, unless it fits on one of its dies or will once the saves under way are done (R206, R343). -/
def State.preempt (s : State) (die : Nat) (e : QEntry) : State :=
  if bitAt s.hr.prelevel.toNat 3 || decide (e.level < field s.hr.prelevel.toNat 2 0) then s
  else if e.kind.isUnit then e.dies.foldl (fun (s : State) d => s.requestOn d e) s
  else if e.dies.any fun d => (s.without s.savingGangs).fitsOn d e then s
  else s.requestOn die e

/-- Note that the head of a level has been passed over, from now on. -/
def State.passOver (s : State) (die key : Nat) (e : QEntry) : State :=
  if s.headOf die e.level = some key ∧ e.skippedAt.isNone then
    { s with queue := s.queue.set key { e with skippedAt := some (s.clock (e.dies.headD 0)) } }
  else s

/-- Scan a die's queue: pass over what does not fit, up to the first entry that does; `take` says whether that one is
placed now. -/
def State.scan (s : State) (die : Nat) (take : QKind → Bool) : List (Nat × QEntry) → State
  | [] => s
  | (key, e) :: es =>
    if s.barred die key e then State.scan s die take es
    else match s.placeEntry die e with
      | some t =>
        if !take e.kind then s
        else match e.kind with
          | .former _ => match t.queue.find key with
            | none => t
            | some e => let (k, t) := t.tailKey
                        { t with queue := (t.queue.erase key).set k { e with since := t.clock die, skippedAt := none, blocking := false } }
          | _ => { t with queue := t.queue.erase key }
      | none => State.scan ((s.passOver die key e).preempt die e) die take es

/-- The dispatchers place gangs: not in a thermal hold (R495), nor in L2 or L3, which hold no resident gang, before the device has left them
(R493). -/
def State.mayPlace (s : State) : Bool := !s.thold && (s.power == .l0 || s.power == .l1)

/-- GANG_PLACE (R27, R341 to R343). -/
def execGangPlace (die : Nat) (s : State) : Out :=
  .next (if !s.mayPlace || decide (4 ≤ die) then s else s.scan die (fun k => !s.isRestore k) (s.order die))

/-- GANG_RESTORE (R470): the gang, with its unit, is the one that the scan of its die comes to. -/
def execGangRestore (gang die : Nat) (s : State) : Out :=
  .next (if !s.mayPlace || decide (4 ≤ die) then s
    else s.scan die (fun k => s.isRestore k && (k == .gang gang || k == .unit (s.gang gang).launch)) (s.order die))

/-- The ageing period: 0 is read as 1 (R484). -/
def State.agePeriod (s : State) : Nat := max 1 s.hr.age.toNat

/-- GANG_AGE (R341): an entry that has waited AGE cycles at a level moves to the tail of the next; one that is blocking stays so
(R342). The time that another one has been passed over counts afresh at the next level, which is the model's choice (log 115). -/
def execGangAge (entry : Nat) (s : State) : Out :=
  .next (match s.queue.find entry with
    | none => s
    | some e =>
      let now := s.clock (e.dies.headD 0)
      if 7 ≤ e.level ∨ now < e.since + s.agePeriod then s
      else
        let (k, s) := s.tailKey
        { s with queue := (s.queue.erase entry).set k { e with level := e.level + 1, since := now, skippedAt := if e.blocking then e.skippedAt else none } })

/-- GANG_BLOCKING (R342): the head of a level that has been passed over for AGE cycles becomes blocking. -/
def execGangBlocking (entry : Nat) (s : State) : Out :=
  .next (match s.queue.find entry with
    | none => s
    | some e => match e.skippedAt with
      | none => s
      | some t =>
        if e.dies.any (fun d => s.headOf d e.level == some entry) ∧ t + s.agePeriod ≤ s.clock (e.dies.headD 0) then
          { s with queue := s.queue.set entry { e with blocking := true } }
        else s)

/-! ### Retirement (R47) -/

/-- A sequencer has come to the end of its stream, or was stopped. -/
def Seqr.ceased (q : Seqr) : Bool := q.status == .ended || q.status == .stopped

/-- Entries of a gang's schedule that are running. -/
def State.entriesRunning (s : State) (g : Nat) : Bool := s.cmds.any fun c => c.gang == g && c.eng == engCopy

/-- Every released entry of a gang's copy schedule has started (R437). -/
def Gang.allStarted (g : Gang) : Bool := decide (g.stage ≤ g.nextEntry)

/-- A gang can retire. -/
def State.canRetire (s : State) (g : Nat) : Bool :=
  let gg := s.gang g
  gg.placedNow && !s.waves.any (fun w => w.2.gang == g && (w.2.status == .live || w.2.status == .saved)) &&
    s.seqs.all (fun q => q.2.gang != g || q.2.ceased) && gg.allStarted && !s.entriesRunning g &&
    !s.drains.any (fun d => d.gang == g) && !s.ops.any (fun o => o.tracker && o.gang == g) &&
    !s.cmds.any (fun c => c.tracker && c.gang == g)

/-- Queue an entry for a saved gang ahead of those of its level (R341); it waits from now on, by the clock of its first die. -/
def State.queueHead (s : State) (kind : QKind) (dies : List Nat) (level : Nat) : State :=
  { s with queue := s.queue.set s.headKey ⟨kind, dies, level, s.clock (dies.headD 0), none, false⟩ }

/-- Queue the gangs of a unit together once the last of those that have not retired is saved (R34). -/
def State.requeueUnit (s : State) (l : Nat) : State :=
  let gs := s.gangs.filter fun y => y.2.launch == l && y.2.batch.isNone && y.2.status != .retired
  if gs.isEmpty || !(gs.all fun y => y.2.status == .saved) || s.queue.any (fun e => e.2.kind == .unit l) then s
  else s.queueHead (.unit l) (dedup (gs.map fun y => y.2.die)) (gs.foldl (fun m y => max m y.2.resLevel) 0)

/-- Queue a saved gang: it may be restored on any die that its launch may use (R206, R341). -/
def State.requeue (s : State) (g : Nat) : State :=
  let x := s.gang g
  if (s.launch x.launch).unit && x.batch.isNone then s.requeueUnit x.launch
  else s.queueHead (.gang g) (s.launch x.launch).homeDies x.resLevel

/-- Free what a gang holds. Where it was the last of its unit that a save waited for, the saved ones are queued (R34). -/
def State.freeGang (s : State) (g : Nat) : State :=
  let s := s.freeSave g
  let gg := s.gang g
  let s := { s with
    waves := s.waves.filter fun (w : Nat × Wave) => w.2.gang != g || w.2.status == WStatus.tailed
    seqs := s.seqs.filter fun q => q.2.gang != g
    slots := s.slots.filter fun x => x.gang != g }
  let s := s.modGang g fun x => { x with status := .retired, vault := [], wgs := [], saveAt := none }
  let s := s.modLaunch gg.launch fun x => { x with retired := x.retired + 1, lastDie := gg.die }
  match gg.batch with
  | some (node, die, slot) => (s.freeBatch die node slot).settleBin die node
  | none => if (s.launch gg.launch).unit then s.requeueUnit gg.launch else s

/-- The pitches that a wave's items hold are to be released, and its items are done (R319). -/
def State.releaseItems (s : State) (l body : Nat) (items : List Nat) : State :=
  items.foldl (fun (s : State) i => match (s.launch l).item.find i with
    | none => s
    | some it =>
      let s := s.modLaunch l fun x => { x with item := x.item.set i { it with state := 3 } }
      let x := s.launch l
      let s := s.devPut x.asid (x.itemreg.toNat + 128 * i + 4) (toBytes 4 3)
      { s with pitchRels := s.pitchRels ++ it.pits.map fun p => (l, p, body, i) }) s

/-- Body waves of a gang that still hold their items release them (R319). -/
def State.releaseGang (s : State) (g : Nat) : State :=
  let s := s.stir (s.gang g).launch
  (s.waves.filter fun w => w.2.gang == g).foldl (fun (s : State) w => match w.2.bodyNo with
    | some b => if w.2.released then s else s.releaseItems (s.gang g).launch b (w.2.items.map (·.2))
    | none => s) s

/-- GANG_RETIRE (R47, R319, R332). -/
def execGangRetire (gang : Nat) (s : State) : Out :=
  .next (if s.canRetire gang then (s.releaseGang gang).freeGang gang else s)

end Sys2Proof.Machine
end

