-- ==== Sys2Proof/Machine/Claims.lean ====
section
/-!
DEFINITION. Claims and the wave former (R285, R286, R311 to R323, R362): `claim.post`, `claim.take`, `claim.done`, the
Pitch Table, and the forming of body waves.
-/
namespace Sys2Proof.Machine

/-! ### Items (R313, R314) -/

/-- The 128 bytes of an item record. -/
def Item.bytes (it : Item) (i : Nat) : List Byte :=
  toBytes 4 i ++ toBytes 4 it.state ++ it.pay.flatMap (fun p => toBytes 4 p.toNat) ++ toBytes 4 it.pits.length ++
    toBytes 4 it.body ++ it.pits.flatMap (toBytes 8) ++ copies (8 * (8 - it.pits.length) + 32) 0

/-- Keep an item, and write its record. -/
def State.setItem (s : State) (l i : Nat) (it : Item) : State :=
  let s := s.modLaunch l fun x => { x with item := x.item.set i it }
  let x := s.launch l
  s.devPut x.asid (x.itemreg.toNat + 128 * i) (it.bytes i)

/-- Record one lane's post, or discard it (R313). BODY is not valid before STATE 2, and that it is written as 0 is the model's choice
(R314; log 110). -/
def State.recordPost (s : State) (l : Nat) (p : Nat × List Lane × List Nat) : State :=
  let x := s.launch l
  if p.1 < x.items ∧ (x.item.find p.1).isNone then
    (s.modLaunch l fun x => { x with posted := x.posted + 1 }).setItem l p.1 ⟨1, p.2.1, p.2.2, 0, false⟩
  else s.modLaunch l fun x => { x with discarded := x.discarded + 1 }

/-! ### `claim.post` (R285, R312, R315) -/

/-- The wave is a scout wave of a reserving loop (R312). -/
def State.isScout (s : State) : Bool := s.myLaunch.kernel.mode == 1 && s.wave.bodyNo.isNone

/-- Claim address `k` of a lane. -/
def claimAddr (w : Wave) (a : BitVec 7) (b k l : Nat) : Nat := (w.sreg a.toNat + (w.lane (b + 5 + k) l).setWidth 64).toNat

/-- The pitch of a claim address that has passed its checks: the 64-byte granule of its physical address (R285). -/
def State.pitchOf (s : State) (va : Nat) : Nat :=
  match s.trans s.myGang.asid va with
  | .ok p n => ptePa p n va / 64 * 64
  | _ => 0

/-- The posts of the lanes that take part, lower lanes first. -/
def State.posts (s : State) (x : EArgs) (a : BitVec 7) (b n : Nat) : List (Nat × List Lane × List Nat) :=
  let w := s.wave
  ((List.range 32).filter (w.takes x.pred)).map fun l =>
    ((w.lane b l).toNat, (upto (b + 1) 4).map (fun r => w.lane r l),
      dedup ((List.range n).map fun k => s.pitchOf (claimAddr w a b k l)))

/-- The block of a `claim.post` whose descriptor is `v`, with the address count; that FE bit 15, which is that of S[B], says how its vector
registers are read is the model's choice (log 93). -/
def EArgs.postBlock (x : EArgs) (v : Word) : Opnd × Nat := ((vOp (upto (Bits.of v 7 0) (5 + Bits.of v 11 8)) 1).fe x.fe, Bits.of v 11 8)

/-- The descriptor of a `claim.post` is not refused, where S[B] is full (R285). -/
def Wave.postOk (w : Wave) (x : EArgs) (b : BitVec 7) : Bool :=
  let (blk, n) := x.postBlock (w.sreg b.toNat)
  !w.sFull b.toNat || (decide (1 ≤ n ∧ n ≤ 8) && w.opndOk blk)

def State.claimPostOp (s : State) (x : EArgs) (d a b : BitVec 7) : Out :=
  s.engine x (s.isScout && s.wave.postOk x b) [x.a a.toNat, x.b b.toNat] [sOp d.toNat] fun s =>
    let w := s.wave
    let base := Bits.of (w.sreg b.toNat) 7 0
    let (blk, n) := x.postBlock (w.sreg b.toNat)
    match w.emptyCheck [blk] with
    | .empty i => s.trap Code.empty i
    | _ =>
      if !w.allReady [blk] then s.block
      else
        let lanes := (List.range 32).filter (w.takes x.pred)
        let rs : List Range := lanes.flatMap fun l => (List.range n).map fun k => ⟨.engWrite, claimAddr w a base k l, 1, 1⟩
        s.behindAcqs fun s =>
        match s.checkAll s.myGang.asid rs with
        | .miss s => s.hold
        | .fault f => s.addrTrap f
        | .ok =>
          if !s.relDone x then s.hold
          else if !s.trackerRoom w.core then s.block
          else
            let (c, s) := s.newCmd engClaim 0 (some d.toNat) (.claimPost (s.posts x a base n)) x.acqScope
            s.accept x c

def execClaimPost (d a b : BitVec 7) (s : State) : Out := s.claimPostOp s.wave.engCompact d a b
def execClaimPostLong (d a b : BitVec 7) (l : EL) (s : State) : Out := s.claimPostOp (engLong l) d a b

/-! ### `claim.take` (R286) -/

/-- Write the items of a body wave into v`b` to v`b`+4. -/
def Wave.takeItems (w : Wave) (x : Launch) (b : Nat) : Wave :=
  (List.range 5).foldl (fun (w : Wave) r =>
    w.setV (b + r) ((List.range 32).map fun l => match w.items.find? (fun it => it.1 == l) with
      | none => w.lane (b + r) l
      | some it => if r = 0 then BitVec.ofNat 32 it.2
          else nth 0 ((x.item.find it.2).map (·.pay) |>.getD []) (r - 1))) w

/-- `claim.take` (R286). Its registers fill in the step in which it issues, so that they are never seen empty: the model's choice
(log 92). -/
def State.claimTakeOp (s : State) (x : EArgs) (d b : BitVec 7) : Out :=
  s.engine x true [x.b b.toNat] [sOp d.toNat] fun s =>
    let w := s.wave
    let base := Bits.of (w.sreg b.toNat) 7 0
    let blk := vOp (upto base 5)
    if !w.opndOk blk then s.illegal
    else if !s.relDone x then s.hold
    else if w.bodyNo.isNone then s.answer x d.toNat 0
    else if w.taken then (s.emptyL1 w.core).answer x d.toNat 0
    else if !w.allReady [blk] then s.block
    else
      let s := s.stir s.myGang.launch
      let mask := laneMask fun l => s.wave.items.any fun it => it.1 == l
      let s := (s.emptyL1 w.core).modWave fun w => { w.takeItems s.myLaunch base with taken := true }
      s.answer x d.toNat (mask.setWidth 64)

def execClaimTake (d _a b : BitVec 7) (s : State) : Out := s.claimTakeOp s.wave.engCompact d b
def execClaimTakeLong (d _a b : BitVec 7) (l : EL) (s : State) : Out := s.claimTakeOp (engLong l) d b

/-! ### `claim.done` (R319, R362) -/

def State.claimDoneOp (s : State) (x : EArgs) (d : BitVec 7) : Out :=
  s.engine x true [] [sOp d.toNat] fun s =>
    if !s.relDone x then s.hold
    else if !s.trackerRoom s.wave.core then s.block
    else
      let (c, s) := s.newCmd engClaim 0 (some d.toNat) .claimDone x.acqScope
      s.accept x c

def execClaimDone (d : BitVec 7) (s : State) : Out := s.claimDoneOp s.wave.engCompact d
def execClaimDoneLong (d : BitVec 7) (l : EL) (s : State) : Out := s.claimDoneOp (engLong l) d

/-- Every GEN access that a wave issued before its instruction numbered `id` is performed at a scope. -/
def State.genDoneBefore (s : State) (k id scope : Nat) : Bool :=
  s.ops.all fun o => o.wave != k || o.path != .gen || decide (id < o.id) || o.doneAt scope

/-- `claim.done` goes on: first the release begins, once the wave's earlier GEN accesses are performed and an earlier `claim.done` of the
wave is over; then, once the
slices have applied it, the completion word is written. -/
def State.claimDoneStep (s : State) (c : Cmd) : State :=
  let s := s.stir (s.gang c.gang).launch
  if c.status = .queued then
    if !s.genDoneBefore c.wave c.id 4 || s.cmds.any (fun q => q.wave == c.wave && q.op == .claimDone && decide (q.id < c.id)) then s
    else
      let w := s.waveAt c.wave
      match w.bodyNo with
      | none => s.finish c (engWord engClaim 0 0)
      | some b =>
        if w.released then s.finish c (engWord engClaim 0 0)
        else
          let l := (s.gang c.gang).launch
          let n := s.pitchRels.length
          let s := s.releaseItems l b (w.items.map (·.2))
          let s := s.setWaveAt c.wave { s.waveAt c.wave with released := true }
          s.setCmd { c with status := .running, word := engWord engClaim 0 (s.pitchRels.length - n) }
  else match (s.waveAt c.wave).bodyNo with
    | some b =>
      if s.pitchRels.any fun r => r.1 == (s.gang c.gang).launch && r.2.2.1 == b then s else s.finish c c.word
    | none => s.finish c c.word

/-- The posts of a `claim.post` are recorded, and its register fills with 0 (R285). -/
def State.claimPostStep (s : State) (c : Cmd) (posts : List (Nat × List Lane × List Nat)) : State :=
  let l := (s.gang c.gang).launch
  (posts.foldl (fun (s : State) p => s.recordPost l p) (s.stir l)).finish c 0

/-! ### The Pitch Table (R316) -/

/-- Entries of the slice that homes a pitch. -/
def State.pitchUsed (s : State) (pitch : Nat) : Nat := (s.pitch.filter fun e => sameSlice e.pitch pitch).length

/-- The smaller of an index and a recorded one. -/
def minDenied (d : Option Nat) (i : Nat) : Option Nat := match d with
  | none => some i
  | some j => some (min j i)

/-- The RESERVED entry of a loop at a slice with the highest reserved index above `i`. -/
def State.evictee (s : State) (loop pitch i : Nat) : Option PitchEntry :=
  (s.pitch.foldl (fun (best : Option (Nat × PitchEntry)) e => match e.owner with
    | .reserved j =>
      if e.loop == loop && sameSlice e.pitch pitch && decide (i < j) then
        match best with
        | some b => if b.1 < j then some (j, e) else best
        | none => some (j, e)
      else best
    | .held _ => best) none).map (·.2)

/-- Apply a request at its slice: the answer and the table after it. -/
def State.applyRequest (s : State) (r : PitchReq) : Bool × State :=
  let isIt (e : PitchEntry) : Bool := e.loop == r.loop && e.pitch == r.pitch
  let put (e : PitchEntry) : State := { s with pitch := s.pitch.map fun x => if isIt x then e else x }
  match s.pitch.find? isIt with
  | none =>
    let held : PitchEntry := ⟨r.loop, r.pitch, .held r.body, none⟩
    if s.pitchUsed r.pitch < 8192 then (true, { s with pitch := s.pitch ++ [held] })
    else match if r.prio then s.evictee r.loop r.pitch r.item else none with
      | some v => (true, { s with pitch := s.pitch.filter (fun x => x != v) ++ [held] })
      | none => (false, s)
  | some e => match e.owner with
    | .reserved j =>
      if r.item ≤ j then (true, put { e with owner := .held r.body, denied := if r.item < j then some j else none })
      else (false, put { e with denied := minDenied e.denied r.item })
    | .held _ => (false, put { e with denied := minDenied e.denied r.item })

/-- PITCH_REQUEST: the slice applies one request; a former's earlier release of the same pitch comes first. -/
def execPitchRequest (req : Nat) (s : State) : Out :=
  .next (match s.pitchReqs.find? (fun r => r.id == req && r.answer.isNone) with
    | none => s
    | some r =>
      if s.pitchRels.any fun x => x.1 == r.loop && x.2.1 == r.pitch && x.2.2.1 == r.body then s
      else
        let (ok, s) := s.applyRequest r
        { s with pitchReqs := s.pitchReqs.map fun (x : PitchReq) => if x.id == req then { x with answer := some ok } else x })

/-- PITCH_RELEASE: the slice applies the release at place `rel` of those on their way. -/
def execPitchRelease (rel : Nat) (s : State) : Out :=
  .next (match s.pitchRels[rel]? with
    | none => s
    | some (l, p, b, _) =>
      let s := { s with pitchRels := s.pitchRels.eraseIdx rel }
      let mine (e : PitchEntry) : Bool := e.loop == l && e.pitch == p && e.owner == .held b
      { s with pitch := (s.pitch.filter fun e => !(mine e && e.denied.isNone)).map fun e => match e.denied with
          | some j => if mine e then { e with owner := .reserved j, denied := none } else e
          | none => e })

/-! ### The wave former (R312, R317, R318) -/

/-- BODY_PHASE_START (R312): every scout wave has ended and no tracker entry names one. -/
def execBodyPhaseStart (launch : Nat) (s : State) : Out :=
  let x := s.launch launch
  let gs := s.gangs.filter fun g => g.2.launch == launch
  .next (if x.kernel.mode ≠ 1 ∨ x.status ≠ .ready ∨ x.bodyPhase ∨ gs.isEmpty then s
    else if gs.any fun g => g.2.status == .ready || g.2.status == .saved then s
    else if s.waves.any fun w => (s.gang w.2.gang).launch == launch && (w.2.status == .live || w.2.status == .saved) then s
    else if s.ops.any (fun o => o.tracker && o.launch == launch) || s.cmds.any (fun c => c.tracker && (s.gang c.gang).launch == launch) then s
    else ((s.modLaunch launch fun x => { x with bodyPhase := true }).stir launch).formerEntries launch)

/-- Replace the formation on a core. -/
def State.setFormer (s : State) (f : Former) : State :=
  { s with formers := s.formers.map fun x => if x.core == f.core then f else x }

/-- Send the requests of a former's next candidate, to every slice at once. -/
def State.askPitches (s : State) (f : Former) (c : Nat × Bool) : State :=
  let pits := ((s.launch f.loop).item.find c.1).map (·.pits) |>.getD []
  let s := pits.foldl (fun (s : State) p =>
    let (id, s) := s.fresh
    { s with pitchReqs := s.pitchReqs ++ [PitchReq.mk id f.loop p c.1 f.body c.2 none] }) s
  s.setFormer { f with asked := true }

/-- Every answer for a former's candidate has come: it is taken, or what was granted is released, and it stays under trial until the
formation ends. -/
def State.takeAnswers (s : State) (f : Former) (c : Nat × Bool) (rest : List (Nat × Bool)) : State :=
  let mine (r : PitchReq) : Bool := r.loop == f.loop && r.item == c.1 && r.body == f.body
  let rs := s.pitchReqs.filter mine
  let s := { s with pitchReqs := s.pitchReqs.filter fun r => !mine r }
  let it := ((s.launch f.loop).item.find c.1).getD ⟨1, [], [], 0, true⟩
  if rs.all fun r => r.answer == some true then
    (s.setItem f.loop c.1 { it with state := 2, body := f.body, trial := false }).setFormer
      { f with cands := rest, taken := f.taken ++ [c.1], asked := false }
  else
    let granted := rs.filter fun r => r.answer == some true
    let s := { s with pitchRels := s.pitchRels ++ granted.map fun (r : PitchReq) => (f.loop, r.pitch, f.body, c.1) }
    s.setFormer { f with cands := rest, denied := f.denied ++ [c.1], asked := false }

/-- End a formation: untaken candidates go back, and a body wave holding the taken items is placed, or none (R317, R318). -/
def State.endForm (s : State) (f : Former) : State :=
  let s := { s with formers := s.formers.filter fun x => x.core != f.core }
  let back (m : Map Item) (c : Nat) : Map Item := match m.find c with
    | some it => m.set c { it with trial := false }
    | none => m
  let s := s.modLaunch f.loop fun x => { x with item := (f.cands.map (·.1) ++ f.denied).foldl back x.item }
  let s := match smallest f.taken with
    | none => s
    | some low =>
      let x := s.launch f.loop
      let (g, s) := s.newGang f.loop (x.gangs + low) (dieOf f.core) x.args (BitVec.ofNat 64 f.body)
        (x.kernel.code + BitVec.ofNat 64 x.kernel.body) none
      let s := s.placeFresh g (quadOf f.core) x.prio [f.core]
      let s := { s with waves := s.waves.update fun _ (w : Wave) =>
          if w.gang == g then { w with bodyNo := some f.body, items := List.zip (upto 0 f.taken.length) f.taken } else w }
      s.modLaunch f.loop fun x => { x with bodies := x.bodies + 1 }
  s.formerEntries f.loop

/-- One step of a formation. -/
def State.formStep (s : State) (f : Former) : State :=
  match f.cands with
  | [] => s.endForm f
  | c :: rest =>
    if 32 ≤ f.taken.length then s.endForm f
    else if !f.asked then s.askPitches f c
    else if s.pitchReqs.any fun r => r.loop == f.loop && r.item == c.1 && r.body == f.body && r.answer.isNone then s
    else s.takeAnswers f c rest

/-- A formation waits for answers of the slices. -/
def State.formWaits (s : State) (f : Former) : Bool :=
  f.asked && s.pitchReqs.any fun r => r.loop == f.loop && r.body == f.body && r.answer.isNone

/-- BODY_WAVE_FORM: a former of a loop on a die, the first that does not wait, takes the next step of its formation;
none does while the dispatchers place no gang (R493, R495). -/
def execBodyWaveForm (launch die : Nat) (s : State) : Out :=
  .next (match s.formers.find? fun f => f.loop == launch && dieOf f.core == die && !s.formWaits f with
    | none => s
    | some f => if !s.mayPlace then s else (s.stir launch).formStep f)

end Sys2Proof.Machine
end

