-- ==== Sys2Proof/Machine/Engine.lean ====
section
/-!
DEFINITION. Sort and gather-dedup commands (R296 to R302, R353, R358 to R361), and their starts. Their completion, with
that of every other engine command, stands in Events.
-/
namespace Sys2Proof.Machine

/-! ### Sort commands (R353) -/

/-- The count of a command: bits [31:0] of S[B]. -/
def Wave.count32 (w : Wave) (b : BitVec 7) : Nat := Bits.of (w.sreg b.toNat) 31 0

/-- Issue a command of a die's engine with a block at S[A] and a count in S[B]. -/
def State.dieCommand (s : State) (x : EArgs) (eng cap : Nat) (d a b : BitVec 7) (len : Nat → Nat) (plan : Nat → List Byte → Plan) :
    Out :=
  s.engine x true [x.a a.toNat, x.b b.toNat] [sOp d.toNat] fun s =>
    let w := s.wave
    let n := w.count32 b
    let die := dieOf w.core
    s.command x eng die (decide (s.queued eng die < cap)) d.toNat (w.sreg a.toNat) (len n) (plan n)

/-- The checks of `srtrun`. -/
def sortPlan (n : Nat) (blk : List Byte) : Plan :=
  let inp := numAt blk 0 8
  let out := numAt blk 8 8
  let scr := numAt blk 16 8
  let m := 16 * n
  if 2 ^ 28 < n then .answer stBadCount 0
  else if overlap inp m out m || overlap inp m scr (m + 8192) || overlap out m scr (m + 8192) then .answer stOverlap 0
  else if n = 0 then .answer 0 0
  else .run [⟨.engRead, inp, m, 16⟩, ⟨.engWrite, out, m, 16⟩, ⟨.engBoth, scr, m + 8192, 16⟩] (.sort inp out scr n)

/-- The runs that a merge block names: address and records. -/
def mergeRuns (k : Nat) (blk : List Byte) : List (Nat × Nat) :=
  (List.range k).map fun i => (numAt blk (16 + 16 * i) 8, numAt blk (24 + 16 * i) 4)

/-- The checks of `srtmrg`. -/
def mergePlan (k : Nat) (blk : List Byte) : Plan :=
  let out := numAt blk 0 8
  let runs := mergeRuns (min k 16) blk
  let total := runs.foldl (fun n r => n + r.2) 0
  if 16 < k ∨ 2 ^ 28 < total then .answer stBadCount 0
  else if runs.any fun r => overlap out (16 * total) r.1 (16 * r.2) then .answer stOverlap 0
  else if total = 0 then .answer 0 0
  else .run (⟨.engWrite, out, 16 * total, 16⟩ :: runs.map fun r => ⟨.engRead, r.1, 16 * r.2, 16⟩) (.merge out runs)

/-- The checks of `srttab`. With N = 0 it runs and writes NT entries (0, 0): the model's choice (log 94). -/
def tablePlan (nt : Nat) (blk : List Byte) : Plan :=
  let inp := numAt blk 0 8
  let tab := numAt blk 8 8
  let n := numAt blk 16 4
  if 2 ^ 24 < nt ∨ 2 ^ 28 < n then .answer stBadCount 0
  else if overlap inp (16 * n) tab (8 * nt) then .answer stOverlap 0
  else .run [⟨.engRead, inp, 16 * n, 16⟩, ⟨.engWrite, tab, 8 * nt, 8⟩] (.table inp tab n nt)

def State.srtrunOp (s : State) (x : EArgs) (d a b : BitVec 7) : Out := s.dieCommand x engSort 16 d a b (fun _ => 32) sortPlan
def State.srtmrgOp (s : State) (x : EArgs) (d a b : BitVec 7) : Out :=
  s.dieCommand x engSort 16 d a b (fun k => 16 + 16 * min k 16) mergePlan
def State.srttabOp (s : State) (x : EArgs) (d a b : BitVec 7) : Out := s.dieCommand x engSort 16 d a b (fun _ => 32) tablePlan

def execSrtrun (d a b : BitVec 7) (s : State) : Out := s.srtrunOp s.wave.engCompact d a b
def execSrtrunLong (d a b : BitVec 7) (l : EL) (s : State) : Out := s.srtrunOp (engLong l) d a b
def execSrtmrg (d a b : BitVec 7) (s : State) : Out := s.srtmrgOp s.wave.engCompact d a b
def execSrtmrgLong (d a b : BitVec 7) (l : EL) (s : State) : Out := s.srtmrgOp (engLong l) d a b
def execSrttab (d a b : BitVec 7) (s : State) : Out := s.srttabOp s.wave.engCompact d a b
def execSrttabLong (d a b : BitVec 7) (l : EL) (s : State) : Out := s.srttabOp (engLong l) d a b

/-! ### What the sort engine computes (R295, R296, R300, R301) -/

/-- A record as the engine sees it: key and value. -/
abbrev SortRec := Nat × Nat

/-- The records of a region's bytes. -/
def recsOf (b : List Byte) (n : Nat) : List SortRec := (List.range n).map fun i => (numAt b (16 * i) 8, numAt b (16 * i + 8) 4)

/-- Bytes 12 to 15 of an output record are 0 (R295). -/
def recBytes (r : SortRec) : List Byte := toBytes 8 r.1 ++ toBytes 4 r.2 ++ toBytes 4 0

/-- The order of the 96-bit pairs. -/
def recLe (x y : SortRec) : Bool := decide (x.1 < y.1) || (x.1 == y.1 && decide (x.2 ≤ y.2))

/-- The number of the run whose head is smallest, the lowest among equal heads (R300). -/
def bestRun : (i : Nat) → List (List SortRec) → Option (Nat × SortRec)
  | _, [] => none
  | i, [] :: rs => bestRun (i + 1) rs
  | i, (h :: _) :: rs => match bestRun (i + 1) rs with
    | none => some (i, h)
    | some (j, g) => if recLe h g then some (i, h) else some (j, g)

/-- The merge (R300): at every step the head of the best run moves to the output. -/
def mergeAll : (fuel : Nat) → List (List SortRec) → List SortRec
  | 0, _ => []
  | n + 1, rs => match bestRun 0 rs with
    | none => []
    | some (i, h) => h :: mergeAll n (rs.set i ((nth [] rs i).drop 1))

/-- Some record is smaller than the one before it. -/
def unsorted : List SortRec → Bool
  | x :: y :: r => !recLe x y || unsorted (y :: r)
  | _ => false

/-- TILE of a record's key (R294). -/
def tileOf (r : SortRec) : Nat := r.1 / 2 ^ 40

/-- Some record's TILE is smaller than the TILE before it. -/
def tilesFall : List SortRec → Bool
  | x :: y :: r => decide (tileOf y < tileOf x) || tilesFall (y :: r)
  | _ => false

/-- The first place from `i` on at which `p` holds, or the end. -/
def firstFrom (p : SortRec → Bool) : (i : Nat) → List SortRec → Nat
  | i, [] => i
  | i, r :: rs => if p r then i else firstFrom p (i + 1) rs

/-- Entry t of the range table (R301). -/
def rangeEntry (rs : List SortRec) (t : Nat) : List Byte :=
  let st := firstFrom (fun r => decide (t ≤ tileOf r)) 0 rs
  let en := firstFrom (fun r => decide (t < tileOf r)) st (rs.drop st)
  toBytes 4 st ++ toBytes 4 en

/-- Digit `k` of the 96-bit pair, and the digits on which some records differ, lowest first (R297). -/
def digitOf (k : Nat) (r : SortRec) : Nat := (r.1 * 2 ^ 32 + r.2) / 2 ^ (8 * k) % 256
def activeDigits (rs : List SortRec) : List Nat := (List.range 12).filter fun k => rs.any fun r => digitOf k r != digitOf k (rs.headD (0, 0))

/-- The value of some digits of a record, the last of the list the highest. -/
def digitsOf (ks : List Nat) (r : SortRec) : Nat := ks.reverse.foldl (fun v k => 256 * v + digitOf k r) 0

/-- The records of a sort command after its passes over the lowest `i` active digits; each pass keeps the order of equal digits. -/
def afterPasses (rs : List SortRec) (i : Nat) : List SortRec :=
  let ks := (activeDigits rs).take i
  sortBy rs fun x y => decide (digitsOf ks x ≤ digitsOf ks y)

/-- The records that a sort command has read. -/
def Cmd.recs (c : Cmd) : List SortRec := recsOf c.data c.pos

/-- A sort command has read its records and made all passes but the last, which lands in the output buffer at its end (R297). -/
def Cmd.sorted (c : Cmd) : Bool := match c.op with
  | .sort _ _ _ n => c.pos == n && decide ((activeDigits c.recs).length ≤ c.passes + 1)
  | _ => true

/-- One piece of a sort command's work (R297, R298): the histogram pass reads some further records and copies them to scratch, with its
counts behind them at its end; then each pass but the last moves the records to the output buffer and to scratch in turn (log 13). The last
always lands in the output buffer; with an even number of active digits the pass before it has landed there too, so that the last goes from
the output buffer to the output buffer: R297 does not say how the turns come to end there, and this is the model's choice (log 108). -/
def Eng.sortStep (e : Eng) (c : Cmd) (inp out scr n : Nat) : Cmd × Eng :=
  let put (e : Eng) (a : Nat) (bs : List Byte) : Eng :=
    e.write c.gang ⟨false, BitVec.ofNat 64 a⟩ (if c.erred || c.spoiled then e.s.openBytes a bs.length else bs)
  if c.pos < n then
    let k := min (n - c.pos) (1 + Config.sortRecords e.s.tick)
    let (b, e) := e.read c.gang ⟨false, BitVec.ofNat 64 (inp + 16 * c.pos)⟩ (16 * k)
    let e := put e (scr + 16 * c.pos) ((recsOf b k).flatMap recBytes)
    let e := if c.pos + k = n then e.write c.gang ⟨false, BitVec.ofNat 64 (scr + 16 * n)⟩ (e.s.openBytes (scr + 16 * n) 8192) else e
    ({ c with pos := c.pos + k, data := c.data ++ b }, e)
  else if c.sorted then (c, e)
  else
    let i := c.passes + 1
    ({ c with passes := i }, put e (if i % 2 = 1 then out else scr) ((afterPasses c.recs i).flatMap recBytes))

/-- Run a command of the sort engine as far as one step brings it: the command, its output bytes and its completion word. -/
def Eng.sortRun (e : Eng) (c : Cmd) : Cmd × List Byte × Word × Eng :=
  match c.op with
  | .sort inp out scr n =>
    let (c, e) := e.sortStep c inp out scr n
    (c, c.data, engWord engSort 0 n, e)
  | .merge _ runs =>
    let (ls, e) := runs.foldl (fun (x : List (List SortRec) × Eng) r =>
      let (b, e) := x.2.read c.gang ⟨false, BitVec.ofNat 64 r.1⟩ (16 * r.2)
      (x.1 ++ [recsOf b r.2], e)) ([], e)
    let total := ls.foldl (fun n l => n + l.length) 0
    (c, (mergeAll total ls).flatMap recBytes, engWord engSort 0 total (if ls.any unsorted then 1 else 0), e)
  | .table inp _ n nt =>
    let (b, e) := e.read c.gang ⟨false, BitVec.ofNat 64 inp⟩ (16 * n)
    let rs := recsOf b n
    (c, (List.range nt).flatMap (rangeEntry rs), engWord engSort 0 nt (if tilesFall rs then 1 else 0), e)
  | _ => (c, [], 0, e)

/-- SORT_START: the engine of a die goes on with its sort, or takes its next command, one at a time in acceptance order (R302, R350). -/
def execSortStart (die : Nat) (s : State) : Out :=
  let here (c : Cmd) (st : CStatus) : Bool := c.eng == engSort && c.unit == die && c.status == st
  let run (c : Cmd) : State := s.engineStep c fun e => let (c, data, word, e) := e.sortRun c; State.started e c data word
  .next (match s.cmds.find? fun c => here c .running with
    | some c => if c.sorted then s else run c
    | none => match s.cmds.find? fun c => here c .queued with
      | none => s
      | some c => run c)

/-- The writes of a sort command at its end: the last pass, and the open bytes that are left in scratch (log 13). -/
def Eng.sortEnd (e : Eng) (c : Cmd) : Eng :=
  match c.op with
  | .sort _ out scr n =>
    let e := e.write c.gang ⟨false, BitVec.ofNat 64 scr⟩ (e.s.openBytes scr (16 * n + 8192))
    e.writeOut c.gang ⟨false, BitVec.ofNat 64 out⟩ c.erred ((sortBy c.recs recLe).flatMap recBytes)
  | .merge out _ => e.writeOut c.gang ⟨false, BitVec.ofNat 64 out⟩ c.erred c.data
  | .table _ tab _ _ => e.writeOut c.gang ⟨false, BitVec.ofNat 64 tab⟩ c.erred c.data
  | _ => e

/-! ### Gather-dedup commands (R358 to R361) -/

/-- The fields of a gather block (R358). -/
structure GdeBlock where
  idx : Nat
  table : Nat
  rows : Nat
  rowsz : Nat
  nrows : Nat
  vrows : Bool
  fmt : Nat

def readGde (b : List Byte) : GdeBlock :=
  ⟨numAt b 0 8, numAt b 8 8, numAt b 16 8, numAt b 24 4, numAt b 28 4, bitAt (numAt b 32 4) 0, numAt b 36 4⟩

/-- The checks of `gdeg` and `gdes`. -/
def gdePlan (scatter : Bool) (k : Nat) (blk : List Byte) : Plan :=
  let g := readGde blk
  let it := 4 * k
  let tt := g.nrows * g.rowsz
  let rt := k * g.rowsz
  if 4096 < k then .answer stBadCount 0
  else if g.rowsz % 16 ≠ 0 ∨ g.rowsz < 16 ∨ 2048 < g.rowsz ∨ (scatter ∧ (g.fmt = 0 ∨ 3 < g.fmt)) then .answer stBadDesc 0
  else if overlap g.idx it g.table tt || (!g.vrows && (overlap g.idx it g.rows rt || overlap g.table tt g.rows rt)) then
    .answer stOverlap 0
  else
    let rs : List Range := [⟨.engRead, g.idx, it, 4⟩, ⟨if scatter then .engBoth else .engRead, g.table, tt, 16⟩] ++
      (if g.vrows then [] else [⟨if scatter then .engRead else .engWrite, g.rows, rt, 16⟩])
    .run rs (if scatter then .scatter g.idx g.table g.rows k g.rowsz g.nrows g.vrows g.fmt
             else .gather g.idx g.table g.rows k g.rowsz g.nrows g.vrows)

def State.gdegOp (s : State) (x : EArgs) (d a b : BitVec 7) : Out := s.dieCommand x engGde 32 d a b (fun _ => 48) (gdePlan false)
def State.gdesOp (s : State) (x : EArgs) (d a b : BitVec 7) : Out := s.dieCommand x engGde 32 d a b (fun _ => 48) (gdePlan true)

def execGdeg (d a b : BitVec 7) (s : State) : Out := s.gdegOp s.wave.engCompact d a b
def execGdegLong (d a b : BitVec 7) (l : EL) (s : State) : Out := s.gdegOp (engLong l) d a b
def execGdes (d a b : BitVec 7) (s : State) : Out := s.gdesOp s.wave.engCompact d a b
def execGdesLong (d a b : BitVec 7) (l : EL) (s : State) : Out := s.gdesOp (engLong l) d a b

/-- Read the rows of the distinct indices, each once (R359). -/
def Eng.fetchRows (e : Eng) (g table rowsz : Nat) (vs : List Nat) : Map (List Byte) × Eng :=
  vs.foldl (fun (x : Map (List Byte) × Eng) v =>
    let (b, e) := x.2.read g ⟨false, BitVec.ofNat 64 (table + rowsz * v)⟩ rowsz
    (x.1.set v b, e)) ([], e)

/-- The indices of a command. -/
def Eng.indices (e : Eng) (g idx k : Nat) : List Nat × Eng :=
  let (b, e) := e.read g ⟨false, BitVec.ofNat 64 idx⟩ (4 * k)
  ((List.range k).map fun i => numAt b (4 * i) 4, e)

/-- Run a gather command at its start. A scatter keeps its indices and source rows for its end. -/
def Eng.gdeRun (e : Eng) (c : Cmd) : List Byte × Word × Eng :=
  match c.op with
  | .gather idx table _ k rowsz nrows _ =>
    let (xs, e) := e.indices c.gang idx k
    let vs := dedup (xs.filter fun v => decide (v < nrows))
    let (rows, e) := e.fetchRows c.gang table rowsz vs
    let data := xs.flatMap fun v => rows.get (copies rowsz 0) v
    (data, engWord engGde 0 vs.length (if xs.any fun v => decide (nrows ≤ v) then 1 else 0), e)
  | .scatter idx _ rows k rowsz nrows vrows _ =>
    let (xs, e) := e.indices c.gang idx k
    let (b, e) := e.read c.gang ⟨vrows, BitVec.ofNat 64 rows⟩ (k * rowsz)
    let n := (xs.filter fun v => decide (v < nrows)).length
    (xs.flatMap (toBytes 4) ++ b, engWord engGde 0 n (if n < k then 1 else 0), e)
  | _ => ([], 0, e)

/-- GDE_START: up to four commands run at once (R350). -/
def execGdeStart (die : Nat) (s : State) : Out :=
  .next (if 4 ≤ s.running engGde die then s
    else match s.cmds.find? fun c => c.eng == engGde && c.unit == die && c.status == .queued with
      | none => s
      | some c => s.engineStep c fun e => let (data, word, e) := e.gdeRun c; State.started e c data word)

/-- One addition of `gdes` at the home slice (R360). -/
def Eng.addWord (e : Eng) (asid : BitVec 16) (fmt va : Nat) (x : Lane) : Eng :=
  match e.trans asid va with
  | none => e
  | some (p, span) =>
    let pa := ptePa p span va
    match e.s.bad.find (lineOf pa) with
    | some c => { e with bad := e.bad ++ [c] }
    | none =>
      if e.s.noSlot pa (pteExpz p) then { e with bad := e.bad ++ [Code.expzFull] }
      else
        let s := e.s.clean (lineOf pa)
        let m : Lane := BitVec.ofNat 32 (fromBytes (s.load pa 4))
        let v := if fmt = 3 then f32add m x else m + x
        let (s, f) := s.applyStore e.fired pa (toBytes 4 v.toNat) (pteExpz p) e.self e.launches
        { e with s := s, fired := f }

/-- Additions in the order that no rule fixes: `left` holds the address and addend of each that is still to be made. -/
def Eng.addAll (asid : BitVec 16) (fmt tick : Nat) : (fuel : Nat) → List (Nat × Lane) → Eng → Eng
  | 0, _, e => e
  | _ + 1, [], e => e
  | n + 1, left, e =>
    let i := Config.gdesPick tick n % left.length
    let (va, x) := nth (0, 0) left i
    Eng.addAll asid fmt tick n (left.eraseIdx i) (e.addWord asid fmt va x)

/-- The writes of a gather-dedup command at its end. -/
def Eng.gdeEnd (e : Eng) (c : Cmd) : Eng :=
  match c.op with
  | .gather _ _ rows _ _ _ vrows => e.writeOut c.gang ⟨vrows, BitVec.ofNat 64 rows⟩ c.erred c.data
  | .scatter _ table _ k rowsz nrows _ fmt =>
    let adds := (List.range k).flatMap fun i =>
      let v := numAt c.data (4 * i) 4
      if nrows ≤ v then []
      else (List.range (rowsz / 4)).map fun j =>
        (table + rowsz * v + 4 * j, BitVec.ofNat 32 (numAt c.data (4 * k + rowsz * i + 4 * j) 4))
    let e := Eng.addAll c.asid fmt e.s.tick adds.length adds e
    if e.memErr || c.erred then e.write c.gang ⟨false, BitVec.ofNat 64 table⟩ (e.s.openBytes table (rowsz * nrows)) else e
  | _ => e

end Sys2Proof.Machine
end

