-- ==== Sys2Proof/Machine/Fabric.lean ====
section
/-!
DEFINITION. Fabric instructions of waves (R158, R441 to R448) and the ports (R395, R397, R399, R423, R485): bulk
transfers, remote words, the pod step as a wave sees it, arrival targets, link control and link events.
-/
namespace Sys2Proof.Machine

/-! ### Membership at issue (R441, R453) -/

/-- FAB_NOT_MEMBER of a device that takes part in no pod. -/
def State.noPodTrap (s : State) : State := s.trap Code.fabNotMember (BitVec.ofNat 64 (2 ^ 32))

/-- The same for an instruction with a remote address, whose target it names (R400, R452); an address that leads to no remote page leaves
TARGET 0. -/
def State.noPodAt (s : State) (va : Nat) : State := match s.trans s.myGang.asid va with
  | .miss => (s.miss s.myGang.asid va).hold
  | .ok p _ => s.trap Code.fabNotMember (s.notMemberInfo (if pteRmt p then pteDev p else 0))
  | .fault _ => s.noPodTrap

/-- The device takes part in a pod (R441, R495). -/
def State.inPod (s : State) : Bool := s.pod.isSome && !s.step.left

/-! ### Bulk transfers (R442 to R444) -/

/-- The runs of a remote region, one per 64-byte block of its addresses (R396). -/
def State.blockRuns (s : State) (asid : BitVec 16) (va n : Nat) : List RemRun :=
  if n = 0 then []
  else (List.range ((va + n - 1) / 64 - va / 64 + 1)).filterMap fun i =>
    let a := max va (64 * (va / 64 + i))
    let len := min (va + n) (64 * (va / 64 + i + 1)) - a
    match s.trans asid a with
    | .ok p span => some (RemRun.plain (pteDev p) (ptePa p span a) (a - va) len)
    | _ => none

/-- The checks and waits that a fabric command shares with its peers: its ranges, the step outcome for a write (R409; a read is accepted and
held, R444), the release, and a tracker entry. The wait for the release is none that R49 lists (log 104), the other two are (R49, R409). -/
def State.fabric (s : State) (x : EArgs) (write : Bool) (rs : List Range) (k : State → State) : State :=
  match s.checkAll s.myGang.asid rs with
  | .miss s => s.hold
  | .fault f => s.addrTrap f
  | .ok =>
    if !s.relDone x then s.hold
    else if (write && s.outcomePending) || !s.trackerRoom s.wave.core then s.block
    else k s

/-- The local side of a bulk transfer: nothing to check in the vault (R214, R442). -/
def localRange (lv : Bool) (need : Need) (a : Word) (n : Nat) : List Range := if lv then [] else [⟨need, a.toNat, n, 4⟩]

/-- Fields of the flags word of a bulk transfer (R442). -/
def blkLen (b : Word) : Nat := Bits.of b 31 0
def blkEntry (b : Word) : Option (BitVec 8) := if b.getLsbD 40 then some (BitVec.ofNat 8 (Bits.of b 39 32)) else none
def blkLv (b : Word) : Bool := b.getLsbD 41

/-- A misaligned address of a pair, the lower one if both are (R442, R463). -/
def pairFault (src dst : Word) (srcW dstW : Bool) : Option AddrFault :=
  let f (a : Word) (w : Bool) : List AddrFault := if a.toNat % 4 = 0 then [] else [⟨a.toNat, Code.align, faultInfo a.toNat w⟩]
  lowestFault (f src srcW ++ f dst dstW)

/-- Who sends the pieces of a command. -/
def Cmd.sender (c : Cmd) (launch : Nat) (rlx : Bool) (entry : Option (BitVec 8)) : Sender :=
  ⟨none, some c.id, c.pc, c.waveid, c.wave, c.gang, some launch, rlx, entry, c.eng == engCol⟩

/-- Issue a bulk transfer over the pair at S[A] once its length and alignment are right. -/
def State.bulk (s : State) (x : EArgs) (d a b : BitVec 7) (write : Bool) (k : Word → Word → State → State) : Out :=
  s.engine x (decide (a.toNat ≠ 127)) [{ (x.a a.toNat) with regs := [a.toNat, a.toNat + 1] }, x.b b.toNat] [sOp d.toNat] fun s =>
    let w := s.wave
    let src := w.sreg a.toNat
    let dst := w.sreg (a.toNat + 1)
    let f := w.sreg b.toNat
    if !s.inPod then s.noPodAt (if write then dst else src).toNat
    else match pairFault src dst false true with
      | some f => s.addrTrap f
      | none =>
        if blkLen f % 4 ≠ 0 then s.answer x d.toNat (s.refusal engFab stBadDesc)
        else if blkLen f = 0 then s.answer x d.toNat (engWord engFab 0 0)
        else
          let lv := blkLv f
          let rs := if write then ⟨.rmtWrite, dst.toNat, blkLen f, 4⟩ :: localRange lv .engRead src (blkLen f)
            else ⟨.rmtRead, src.toNat, blkLen f, 4⟩ :: localRange lv .engWrite dst (blkLen f)
          s.fabric x write rs (k src dst)

/-- `fblkw` (R443): the source is read by the engine, and the pieces leave in ascending address order. -/
def State.fblkwOp (s : State) (x : EArgs) (d a b : BitVec 7) : Out :=
  s.bulk x d a b true fun src dst s =>
    let f := s.wave.sreg b.toNat
    let runs := s.blockRuns s.myGang.asid dst.toNat (blkLen f)
    match s.spillCheck (runs.map (·.dev)) with
    | some dev => s.trap Code.stepSpillFull (dev.setWidth 64)
    | none =>
      let (bytes, e) := Eng.read { s := s, via := some (s.myTlb, s.me) } s.wave.gang ⟨blkLv f, src⟩ (blkLen f)
      let s := if e.ungranted then e.s.modWave fun w => { w with vstat := w.vstat ||| 1 } else e.s
      let (c, s) := s.newCmd engFab 0 (some d.toNat) (.bulkWrite []) x.acqScope
      let (s, ps) := s.sendRuns (c.sender s.myGang.launch x.rlx (blkEntry f)) bytes runs
      s.accept x { c with status := .running, pieces := ps, word := engWord engFab 0 runs.length, bad := e.bad }

def execFblkw (d a b : BitVec 7) (s : State) : Out := s.fblkwOp s.wave.engCompact d a b
def execFblkwLong (d a b : BitVec 7) (l : EL) (s : State) : Out := s.fblkwOp (engLong l) d a b

/-- `fblkr` (R444): one request per 64-byte block; the bytes are written at its end. -/
def State.fblkrOp (s : State) (x : EArgs) (d a b : BitVec 7) : Out :=
  s.bulk x d a b false fun src dst s =>
    let f := s.wave.sreg b.toNat
    let runs := s.blockRuns s.myGang.asid src.toNat (blkLen f)
    let (c, s) := s.newCmd engFab 0 (some d.toNat) (.bulkRead dst.toNat (blkLv f)) x.acqScope
    let (s, ids) := s.sendReads (waveWaiter s.cur) x.rlx runs
    s.accept x { c with
      status := .running, pieces := ids.map fun i => (0, i), data := copies (blkLen f) 0, word := engWord engFab 0 runs.length }

def execFblkr (d a b : BitVec 7) (s : State) : Out := s.fblkrOp s.wave.engCompact d a b
def execFblkrLong (d a b : BitVec 7) (l : EL) (s : State) : Out := s.fblkrOp (engLong l) d a b

/-! ### Remote words (R445) -/

/-- `fld`: its register gets the word that returns. -/
def State.fldOp (s : State) (x : EArgs) (d a : BitVec 7) : Out :=
  s.engine x true [x.a a.toNat] [sOp d.toNat] fun s =>
    let va := (s.wave.sreg a.toNat).toNat
    if !s.inPod then s.noPodAt va
    else s.fabric x false [⟨.rmtRead, va, 8, 8⟩] fun s =>
      let (c, s) := s.newCmd engFab 0 (some d.toNat) .fabLoad x.acqScope
      let (s, ids) := s.sendReads (waveWaiter s.cur) x.rlx (s.blockRuns s.myGang.asid va 8)
      s.accept x { c with status := .running, pieces := ids.map fun i => (0, i), data := copies 8 0 }

def execFld (d a : BitVec 7) (s : State) : Out := s.fldOp s.wave.engCompact d a
def execFldLong (d a : BitVec 7) (l : EL) (s : State) : Out := s.fldOp (engLong l) d a

/-- `fst`: one piece; its completion word names the step that carries it. -/
def State.fstOp (s : State) (x : EArgs) (d a b : BitVec 7) : Out :=
  s.engine x true [x.a a.toNat, x.b b.toNat] [sOp d.toNat] fun s =>
    let va := (s.wave.sreg a.toNat).toNat
    if !s.inPod then s.noPodAt va
    else s.fabric x true [⟨.rmtWrite, va, 8, 8⟩] fun s =>
      let runs := s.blockRuns s.myGang.asid va 8
      match s.spillCheck (runs.map (·.dev)) with
      | some dev => s.trap Code.stepSpillFull (dev.setWidth 64)
      | none =>
        let step := s.step.stepno
        let (c, s) := s.newCmd engFab 0 (some d.toNat) (.fabStore step) x.acqScope
        let (s, ps) := s.sendRuns (c.sender s.myGang.launch x.rlx none) (toBytes 8 (s.wave.sreg b.toNat).toNat) runs
        s.accept x { c with status := .running, pieces := ps, word := engWord engFab 0 step.toNat }

def execFst (d a b : BitVec 7) (s : State) : Out := s.fstOp s.wave.engCompact d a b
def execFstLong (d a b : BitVec 7) (l : EL) (s : State) : Out := s.fstOp (engLong l) d a b

/-! ### The pod step (R158, R408, R446) -/

/-- `step.arrive`: a second one before the next `step.wait` counts nothing more, unless the step that the first counted for was aborted before
the device arrived (R417). -/
def State.stepArriveOp (s : State) (x : EArgs) (d : BitVec 7) : Out :=
  s.engine x true [] [sOp d.toNat] fun s =>
    if !s.inPod then s.noPodTrap
    else if !s.relDone x then s.hold
    else
      let n := s.step.stepno
      (s.modWave fun w => { w with stepArr := match w.stepArr with
        | some (some c, _) => some (some c, n)
        | _ => some (some n, n) }).answer x d.toNat n

def execStepArrive (d : BitVec 7) (s : State) : Out := s.stepArriveOp s.wave.engCompact d
def execStepArriveLong (d : BitVec 7) (l : EL) (s : State) : Out := s.stepArriveOp (engLong l) d

/-- Raise a step fault at the instruction: its arrival has ended with the trap, and reissued it arrives afresh (R158, R446). -/
def State.stepTrap (s : State) (code : Code) (n : Word) (bar : Bool) : State :=
  if s.unfinished s.cur then s.hold
  else (if bar then s else s.modWave fun w => { w with stepArr := none }).trap code n

/-- How a wait for step `n` ends, once that is known: by what it was given when its pod was dissolved (R453), or by the step's outcome. -/
def State.stepEnds (s : State) (n : Word) : Option (StepOut × Bool) := match s.wave.waiting with
  | some (.step _ _ (some e)) => some e
  | _ => (s.step.outcomes.find? fun o => o.1 == n).map (·.2)

/-- Wait for the outcome of step `n`: on commit `k` completes the instruction, behind the acquire of R282. -/
def State.stepOutcome (s : State) (n : Word) (bar : Bool) (k : State → State) : State :=
  match s.stepEnds n with
  | some (.abort, _) => s.stepTrap Code.stepAbort n bar
  | some (.commit, true) => s.stepTrap Code.stepConflict n bar
  | some (.commit, false) => k (s.emptyL1 s.wave.core)
  | none => (s.modWave fun w => { w with waiting := some (.step n bar none) }).block

/-- The step that an instruction already waits for. -/
def Wave.stepWaited (w : Wave) : Option Word := match w.waiting with
  | some (.step n _ _) => some n
  | _ => none

/-- `step.wait`. -/
def State.stepWaitOp (s : State) (x : EArgs) (d : BitVec 7) : Out :=
  s.engine x true [] [sOp d.toNat] fun s =>
    match s.wave.stepWaited with
    | some n => s.stepOutcome n false fun s =>
        (s.modWave fun w => { w with stepArr := none }).answer x d.toNat (engWord engFab 0 n.toNat)
    | none =>
      if !s.inPod then s.noPodTrap
      else if !s.relDone x then s.hold
      else
        let n := match s.wave.stepArr with
          | some (_, n) => n
          | none => s.step.stepno
        s.stepOutcome n false fun s =>
          (s.modWave fun w => { w with stepArr := none }).answer x d.toNat (engWord engFab 0 n.toNat)

def execStepWait (d : BitVec 7) (s : State) : Out := s.stepWaitOp s.wave.engCompact d
def execStepWaitLong (d : BitVec 7) (l : EL) (s : State) : Out := s.stepWaitOp (engLong l) d

/-- `bar.pod` (R158): the arrival at the current step, and the wait for its commit. Its wait marks the arrival, so that a wave stopped in it
has withdrawn it and arrives afresh (R159). -/
def execBarPod (s : State) : Out :=
  .next (s.issue (Check.need (decide (5 < s.myLaunch.kernel.bscope))) fun s =>
    match s.wave.stepWaited with
    | some n => s.stepOutcome n true (·.retire 1)
    | none => if !s.inPod then s.noPodTrap else s.stepOutcome s.step.stepno true (·.retire 1))

/-! ### Arrival targets (R422, R447) -/

/-- The entry's gang has not retired. -/
def State.gangStands (s : State) (g : Nat) : Bool := match s.gangs.find g with
  | some x => x.status != .retired
  | none => false

/-- `arrtgt` (R447): a block in a failing line gives unpredictable fields, and no fault (R449). -/
def State.arrtgtOp (s : State) (x : EArgs) (d a : BitVec 7) : Out :=
  s.engine x true [x.a a.toNat] [sOp d.toNat] fun s =>
    let va := (s.wave.sreg a.toNat).toNat
    if !s.inPod then s.noPodTrap
    else s.behindAcqs fun s =>
      match s.checkAll s.myGang.asid [⟨.blockRead, va, 32, 8⟩] with
      | .miss s => s.hold
      | .fault f => s.addrTrap f
      | .ok => match s.genRead va 32 with
        | none => s.hold
        | some g =>
          let e := numAt g.bytes 0 4
          let off := numAt g.bytes 4 4
          let me := s.wave.gang
          if !s.relDone x then s.hold
          else
            let s := g.s
            if 255 < e ∨ off % 8 ≠ 0 ∨ (s.gang me).vaultSize = 0 then s.answer x d.toNat (s.refusal engFab stBadDesc)
            else if (match s.arrivals.find e with
              | some y => y.gang != me && s.gangStands y.gang
              | none => false) then s.answer x d.toNat (s.refusal engFab stBusy)
            else
              let target := wordAt g.bytes 8
              let arr := if target = 0 then s.arrivals.erase e
                else s.arrivals.set e ⟨me, off % (s.gang me).vaultSize, target, wordAt g.bytes 16, 0⟩
              ({ s with arrivals := arr }).answer x d.toNat (engWord engFab 0 e)

def execArrtgt (d a : BitVec 7) (s : State) : Out := s.arrtgtOp s.wave.engCompact d a
def execArrtgtLong (d a : BitVec 7) (l : EL) (s : State) : Out := s.arrtgtOp (engLong l) d a

/-! ### Ports (R395, R423, R485) -/

/-- A port block before anything happened to it (R485). -/
def Port.reset : Port := ⟨20, 0, 0, .down, false, false, false, true⟩

/-- A port of the device. -/
def State.port (s : State) (glob : Bool) (p : Nat) : Port := if glob then s.gports.get Port.reset p else s.lports.get Port.reset p

/-- Whether a port exists. -/
def portExists (glob : Bool) (p : Nat) : Bool := if glob then decide (p < 96) else decide (p < 31)

/-- Replace a port's block. -/
def State.putPort (s : State) (glob : Bool) (p : Nat) (x : Port) : State :=
  if glob then { s with gports := s.gports.set p x } else { s with lports := s.lports.set p x }

/-- Note that a port's state changed (R485, R498). -/
def State.portEvent (s : State) (glob : Bool) (p : Nat) : State :=
  let s := { s with hr :=
    if !glob then { s.hr with portev0 := s.hr.portev0 ||| BitVec.twoPow 32 p }
    else if p < 64 then { s.hr with portev1 := s.hr.portev1 ||| BitVec.twoPow 64 p }
    else { s.hr with portev2 := s.hr.portev2 ||| BitVec.twoPow 32 (p - 64) } }
  s.raise evPort

/-- COUNT of `lnkdrn` and `lnkctl` (R448). -/
def Port.count (x : Port) : Nat :=
  x.nbr.toNat + 2 ^ 16 * (match x.state with
    | .down => 0
    | .up => 1
    | .held => 2) + 2 ^ 18 * x.nbrchg.toNat + 2 ^ 19 * x.hold.toNat

/-- The member and the group of a device ID (R395). -/
def memberOf (d : BitVec 16) : Nat := d.toNat % 32
def groupOf (d : BitVec 16) : Nat := d.toNat / 32

/-- The local port that reaches a member of the device's own group (R395). -/
def State.localPort (s : State) (m : Nat) : Nat := if m < memberOf s.devid then m else m - 1

/-- The valid (member, global port) pairs of a group's route entry (R485). -/
def routePairs (w : Word) : List (Nat × Nat) :=
  ((List.range 4).map fun i => field w.toNat (16 * i + 15) (16 * i)).filterMap fun x =>
    if bitAt x 15 then some (x % 32, field x 11 5) else none

/-- The first hop of a pair from this device carries data. -/
def State.pairUp (s : State) (x : Nat × Nat) : Bool :=
  if x.1 = memberOf s.devid then (s.port true x.2).state == .up else (s.port false (s.localPort x.1)).state == .up

/-- A minimal route to a group leaves this device (R397). -/
def State.groupUp (s : State) (g : Nat) : Bool := (routePairs (s.routes.get 0 g)).any s.pairUp

/-- Some route reaches a device: the local hop, a minimal route, or, unless it is forced to be minimal, one through
another group (R397). -/
def State.reaches (s : State) (d : BitVec 16) : Bool :=
  if d = s.devid then true
  else if groupOf d = groupOf s.devid then (s.port false (s.localPort (memberOf d))).state == .up
  else s.groupUp (groupOf d) || (!s.hr.routectl && s.routes.any fun r => r.1 != groupOf d && r.1 != groupOf s.devid && s.groupUp r.1)

/-- Note for each other member since when no route reaches it (R423). -/
def State.routesChanged (s : State) : State :=
  match s.pod with
  | none => { s with noRoute := [] }
  | some p =>
    { s with noRoute := p.members.foldl (fun (m : Map Nat) d =>
        if s.reaches d then m.erase d.toNat
        else match m.find d.toNat with
          | some _ => m
          | none => m.set d.toNat (s.clock 0)) s.noRoute }

/-- End the link commands of a port that went DOWN, or the ENABLE commands of one that locked. -/
def State.endLink (s : State) (glob : Bool) (p : Nat) (down : Bool) : State :=
  let st := if down then stLinkDown else 0
  let w := engWord engFab st (s.port glob p).count
  (s.cmds.filter fun c => match c.op with
    | .linkDrain g q => down && g == glob && q == p
    | .linkEnable g q => !down && g == glob && q == p
    | _ => false).foldl (fun (s : State) c => s.finish c w) s

/-- A port goes DOWN (R423). -/
def State.portDown (s : State) (glob : Bool) (p : Nat) : State :=
  let x := s.port glob p
  if x.state = .down then s
  else (((s.putPort glob p { x with state := .down }).portEvent glob p).endLink glob p true).routesChanged

/-- LINK_LOSS: a port loses light or lock. -/
def execLinkLoss (glob : Bool) (port : Nat) (s : State) : Out := .next (if portExists glob port then s.portDown glob port else s)

/-- LINK_LOCK: a DOWN port with its light on locks to a neighbour (R423, R448). -/
def execLinkLock (glob : Bool) (port : Nat) (nbr : BitVec 16) (s : State) : Out :=
  let x := s.port glob port
  .next (if !portExists glob port || x.state != .down || !x.light then s
    else
      let changed := x.locked && x.nbr != nbr
      let y : Port := { x with nbr := nbr, locked := true, nbrchg := x.nbrchg || changed, hold := false,
                               state := if x.hold || changed || x.nbrchg then .held else .up }
      let s := (s.putPort glob port y).portEvent glob port
      let s := if changed then s.raise evNbrchg else s
      (s.endLink glob port false).routesChanged)

/-- VC_ESCAPE (R399): a packet at an input port moves to an escape channel; delivery and order stay as they are. -/
def execVcEscape (glob : Bool) (port : Nat) (_crossed : Bool) (s : State) : Out :=
  .next (if portExists glob port then s.putPort glob port { s.port glob port with esccnt := (s.port glob port).esccnt + 1 } else s)

/-! ### `lnkdrn` and `lnkctl` (R448) -/

/-- The port that S[A] selects. -/
def portSel (x : Word) : Option (Bool × Nat) :=
  let glob := x.getLsbD 7
  let p := Bits.of x 6 0
  if x.toNat < 256 && portExists glob p then some (glob, p) else none

/-- The launch has the fabric-control grant. -/
def State.fabctl (s : State) : Bool := bitAt s.myLaunch.grants 2

def State.lnkdrnOp (s : State) (x : EArgs) (d a : BitVec 7) : Out :=
  s.engine x true [x.a a.toNat] [sOp d.toNat] fun s =>
    if !s.fabctl then s.trap Code.permFault 0
    else match portSel (s.wave.sreg a.toNat) with
      | none => s.answer x d.toNat (s.refusal engFab stBadDesc)
      | some (glob, p) =>
        if !s.relDone x then s.hold
        else if !s.trackerRoom s.wave.core then s.block
        else if (s.port glob p).state = .down then s.answer x d.toNat (engWord engFab stLinkDown (s.port glob p).count)
        else
          let (c, s) := s.newCmd engFab 0 (some d.toNat) (.linkDrain glob p) x.acqScope
          ({ s with netOut := s.netOut ++ [Packet.marker glob p c.id] }).accept x { c with status := .running }

def execLnkdrn (d a : BitVec 7) (s : State) : Out := s.lnkdrnOp s.wave.engCompact d a
def execLnkdrnLong (d a : BitVec 7) (l : EL) (s : State) : Out := s.lnkdrnOp (engLong l) d a

/-- DRAIN_MARKER_RETURN: the neighbour has returned every marker of a drain. -/
def execDrainMarkerReturn (cmd : Nat) (s : State) : Out :=
  .next (match s.cmdAt cmd with
    | none => s
    | some c => match c.op with
      | .linkDrain glob p => s.finish c (engWord engFab 0 (s.port glob p).count)
      | _ => s)

/-- The effect of an operation of `lnkctl` that completes at once: the STATUS and the state. -/
def State.linkOp (s : State) (op : Nat) (glob : Bool) (p : Nat) : Nat × State :=
  let x := s.port glob p
  match op with
  | 1 => match x.state with
    | .down => (0, s.putPort glob p { x with hold := true })
    | .up => (0, ((s.putPort glob p { x with state := .held }).portEvent glob p).routesChanged)
    | .held => (0, s)
  | 2 =>
    if x.state = .held ∧ x.nbrchg then (stBusy, s)
    else if x.state = .held then (0, ((s.putPort glob p { x with state := .up }).portEvent glob p).routesChanged)
    else (0, s.putPort glob p { x with hold := false })
  | 3 => (0, (s.putPort glob p { x with hold := false, light := false }).portDown glob p)
  | 4 => (0, s.putPort glob p { x with light := true })
  | _ => (0, s)

/-- Cycles of 100 ms on the clock of die 0. -/
def State.enableTime (s : State) : Nat := s.usec 100000

/-- `lnkctl` with operation `op`. -/
def State.lnkctlOp (s : State) (x : EArgs) (d a b : BitVec 7) (op : Nat) : Out :=
  s.engine x true [x.a a.toNat, x.b b.toNat] [sOp d.toNat] fun s =>
    if !s.fabctl then s.trap Code.permFault 0
    else match if op ≤ 4 then portSel (s.wave.sreg a.toNat) else none with
      | none => s.answer x d.toNat (s.refusal engFab stBadDesc)
      | some (glob, p) =>
        if !s.relDone x then s.hold
        else if !s.trackerRoom s.wave.core then s.block
        else if op = 4 ∧ (s.port glob p).state = .down then
          let (c, s) := (s.linkOp 4 glob p).2.newCmd engFab 0 (some d.toNat) (.linkEnable glob p) x.acqScope
          s.accept x { c with status := .running, deadline := some (s.clock 0 + s.enableTime) }
        else
          let (st, s) := s.linkOp op glob p
          s.answer x d.toNat (engWord engFab st (s.port glob p).count)

/-- The operation that S[B] names (R448). -/
def State.lnkctlSel (s : State) (b : BitVec 7) : Nat := Bits.of (s.wave.sreg b.toNat) 2 0

/-- READ, and the values 5 to 7 of S[B], which give BADDESC. -/
def execLnkctlRead (d a b : BitVec 7) (s : State) : Out :=
  s.lnkctlOp s.wave.engCompact d a b (if 5 ≤ s.lnkctlSel b then s.lnkctlSel b else 0)
def execLnkctlHold (d a b : BitVec 7) (s : State) : Out := s.lnkctlOp s.wave.engCompact d a b 1
def execLnkctlRelease (d a b : BitVec 7) (s : State) : Out := s.lnkctlOp s.wave.engCompact d a b 2
def execLnkctlDisable (d a b : BitVec 7) (s : State) : Out := s.lnkctlOp s.wave.engCompact d a b 3
def execLnkctlEnable (d a b : BitVec 7) (s : State) : Out := s.lnkctlOp s.wave.engCompact d a b 4
def execLnkctlLong (d a b : BitVec 7) (l : EL) (s : State) : Out := s.lnkctlOp (engLong l) d a b (s.lnkctlSel b)

/-- LINK_ENABLE_TIMEOUT: no lock within 100 ms. -/
def execLinkEnableTimeout (cmd : Nat) (s : State) : Out :=
  .next (match s.cmdAt cmd with
    | none => s
    | some c => match c.op, c.deadline with
      | .linkEnable glob p, some t =>
        if t ≤ s.clock 0 then s.finish c (engWord engFab stLinkDown (s.port glob p).count) else s
      | _, _ => s)

/-- The host writes the route entry of a group: one that names a port held for its neighbour lets it carry data again
(R397, R423, R485). -/
def State.writeRoute (s : State) (group : Nat) (v : Word) : State :=
  let s := { s with routes := s.routes.set group v }
  ((routePairs v).foldl (fun (s : State) x =>
    let own := decide (x.1 = memberOf s.devid)
    let p := if own then x.2 else s.localPort x.1
    let y := s.port own p
    if y.state = .held ∧ y.nbrchg then (s.putPort own p { y with state := .up, nbrchg := false }).portEvent own p else s) s).routesChanged

/-- ROUTE_WRITE. -/
def execRouteWrite (group : Nat) (v : BitVec 64) (s : State) : Out :=
  .next (s.host 4 id fun s => if group < 2048 then s.writeRoute group v else s)

end Sys2Proof.Machine
end

