-- ==== Sys2Proof/Machine/Collective.lean ====
section
/-!
DEFINITION. The collective engine (R370 to R376, R440): `col.run`, the start of a program, and the five instructions
that its programs hold. The completion event stands in Events.
-/
namespace Sys2Proof.Machine

/-! ### `col.run` (R370 to R372) -/

/-- A control block (R371). -/
structure ColBlock where
  rank : Nat
  size : Nat
  chunk : Nat
  colw : Nat
  genw : Nat
  prog : Nat

def readCol (b : List Byte) : ColBlock :=
  ⟨numAt b 0 4, numAt b 4 4, numAt b 8 8, numAt b 16 4 % 16, numAt b 16 4 / 16 % 16, numAt b 24 8⟩

/-- The fields of a control block lie in their ranges. -/
def ColBlock.ok (c : ColBlock) : Bool :=
  decide (c.rank < c.size ∧ c.size ≤ 65536 ∧ c.chunk % 16 = 0 ∧ 16 ≤ c.chunk ∧ c.chunk ≤ 2 ^ 32 ∧ 1 ≤ c.colw ∧ 1 ≤ c.genw ∧
    c.prog % 4 = 0)

/-- Bytes read on the wave's GEN path at issue; else the wave waits or traps. A failing line ends the instruction with STATUS 3 and an
imprecise fault (R348, R449). -/
def State.issueRead (s : State) (x : EArgs) (d va n align : Nat) : Except State (List Byte × State) :=
  match s.checkAll s.myGang.asid [⟨.blockRead, va, n, align⟩] with
  | .miss s => .error s.hold
  | .fault f => .error (s.addrTrap f)
  | .ok => match s.genRead va n with
    | none => .error s.hold
    | some g => match g.bad with
      | none => .ok (g.bytes, g.s)
      | some _ => .error ((g.s.genBad g.bad).answer x d (g.s.refusal engCol stMemErr))

/-- Opcode and parameter numbers of a program word. -/
def colOpc (w : BitVec 32) : Nat := w.toNat / 2 ^ 24
def colA (w : BitVec 32) : Nat := field w.toNat 15 9
def colB (w : BitVec 32) : Nat := field w.toNat 8 2

/-- Read a program (R372): its instructions up to `col.end` and the address behind it; none where it is not a program. `left` words of the
current clause are still to come. -/
def State.readProg (x : EArgs) (d : Nat) : (fuel va left : Nat) → List (BitVec 32) → State → Except State (Option (List (BitVec 32) × Nat) × State)
  | 0, _, _, _, s => .ok (none, s)
  | f + 1, va, 0, acc, s =>
    match s.issueRead x d va 4 4 with
    | .error s => .error s
    | .ok (b, s) =>
      let h : BitVec 32 := BitVec.ofNat 32 (fromBytes b)
      if hdrCount h = 0 ∨ hdrClass h ≠ 4 then .ok (none, s) else State.readProg x d f (va + 4) (hdrCount h) acc s
  | f + 1, va, n + 1, acc, s =>
    match s.issueRead x d va 4 4 with
    | .error s => .error s
    | .ok (b, s) =>
      let w : BitVec 32 := BitVec.ofNat 32 (fromBytes b)
      let acc := acc ++ [w]
      if colOpc w < 0x19 ∨ 0x1d < colOpc w then .ok (none, s)
      else if colOpc w = 0x1c then .ok (some (acc, va + 4), s)
      else if 256 ≤ acc.length then .ok (none, s)
      else State.readProg x d f (va + 4) n acc s

/-- The parameter words that a program names. -/
def colNames (ws : List (BitVec 32)) : List Nat :=
  dedup (ws.flatMap fun w => if colOpc w = 0x19 ∨ colOpc w = 0x1a ∨ colOpc w = 0x1d then [colA w, colB w] else [])

/-- The checks of step 3 of R349 on the program, from `prog` to `fin`, and on the parameter words that it names at `base` (R370). -/
def colHead (prog fin base : Nat) (ws : List (BitVec 32)) : List Range :=
  ⟨.engRead, prog, fin - prog, 4⟩ :: ⟨.engRead, base, 0, 8⟩ :: (colNames ws).map fun i => ⟨.engRead, base + 8 * i, 8, 8⟩

/-- Read parameter words. -/
def State.readParams (x : EArgs) (d base : Nat) : List Nat → Map Word → State → Except State (Map Word × State)
  | [], m, s => .ok (m, s)
  | i :: is, m, s => match s.issueRead x d (base + 8 * i) 8 8 with
    | .error s => .error s
    | .ok (b, s) => State.readParams x d base is (m.set i (wordAt b 0)) s

/-- The regions of a program (R370). -/
def colRanges (c : ColBlock) (p : Map Word) (ws : List (BitVec 32)) : List Range :=
  ws.flatMap fun w =>
    let a := (p.get 0 (colA w)).toNat
    let b := (p.get 0 (colB w)).toNat
    let n := c.size * c.chunk
    match colOpc w with
    | 0x19 => [⟨.engRead, a, n, 1⟩, ⟨.colSend, b, n, 1⟩]
    | 0x1a => [⟨.engRead, a, n, 1⟩, ⟨.engWrite, b, n, 1⟩]
    | 0x1d => [⟨.engBoth, a, 8, 8⟩]
    | _ => []

/-- Some page of a send's destination is local, which gives BADDESC. -/
def State.localDest (s : State) (asid : BitVec 16) (r : Range) : Bool :=
  r.need == .colSend && r.len != 0 && (List.range ((r.va + r.len - 1) / 2 ^ 18 - r.va / 2 ^ 18 + 1)).any fun i =>
    match s.trans asid (if i = 0 then r.va else (r.va / 2 ^ 18 + i) * 2 ^ 18) with
    | .ok p _ => !pteRmt p
    | _ => false

/-- Check and accept a program that has been read; `head` are the checks of the program and its parameter words. -/
def State.acceptCol (s : State) (x : EArgs) (d : BitVec 7) (c : ColBlock) (p : Map Word) (ws : List (BitVec 32)) (head : List Range) : State :=
  let asid := s.myGang.asid
  let rs := head ++ colRanges c p ws
  match s.checkAll asid rs with
  | .miss s => s.hold
  | .fault f => s.addrTrap f
  | .ok =>
    if rs.any (s.localDest asid) then s.answer x d.toNat (s.refusal engCol stBadDesc)
    else if !s.relDone x then s.hold
    else if decide (4 ≤ s.queued engCol 0) || !s.trackerRoom s.wave.core then s.block
    else
      let (k, s) := s.newCmd engCol 0 (some d.toNat) (.collective c.rank c.size c.chunk ws p) x.acqScope
      s.accept x k

def State.colRunOp (s : State) (x : EArgs) (d a b : BitVec 7) : Out :=
  s.engine x true [x.a a.toNat, x.b b.toNat] [sOp d.toNat] fun s =>
    let w := s.wave
    let base := (w.sreg b.toNat).toNat
    s.behindAcqs fun s => match s.issueRead x d.toNat (w.sreg a.toNat).toNat 32 8 with
    | .error s => s
    | .ok (blk, s) =>
      let c := readCol blk
      if !c.ok then s.answer x d.toNat (s.refusal engCol stBadDesc)
      else match s.readProg x d.toNat 1024 c.prog 0 [] with
        | .error s => s
        | .ok (none, s) => s.answer x d.toNat (s.refusal engCol stBadDesc)
        | .ok (some (ws, fin), s) =>
          let head := colHead c.prog fin base ws
          match s.checkAll s.myGang.asid head with
          | .miss s => s.hold
          | .fault f => s.addrTrap f
          | .ok => match s.readParams x d.toNat base (colNames ws) [] with
            | .error s => s
            | .ok (p, s) => s.acceptCol x d c p ws head

def execColRun (d a b : BitVec 7) (s : State) : Out := s.colRunOp s.wave.engCompact d a b
def execColRunLong (d a b : BitVec 7) (l : EL) (s : State) : Out := s.colRunOp (engLong l) d a b

/-- COLLECTIVE_START: the engine takes its next program, one at a time in acceptance order. -/
def execCollectiveStart (s : State) : Out :=
  .next (match s.col with
    | some _ => s
    | none => match s.cmds.find? fun c => c.eng == engCol && c.status == .queued with
      | none => s
      | some c => { s.setCmd { c with status := .running } with col := some ⟨c.id, 0, 0, none, []⟩ })

/-! ### Program instructions (R373, R374) -/

/-- What the running program's command holds. -/
structure ColCtx where
  run : ColRun
  cmd : Cmd
  rank : Nat
  size : Nat
  chunk : Nat
  p : Map Word

/-- The running program. -/
def State.colCtx (s : State) : Option ColCtx :=
  match s.col with
  | none => none
  | some r => match s.cmdAt r.cmd with
    | none => none
    | some c => match c.op with
      | .collective rank size chunk _ p => some ⟨r, c, rank, size, chunk, p⟩
      | _ => none

/-- Byte offset of the slot of the current step: CHUNK times (RANK − K) mod SIZE. -/
def ColCtx.slot (x : ColCtx) : Nat := x.chunk * ((x.rank + (x.size - x.run.k % x.size)) % x.size)

/-- A parameter word. -/
def ColCtx.par (x : ColCtx) (n : BitVec 7) : Nat := (x.p.get 0 n.toNat).toNat

/-- Go on with the next program instruction; `fired` lists the watchpoints that the program has fired (R335). -/
def State.colNext (s : State) (x : ColCtx) (fired : List Nat) : State :=
  { s.forget colWaiter with col := some { x.run with pos := x.run.pos + 1, waiting := none, fired := fired } }

/-- Run a program instruction for the engine; a wave that issues one raises ILLEGAL (R372). -/
def State.colInstr (s : State) (eff : ColCtx → State → State) : Out :=
  if s.party = .col then .next (match s.colCtx with
    | none => s
    | some x => eff x s)
  else .next (s.issue .illegal id)

/-- Note what the program met of the memory side in its command. -/
def Cmd.note (c : Cmd) (e : Eng) : Cmd := { c with bad := c.bad ++ e.bad }

/-- The engine works on regions of the program's address space once its TLB gives it their pages; what it misses it queues for walks (R239,
R241). -/
def State.colWith (s : State) (x : ColCtx) (rs : List Range) (eff : Eng → State) : State :=
  match s.checkAllAs tlbCol colWaiter x.cmd.asid rs with
  | .miss s => s
  | _ => eff { s := s, self := some x.cmd.id, via := some (tlbCol, colWaiter), fired := x.run.fired, launches := [(s.gang x.cmd.gang).launch] }

/-- The runs of a send: 16-byte stores, each split at 64-byte blocks. -/
def State.sendRunsOf (s : State) (asid : BitVec 16) (va chunk : Nat) : List RemRun :=
  (List.range (chunk / 16)).flatMap fun u =>
    (s.blockRuns asid (va + 16 * u) 16).map fun r => { r with bytes := r.bytes.map fun b => (b.1, b.2 + 16 * u) }

/-- `col.send`: it waits while a step's outcome is pending (R409) and while there is no room to send or spill. -/
def execColSend (a b : BitVec 7) (s : State) : Out :=
  s.colInstr fun x s =>
    let c := x.slot
    s.colWith x [⟨.engRead, x.par a + c, x.chunk, 1⟩, ⟨.colSend, x.par b + c, x.chunk, 1⟩] fun e =>
      let runs := e.s.sendRunsOf x.cmd.asid (x.par b + c) x.chunk
      if e.s.outcomePending || (e.s.spillCheck (runs.map (·.dev))).isSome then e.s
      else
        let (bytes, e) := e.read x.cmd.gang ⟨false, BitVec.ofNat 64 (x.par a + c)⟩ x.chunk
        let s := e.s
        let (s, ps) := s.sendRuns (x.cmd.sender (s.gang x.cmd.gang).launch false none) bytes runs
        (s.setCmd ({ x.cmd with pieces := x.cmd.pieces ++ ps }.note e)).colNext x x.run.fired

/-- One word of `col.red`. -/
def Eng.redWord (e : Eng) (g dst src : Nat) : Eng :=
  let (m, e) := e.read g ⟨false, BitVec.ofNat 64 dst⟩ 4
  let (y, e) := e.read g ⟨false, BitVec.ofNat 64 src⟩ 4
  e.write g ⟨false, BitVec.ofNat 64 dst⟩ (toBytes 4 (f32add (BitVec.ofNat 32 (fromBytes m)) (BitVec.ofNat 32 (fromBytes y))).toNat)

/-- `col.red`. -/
def execColRed (a b : BitVec 7) (s : State) : Out :=
  s.colInstr fun x s =>
    let c := x.slot
    s.colWith x [⟨.engRead, x.par a + c, x.chunk, 1⟩, ⟨.engWrite, x.par b + c, x.chunk, 1⟩] fun e =>
      let e := (List.range (x.chunk / 4)).foldl (fun (e : Eng) w => e.redWord x.cmd.gang (x.par b + c + 4 * w) (x.par a + c + 4 * w)) e
      (e.s.setCmd (x.cmd.note e)).colNext x e.fired

/-- `col.sig`: a saturating counter add behind every earlier write of the program (R260, R328, R335). -/
def execColSig (a b : BitVec 7) (s : State) : Out :=
  s.colInstr fun x s =>
    if !x.cmd.pieces.isEmpty then s
    else
      let va := x.par a
      s.colWith x [⟨.engBoth, va, 8, 8⟩] fun e =>
        let (m, e) := e.read x.cmd.gang ⟨false, BitVec.ofNat 64 va⟩ 8
        let e := if e.memErr then e else
          e.write x.cmd.gang ⟨false, BitVec.ofNat 64 va⟩ (toBytes 8 (min (fromBytes m + x.par b) (2 ^ 64 - 1)))
        let at_ := e.trans x.cmd.asid va
        let s := (e.s.setCmd (x.cmd.note e)).colNext x e.fired
        match at_ with
        | some (p, n) => if e.bad.isEmpty then s.reeval (ptePa p n va) else s
        | none => s

/-- The regions that the `col.red` instructions of a program write. -/
def ColCtx.dests (x : ColCtx) : List Nat := match x.cmd.op with
  | .collective _ _ _ ws p => (ws.filter fun w => colOpc w == 0x1a).map fun w => (p.get 0 (colB w)).toNat
  | _ => []

/-- The program is over: its completion word is known (R376), but for DENIED, which its spilled pieces may still set (R412). After an error
of the memory side the destinations of its reductions are unpredictable (R348). -/
def State.colOver (s : State) (x : ColCtx) (aborted : Bool) : State :=
  let w := engWord engCol (if x.cmd.erred then stMemErr else 0) x.run.k (if aborted then 1 else 0)
  let s := if x.cmd.erred then x.dests.foldl (fun (s : State) a => s.scramble x.cmd.asid a (x.size * x.chunk)) s else s
  { (s.forget colWaiter).setCmd { x.cmd with status := .done, word := w } with col := none }

/-- Some piece of a command is still to be answered: one that was spilled is until its step's apply (R412). -/
def State.unanswered (s : State) (c : Cmd) : Bool := s.sent.any fun r => r.cmd == some c.id

/-- `col.step`: behind the acknowledgement of every remote store the engine arrives, where it is the participant, and
waits for the outcome of the step (R373, R374). -/
def execColStep (s : State) : Out :=
  s.colInstr fun x s =>
    match x.run.waiting with
    | none =>
      if !x.cmd.pieces.isEmpty then s
      else if !s.inPod then s.colOver x true
      else
        let part0 := match s.pod with
          | some p => p.part == 0
          | none => false
        { s with col := some { x.run with waiting := some s.step.stepno }, step := { s.step with colArrived := s.step.colArrived || part0 } }
    | some n => match s.step.outcomes.find? fun o => o.1 == n with
      | some (_, .commit, _) => { s with col := some { x.run with k := x.run.k + 1, pos := x.run.pos + 1, waiting := none } }
      | some (_, .abort, _) => s.colOver x true
      | none => if s.inPod then s else s.colOver x true

/-- `col.end`: behind every write of the program. -/
def execColEnd (s : State) : Out :=
  s.colInstr fun x s => if !x.cmd.pieces.isEmpty then s else s.colOver x false

end Sys2Proof.Machine
end

