-- ==== Sys2Proof/Machine/Copy.lean ====
section
/-!
DEFINITION. The copy engine (R433 to R439): `cpy`, `cpym`, `cpydrn`, `cstage`, the starts of commands and of schedule
entries, and the ends of copies. The completion event stands in Events.
-/
namespace Sys2Proof.Machine

/-! ### Copy blocks and control words (R433, R434) -/

/-- A copy block. -/
structure CopyBlock where
  src : Word
  dst : Word
  rowsz : Nat
  nrows : Nat
  sstride : Nat
  dstride : Nat

def readCopy (b : List Byte) : CopyBlock :=
  ⟨wordAt b 0, wordAt b 8, numAt b 16 4, numAt b 20 4, numAt b 24 4, numAt b 28 4⟩

/-- Fields of a control word. -/
def ctlSv (c : Word) : Bool := c.getLsbD 0
def ctlDv (c : Word) : Bool := c.getLsbD 1
def ctlWg (c : Word) : Nat := Bits.of c 3 2
def ctlBar (c : Word) : Nat := Bits.of c 7 4
def ctlSig (c : Word) : Bool := c.getLsbD 8
def ctlMask (c : Word) : Nat := Bits.of c 19 16
def ctlTag (c : Word) : Nat := Bits.of c 29 24

/-- The STATUS that the fields of a copy give, 0 where they are in range; `wg` is the gang's number of workgroups. -/
def copyStatus (park : Bool) (b : CopyBlock) (c : Word) (wg : Nat) : Nat :=
  if b.rowsz % 16 ≠ 0 ∨ b.rowsz < 16 ∨ 16384 < b.rowsz ∨ b.sstride % 16 ≠ 0 ∨ (!park ∧ b.dstride % 16 ≠ 0) ∨ wg ≤ ctlWg c ∨
      (park ∧ (ctlSv c ∨ ctlMask c = 0)) then stBadDesc
  else if 1024 < b.nrows ∨ (park ∧ 16384 < b.nrows * b.rowsz) then stBadCount
  else 0

/-- The rows of one side of a copy. -/
def rowsOf (base : Word) (stride n : Nat) : List Nat := (List.range n).map fun r => base.toNat + stride * r

/-- The checks of one side: a vault side has only its alignment (R214, R433). -/
def sideRanges (vault : Bool) (need : Need) (base : Word) (rowsz stride n : Nat) : List Range :=
  if vault then [⟨need, base.toNat, 0, 16⟩] else (rowsOf base stride n).map fun a => ⟨need, a, rowsz, 16⟩

/-- The regions of a copy; one of no rows has none. -/
def copyRanges (park : Bool) (b : CopyBlock) (c : Word) : List Range :=
  if b.nrows = 0 then []
  else sideRanges (ctlSv c) .engRead b.src b.rowsz b.sstride b.nrows ++
    if park then [] else sideRanges (ctlDv c) .engWrite b.dst b.rowsz b.dstride b.nrows

/-- What a copy does. -/
def copyOp (park : Bool) (b : CopyBlock) (c : Word) : CmdOp :=
  if park then .park b.src.toNat b.rowsz b.nrows b.sstride c
  else .copy b.src.toNat b.dst.toNat b.rowsz b.nrows b.sstride b.dstride c

/-- The checks of an ad hoc copy. One of no rows completes at once, unless it has an arrival to perform (R433, R435). -/
def copyPlan (park : Bool) (c : Word) (wg : Nat) (blk : List Byte) : Plan :=
  let b := readCopy blk
  let st := copyStatus park b c wg
  if st ≠ 0 then .answer st 0 else if b.nrows = 0 ∧ !ctlSig c then .answer 0 0 else .run (copyRanges park b c) (copyOp park b c)

/-! ### Issue (R436) -/

/-- A shared entry of a quad's copy queue is free. -/
def State.copyShared (s : State) (quad : Nat) : Bool :=
  decide ((s.cmds.filter fun c => c.eng == engCopy && c.unit == quad && c.status == .queued && c.dreg.isSome && !c.reserved).length < 64)

/-- The wave's reserved entry is free. -/
def State.copyReserved (s : State) : Bool :=
  !s.cmds.any fun c => c.eng == engCopy && c.wave == s.cur && c.status == .queued && c.reserved

/-- Issue `cpy` or `cpym`. -/
def State.copyIssue (s : State) (x : EArgs) (park : Bool) (d a b : BitVec 7) : Out :=
  s.engine x true [x.a a.toNat, x.b b.toNat] [sOp d.toNat] fun s =>
    let w := s.wave
    let quad := quadOf w.core
    let shared := s.copyShared quad
    s.command x engCopy quad (shared || s.copyReserved) d.toNat (w.sreg a.toNat) 32
      (copyPlan park (w.sreg b.toNat) s.myLaunch.kernel.wg) (fun c => { c with reserved := !shared })

def execCpy (d a b : BitVec 7) (s : State) : Out := s.copyIssue s.wave.engCompact false d a b
def execCpyLong (d a b : BitVec 7) (l : EL) (s : State) : Out := s.copyIssue (engLong l) false d a b
def execCpym (d a b : BitVec 7) (s : State) : Out := s.copyIssue s.wave.engCompact true d a b
def execCpymLong (d a b : BitVec 7) (l : EL) (s : State) : Out := s.copyIssue (engLong l) true d a b

/-- Issue `cpydrn` (R438). -/
def State.cpydrnOp (s : State) (x : EArgs) (d a b : BitVec 7) : Out :=
  s.engine x true [x.a a.toNat, x.b b.toNat] [sOp d.toNat] fun s =>
    let w := s.wave
    let quad := quadOf w.core
    let shared := s.copyShared quad
    if !s.relDone x then s.hold
    else if !(shared || s.copyReserved) || !s.trackerRoom w.core then s.block
    else
      let (c, s) := s.newCmd engCopy quad (some d.toNat)
        (.drain (Bits.of (w.sreg a.toNat) 23 0) (Bits.of (w.sreg b.toNat) 5 0)) x.acqScope
      s.accept x { c with reserved := !shared }

def execCpydrn (d a b : BitVec 7) (s : State) : Out := s.cpydrnOp s.wave.engCompact d a b
def execCpydrnLong (d a b : BitVec 7) (l : EL) (s : State) : Out := s.cpydrnOp (engLong l) d a b

/-- `cstage` (R437): raise STAGE, and note which entries this instruction releases. -/
def State.cstageOp (s : State) (x : EArgs) (d a : BitVec 7) : Out :=
  s.engine x true [x.a a.toNat] [sOp d.toNat] fun s =>
    if !s.relDone x then s.hold
    else
      let w := s.wave
      let g := s.myGang
      let stage := min (g.stage + (w.sreg a.toNat).toNat) s.myLaunch.kernel.ncsch
      let s := s.modGang w.gang fun y => { y with
        stage := stage, releases := if stage = y.stage then y.releases else y.releases ++ [(stage, s.cur, w.waveid, w.here)] }
      s.answer x d.toNat (BitVec.ofNat 64 stage)

def execCstage (d a : BitVec 7) (s : State) : Out := s.cstageOp s.wave.engCompact d a
def execCstageLong (d a : BitVec 7) (l : EL) (s : State) : Out := s.cstageOp (engLong l) d a

/-! ### Starts (R436 to R438) -/

/-- Read the rows of a source, packed. -/
def Eng.readRows (e : Eng) (g : Nat) (vault : Bool) (base : Word) (rowsz stride n : Nat) : List Byte × Eng :=
  (List.range n).foldl (fun (x : List Byte × Eng) r =>
    let (b, e) := x.2.read g ⟨vault, base + BitVec.ofNat 64 (stride * r)⟩ rowsz
    (x.1 ++ b, e)) ([], e)

/-- The parked slot that a `cpydrn` copies: the oldest with its tag that its core has still to drain. -/
def State.slotFor (s : State) (quad core tag : Nat) : Option Nat :=
  s.slots.findIdx? fun x => x.quad == quad && x.tag == tag && bitAt x.rmask (core % 4) && !bitAt x.drained (core % 4)

/-- Holding slots of a quad that are parked or being parked. -/
def State.slotsUsed (s : State) (quad : Nat) : Nat :=
  (s.slots.filter fun x => x.quad == quad).length + (s.cmds.filter fun c => c.eng == engCopy && c.unit == quad && c.status == .running && match c.op with
    | .park _ _ n _ _ => n != 0
    | _ => false).length

/-- A queued command finds what it needs to start. -/
def State.copyCan (s : State) (c : Cmd) : Bool :=
  match c.op with
  | .park _ _ n _ _ => n == 0 || decide (s.slotsUsed c.unit < 8)
  | .drain _ tag => (s.slotFor c.unit c.core tag).isSome
  | _ => true

/-- Run a copy at its start: it reads its source. -/
def Eng.copyRun (e : Eng) (c : Cmd) : List Byte × Word × Eng :=
  match c.op with
  | .copy src _ rowsz nrows sstride _ ctl =>
    let (b, e) := e.readRows c.gang (ctlSv ctl) (BitVec.ofNat 64 src) rowsz sstride nrows
    (b, engWord engCopy 0 b.length, e)
  | .park src rowsz nrows sstride _ =>
    let (b, e) := e.readRows c.gang false (BitVec.ofNat 64 src) rowsz sstride nrows
    (b, engWord engCopy 0 b.length, e)
  | .drain _ tag =>
    match e.s.slotFor c.unit c.core tag with
    | none => ([], 0, e)
    | some i =>
      let x := nth ⟨0, 0, 0, 0, 0, []⟩ e.s.slots i
      let x' := { x with drained := x.drained + 2 ^ (c.core % 4) }
      let slots := if x'.drained % 16 &&& x'.rmask = x'.rmask then e.s.slots.eraseIdx i else e.s.slots.set i x'
      (x.bytes, engWord engCopy 0 x.bytes.length, { e with s := { e.s with slots := slots } })
  | _ => ([], 0, e)

/-- COPY_START: a quad's engine takes the first queued command that can start, up to eight at once. -/
def execCopyStart (quad : Nat) (s : State) : Out :=
  .next (if 8 ≤ (s.cmds.filter fun c => c.eng == engCopy && c.unit == quad && c.status == .running && c.dreg.isSome).length then s
    else match s.cmds.find? fun c => c.eng == engCopy && c.unit == quad && c.status == .queued && c.dreg.isSome && s.copyCan c with
      | none => s
      | some c => s.engineStep c fun e => let (data, word, e) := e.copyRun c; State.started e c data word)

/-- The arrival that a control word asks for (R435). -/
def State.copySignal (s : State) (g : Nat) (ctl : Word) : State :=
  if ctlSig ctl then (s.arrive g (ctlWg ctl) (ctlBar ctl) []).2 else s

/-- The writes and the arrival of a copy at its end. -/
def Eng.copyEnd (e : Eng) (c : Cmd) : Eng :=
  match c.op with
  | .copy _ dst rowsz nrows _ dstride ctl =>
    let e := (List.range nrows).foldl (fun (e : Eng) r =>
      e.writeOut c.gang ⟨ctlDv ctl, BitVec.ofNat 64 (dst + dstride * r)⟩ c.erred ((c.data.drop (rowsz * r)).take rowsz)) e
    { e with s := e.s.copySignal c.gang ctl }
  | .park _ _ _ _ ctl =>
    let x : Slot := ⟨c.unit, c.gang, ctlTag ctl, ctlMask ctl, 0, if c.erred then e.s.openBytes 0 c.data.length else c.data⟩
    { e with s := { e.s with slots := if c.data.isEmpty then e.s.slots else e.s.slots ++ [x] }.copySignal c.gang ctl }
  | .drain off _ => e.writeOut c.gang ⟨true, BitVec.ofNat 64 off⟩ c.erred c.data
  | _ => e

/-! ### The copy schedule (R437) -/

/-- The control word that a schedule entry's fields give. -/
def entryCtl (w0 w1 : BitVec 32) : Word :=
  let d := field w0.toNat 23 16
  let b := field w0.toNat 8 2
  BitVec.ofNat 64 (bitAt b 0 |>.toNat) + BitVec.ofNat 64 (2 * (bitAt b 1).toNat) + BitVec.ofNat 64 (4 * field d 5 4) +
    BitVec.ofNat 64 (16 * field d 3 0) + BitVec.ofNat 64 (2 ^ 8 * (bitAt d 7).toNat) +
    BitVec.ofNat 64 (2 ^ 16 * field b 5 2) + BitVec.ofNat 64 (2 ^ 24 * field w1.toNat 29 24)

/-- The codes of R456, one of which a schedule entry with a field out of range reports (log 25). -/
def faultCodes : List Code :=
  [Code.illegal, Code.empty, Code.watchdog, Code.loopDepth, Code.nbarState, Code.software, Code.break_, Code.nested, Code.thermalStop,
   Code.addrRange, Code.align, Code.pageFault, Code.pteBad, Code.permFault, Code.mtxFault, Code.uncorr, Code.poison, Code.expzFull,
   Code.seqAbandoned, Code.stepAbort, Code.stepConflict, Code.stepSpillFull, Code.fabNotMember, Code.fabDenied]

/-- The code of a field out of range. -/
def State.entryCode (s : State) : Code := (pickOf faultCodes (Config.entryFault s.tick)).getD Code.illegal

/-- A schedule entry has started, or failed: the next one follows. -/
def State.entryTaken (s : State) (g : Nat) : State := (s.modGang g fun x => { x with nextEntry := x.nextEntry + 1 }).forget (cmdWaiter g)

/-- An entry that fails writes nothing; it performs its arrival and is reported (R437). -/
def State.entryFails (s : State) (g : Nat) (r : Nat × Nat × BitVec 32 × Word) (ctl : Word) (code : Code) : State :=
  let s := s.entryTaken g
  let s := if ctlWg ctl < (s.gang g).wgs.length then s.copySignal g ctl else s
  s.impFault r.2.1 r.2.2.1 g code r.2.2.2

/-- The copy engine of a gang's quad reads bytes of the gang's schedule or blocks through its TLB (R239): what `eff` makes of them, a failure
of the entry, or a walk that is still to come. -/
def State.entryRead (s : State) (g : Nat) (r : Nat × Nat × BitVec 32 × Word) (ctl : Word) (va n align : Nat) (eff : List Byte → State → State) :
    State :=
  let gg := s.gang g
  match s.checkAllAs (tlbCopy gg.quad) (cmdWaiter g) gg.asid [⟨.blockRead, va, n, align⟩] with
  | .miss s => s
  | .fault f => s.entryFails g r ctl f.code
  | .ok =>
    let (b, e) := Eng.read { s := s, via := some (tlbCopy gg.quad, cmdWaiter g) } g ⟨false, BitVec.ofNat 64 va⟩ n
    match e.bad.head? with
    | some c => e.s.entryFails g r ctl c
    | none => eff b e.s

/-- Start a schedule entry whose block has been read. It takes an entry of the tracker of the core of its `cstage` (R42), and a parking entry
a slot; it waits for both. -/
def State.beginEntry (s : State) (g : Nat) (r : Nat × Nat × BitVec 32 × Word) (park : Bool) (ctl : Word) (b : CopyBlock) : State :=
  let gg := s.gang g
  let core := (s.waveAt r.2.1).core
  if copyStatus park b ctl (s.launch gg.launch).kernel.wg ≠ 0 then s.entryFails g r ctl s.entryCode
  else match s.checkAllAs (tlbCopy gg.quad) (cmdWaiter g) gg.asid (copyRanges park b ctl) with
    | .fault f => s.entryFails g r ctl f.code
    | .miss s => s
    | .ok =>
      if (park ∧ b.nrows ≠ 0 ∧ 8 ≤ s.slotsUsed gg.quad) ∨ !s.trackerRoom core then s
      else
        let (id, s) := s.fresh
        let c : Cmd := {
          id := id, eng := engCopy, unit := gg.quad, core := core, wave := r.2.1, waveid := r.2.2.1, gang := g, asid := gg.asid,
          pc := r.2.2.2, dreg := none, op := copyOp park b ctl, status := .running, word := 0, data := [], acq := none,
          tracker := true, reserved := false, deadline := none, pieces := [], denied := false, bad := [], pos := 0, passes := 0,
          spoiled := false, fired := [] }
        let s := { s with cmds := s.cmds ++ [c] }
        let (data, word, e) := Eng.copyRun { s := s, self := some id, via := some (tlbCopy gg.quad, cmdWaiter g), launches := [gg.launch] } c
        (State.started e c data word).entryTaken g

/-- Start a schedule entry whose two words have been read. -/
def State.startEntry (s : State) (g : Nat) (r : Nat × Nat × BitVec 32 × Word) (w0 w1 : BitVec 32) : State :=
  let x := s.launch (s.gang g).launch
  let op := w0.toNat / 2 ^ 24
  let ctl := entryCtl w0 w1
  let a := field w0.toNat 15 9
  if (op ≠ 0x90 ∧ op ≠ 0x91) ∨ x.ncb ≤ a then s.entryFails g r ctl s.entryCode
  else s.entryRead g r ctl (x.cbtab.toNat + 32 * a) 32 8 fun b s => s.beginEntry g r (op == 0x91) ctl (readCopy b)

/-- A gang being saved takes copies in until its waves have stopped (R439, R466). -/
def State.ingressOpen (s : State) (g : Nat) : Bool :=
  (s.gang g).status == .resident || ((s.gang g).status == .saving && (s.liveOf g).any fun w => w.2.status == .live)

/-- SCHEDULE_ENTRY_START (R437): the next released entry of a gang starts, at most four at a time; none once a save has
closed the gang's copy ingress (R439), and a parking entry waits for a slot. -/
def execScheduleEntryStart (gang : Nat) (s : State) : Out :=
  let g := s.gang gang
  .next (match g.releases.find? fun r => decide (g.nextEntry < r.1) with
    | none => s
    | some r =>
      if !s.ingressOpen gang ∨ g.stage ≤ g.nextEntry then s
      else if 4 ≤ (s.cmds.filter fun c => c.gang == gang && c.eng == engCopy && c.dreg.isNone).length then s
      else
        let k := (s.launch g.launch).kernel
        s.entryRead gang r 0 (k.csched + BitVec.ofNat 64 (8 * g.nextEntry)).toNat 8 1 fun b s =>
          s.startEntry gang r (BitVec.ofNat 32 (numAt b 0 4)) (BitVec.ofNat 32 (numAt b 4 4)))

end Sys2Proof.Machine
end

