-- ==== Sys2Proof/Machine/Matrix.lean ====
section
/-!
DEFINITION. The matrix sequencer and its instructions (18_matrix_engine.md and the first part of
20_matrix_copy_fabric_instructions.md, R379 to R394, R424 to R432). A turn of a tile instruction loads its whole operands or
completes one unit (R387).
-/
namespace Sys2Proof.Machine

/-! ### Position (R379, R432) -/

/-- The word at the sequencer's place, and its address. -/
def Seqr.word (q : Seqr) : BitVec 32 := nth 0 q.words q.widx
def Seqr.here (q : Seqr) : Word := q.mpc + 4 + 4 * BitVec.ofNat 64 q.widx

/-- The address of the header after the clause. -/
def Seqr.nextHeader (q : Seqr) : Word := q.mpc + 4 + 4 * BitVec.ofNat 64 (hdrCount q.hdr)

/-- Fetch a clause at an address next. -/
def Seqr.fetchAt (q : Seqr) (a : Word) : Seqr := { q with phase := .fetch, mpc := a, widx := 0, words := [] }

/-- The instruction of `len` words at the sequencer's place ends its clause. -/
def Seqr.endsClause (q : Seqr) (len : Nat) : Bool := decide (hdrCount q.hdr ≤ q.widx + len)

/-- The clause is complete: a pass of LOOP may close, as R38 has it for waves. -/
def Seqr.endClause (q : Seqr) (fin : Word) : Seqr :=
  let (go, ls) := closeLoop fin q.loop.reverse
  { q with loop := ls.reverse }.fetchAt (go.getD q.nextHeader)

/-- The instruction of `len` words is done: MSTAT and the working buffers are cleared, and the sequencer goes on. -/
def Seqr.retire (q : Seqr) (len : Nat) : Seqr :=
  let q := { q with mstat := 0, work := [], status := .run, inst := q.inst + 1, fired := [] }
  if q.endsClause len then q.endClause q.here else { q with widx := q.widx + len }

/-! ### Faults (R381, R388) -/

/-- The instruction at the sequencer's place faults (R388): MSTAT says where and why, the hold buffers are emptied
(R392), and what walks have returned is forgotten: after `rft` the translation is looked for again (R238). -/
def State.seqFault (s : State) (c : Code) (res : Bool) : State :=
  let q := s.sq
  let m := q.mrow + (if res then 2 ^ 6 else 0) + (if q.part then 2 ^ 7 else 0) + 2 ^ 32 * c.toNat + 2 ^ 40 * q.widx
  (s.modSeq fun q => { q with status := .fault, mstat := BitVec.ofNat 64 m, holdx := none, holdy := none,
                              holdg := none }).forget (seqWaiter s.seq) |>.seqDeliver s.seq

/-- A sequencer can issue: it runs or waits at `mwait`, and has fetched its clause. -/
def Seqr.canIssue (q : Seqr) : Bool := (q.status == .run || q.status == .wait) && q.phase == .issue

/-- Issue an MK form (R424): ILLEGAL unless `legal`, then its effect. -/
def State.seqIssue (s : State) (legal : Bool) (eff : State → State) : Out :=
  .next (if !s.sq.canIssue then s else if !legal then s.seqFault Code.illegal false else eff s)

/-- The tile predicate of an MT form holds; `tq0` reads 1 (R77, R391). -/
def Seqr.tqHolds (q : Seqr) (qn : Bool) (n : BitVec 4) : Bool := (n == 0 || q.tq.getLsbD n.toNat) != qn

/-- An MT form is done: the reuse hint before it is used up (R392). -/
def State.tileDone (s : State) (len : Nat) : State := s.modSeq fun q => { (q.retire len) with reuse := 0 }

/-- Issue an MT form: with its predicate false it retires without fault or effect (R391). -/
def State.tileIssue (s : State) (qn : Bool) (n : BitVec 4) (len : Nat) (legal : Bool) (eff : State → State) : Out :=
  .next (if !s.sq.canIssue then s
    else if !s.sq.tqHolds qn n then s.tileDone len
    else if !legal then s.seqFault Code.illegal false
    else eff s)

/-! ### Operands (R383 to R386, R392) -/

/-- Descriptor `n` and ring `n`. -/
def Seqr.mdAt (q : Seqr) (n : Nat) : MDesc := q.md.get ⟨0, 0, 0⟩ n
def Seqr.ringAt (q : Seqr) (n : Nat) : Ring := q.rings.get ⟨0, 0, 0, 0, 0, false⟩ n

/-- An operand code names a descriptor, or a ring that is configured (R384). -/
def Seqr.srcOk (q : Seqr) (code : BitVec 5) : Bool := decide (16 ≤ code.toNat) || (q.ringAt code.toNat).nstage != 0

/-- A code is a descriptor whose BASE or STRIDE is not a multiple of 16 (R383). -/
def Seqr.misaligned (q : Seqr) (code : BitVec 5) : Bool :=
  let d := q.mdAt (code.toNat - 16)
  decide (16 ≤ code.toNat) && (d.base.toNat % 16 != 0 || d.stride.toNat % 16 != 0)

/-- Where row `r` of an operand lies (R383, R384). -/
def Seqr.rowLoc (q : Seqr) (code : BitVec 5) (r : Nat) : Loc :=
  if 16 ≤ code.toNat then
    let d := q.mdAt (code.toNat - 16)
    ⟨false, d.base + BitVec.ofNat 64 (d.stride.toNat * r)⟩
  else
    let g := q.ringAt code.toNat
    ⟨true, BitVec.ofNat 64 ((g.base + 32 * g.stride * g.head + g.stride * r) % 2 ^ 24)⟩

/-- Bytes of an element (R385, R429). -/
def fmtBytes (fmt8 : BitVec 8) : Nat := if fmt8 = 0x03 ∨ fmt8 = 0x00 then 4 else if fmt8 = 0x07 ∨ fmt8 = 0x06 then 2 else 1

/-- The format of an FMT8 code. -/
def fmtOf (fmt8 : BitVec 8) : FFmt :=
  if fmt8 = 0x03 ∨ fmt8 = 0x00 then fp32 else if fmt8 = 0x07 then bf16 else if fmt8 = 0x06 then fp16 else b8 fmt8.toNat

/-- A binary8 code of the table of FMT8 with P ≠ 0 (R72, R128). -/
def isB8 (fmt8 : BitVec 8) : Bool := decide (0x40 ≤ fmt8.toNat ∧ fmt8.toNat ≤ 0x5f) && fmt8.toNat % 8 != 0

/-- An element format that a format block may name (R385, R386). -/
def mfmtOk (fmt8 : BitVec 8) : Bool := fmt8 == 0x03 || fmt8 == 0x07 || (isB8 fmt8 && fmt8 != 0x51 && fmt8 != 0x59)

/-- The scales of an operand row: their number, or none where the operand takes no scale (R385). -/
def MFmt.nScales (f : MFmt) : Nat := if f.scaled ∧ fmtBytes f.fmt8 = 1 then 128 / f.blen else 0

/-- Where the scales of row `r` lie. -/
def MFmt.scaleAt (f : MFmt) (r : Nat) : Word := f.scale + BitVec.ofNat 64 (2 * r * f.nScales)

/-- The bytes that one operand row keeps: its elements and its scales. -/
def MFmt.rowSize (f : MFmt) (len : Nat) : Nat := len + 2 * f.nScales

/-- Under what an operand was read (R392). -/
def Seqr.holdKey (q : Seqr) (code : BitVec 5) (f : MFmt) (len : Nat) : List Nat :=
  let src := if 16 ≤ code.toNat then
      let d := q.mdAt (code.toNat - 16)
      [d.base.toNat, d.stride.toNat, d.cfg.toNat]
    else
      let g := q.ringAt code.toNat
      [g.base, g.stride, g.nstage, g.head, g.freeb, if g.freeen then 1 else 0]
  [code.toNat, len, f.fmt8.toNat, f.blen, if f.scaled then 1 else 0, f.scale.toNat] ++ src

/-- HOLDX, HOLDY and HOLDG, numbered 0 to 2 as in the selector of `mreuse`. -/
def Seqr.hold (q : Seqr) (k : Nat) : Option Hold := match k with
  | 0 => q.holdx
  | 1 => q.holdy
  | _ => q.holdg
def Seqr.setHold (q : Seqr) (k : Nat) (h : Option Hold) : Seqr := match k with
  | 0 => { q with holdx := h }
  | 1 => { q with holdy := h }
  | _ => { q with holdg := h }

/-- Rows from `a` on that `mreuse` lets the instruction take from a hold buffer; it may also read them afresh (log 19). -/
def Seqr.held (q : Seqr) (tick k : Nat) (key : List Nat) (size a n : Nat) : Option (List Byte) :=
  match q.hold k with
  | none => none
  | some h =>
    if q.reuse.getLsbD k && h.key == key && decide ((a + n) * size ≤ h.bytes.length) && Config.reusePick (4 * tick + k) then
      some ((h.bytes.drop (a * size)).take (n * size))
    else none

/-- Rows from `a` on have been read: the hold buffer has them. -/
def Seqr.keep (q : Seqr) (k : Nat) (key : List Nat) (size a : Nat) (bs : List Byte) : Seqr :=
  q.setHold k (match q.hold k with
    | some h =>
      if h.key = key ∧ a * size ≤ h.bytes.length then some ⟨key, patch (h.bytes ++ copies bs.length 0) (a * size) bs |>.take
        (max h.bytes.length (a * size + bs.length))⟩
      else if a = 0 then some ⟨key, bs⟩ else none
    | none => if a = 0 then some ⟨key, bs⟩ else none)

/-- The region of a drain's access: a line, or a vault word. -/
def Acc.spot (a : Acc) : Nat × Nat := match a.at_ with
  | .phys pa => (0, lineOf pa)
  | .vault g off => (g + 1, off / 4)
  | .ungranted => (0, 2 ^ 64)

/-- The accesses that write bytes at a place for gang `g`, through translations that are held (R383, R384). -/
def State.seqAccs (s : State) (g : Nat) (l : Loc) (bs : List Byte) : List Acc :=
  if l.vault then
    (List.range (bs.length / 4)).map fun i =>
      ⟨s.vaultAt g true (l.addr + BitVec.ofNat 64 (4 * i)), 0, false, false, .write ((bs.drop (4 * i)).take 4), none⟩
  else
    (segments l.addr.toNat bs.length).filterMap fun p => match s.trans (s.gang g).asid p.1 with
      | .ok pte n => some ⟨.phys (ptePa pte n p.1), p.1, pteExpz pte, false, .write ((bs.drop (p.1 - l.addr.toNat)).take p.2), none⟩
      | _ => none

/-- A drain of this sequencer that has still to be written touches a region (R380). -/
def State.drainOver (s : State) (l : Loc) (n : Nat) : Bool :=
  let mine := s.drains.filter fun d => d.seq == s.seq
  if mine.isEmpty then false
  else
    let spots := (s.seqAccs s.sq.gang l (copies n 0)).map Acc.spot
    mine.any fun d => d.writes.any fun a => spots.contains a.spot

/-- The ranges of virtual memory that reading rows needs: R, local HBM4 (R383); scales are 2-byte aligned (R385). -/
def Seqr.rowRanges (q : Seqr) (code : BitVec 5) (f : MFmt) (len a n : Nat) : List Range :=
  (if 16 ≤ code.toNat then (upto a n).map fun r => ⟨.engRead, (q.rowLoc code r).addr.toNat, len, 1⟩ else []) ++
    (if f.nScales = 0 then [] else (upto a n).map fun r => ⟨.engRead, (f.scaleAt r).toNat, 2 * f.nScales, 2⟩)

/-- The load pipe of the sequencer whose turn it is. -/
def State.loadPipe (s : State) : Eng := { s := s, via := some (s.myTlb, s.me) }

/-- Read one row with its scales at the home slices or in the vault. -/
def State.readRow (s : State) (code : BitVec 5) (f : MFmt) (len r : Nat) : List Byte × State :=
  let q := s.sq
  let (b, e) := s.loadPipe.read q.gang (q.rowLoc code r) len
  if f.nScales = 0 then (b, e.s)
  else
    let (c, e) := e.read q.gang ⟨false, f.scaleAt r⟩ (2 * f.nScales)
    (b ++ c, e.s)

/-- Fault RES of the reads of operands and of destinations (R388). -/
def resumable (c : Code) : Bool := c != Code.addrRange

/-- Check ranges for the sequencer before any effect: a walk still to come leaves it where it stands. -/
def State.seqCheck (s : State) (rs : List Range) (res : Bool) (eff : State → State) : State :=
  match s.checkAll s.sq.asid rs with
  | .miss s => s
  | .fault f => s.seqFault f.code (res && resumable f.code)
  | .ok => eff s

/-- Take rows `a` to `a + n − 1` of operand `k` (0 X, 1 Y, 2 G): from a hold buffer, or by reading them once no drain of
this sequencer to the same bytes is open (R380, R383, R387, R392). -/
def State.takeRows (s : State) (k : Nat) (code : BitVec 5) (f : MFmt) (len a n : Nat) (eff : List Byte → State → State) : State :=
  let q := s.sq
  let key := q.holdKey code f len
  let size := f.rowSize len
  match q.held s.tick k key size a n with
  | some b => eff b s
  | none =>
    if q.misaligned code then s.seqFault Code.align true
    else s.seqCheck (q.rowRanges code f len a n) true fun s =>
      if (upto a n).any fun r => s.drainOver (q.rowLoc code r) len || (f.nScales != 0 && s.drainOver ⟨false, f.scaleAt r⟩ (2 * f.nScales))
      then s
      else
        let (b, s) := (upto a n).foldl (fun (x : List Byte × State) r =>
          let (c, s) := x.2.readRow code f len r
          (x.1 ++ c, s)) ([], s)
        eff b (s.modSeq fun q => q.keep k key size a b)

/-- The elements of a row that was taken, each multiplied by its scale (R140, R385). -/
def MFmt.row (f : MFmt) (len : Nat) (bs : List Byte) : List FVal :=
  let w := fmtBytes f.fmt8
  (List.range (len / w)).map fun k =>
    let x := (fmtOf f.fmt8).decode (fromBytes ((bs.drop (w * k)).take w))
    if f.nScales = 0 then x
    else x.mul (bf16.decode (fromBytes ((bs.drop (len + 2 * (k / f.blen))).take 2)))

/-- Row `r` of rows that were taken together. -/
def MFmt.rowOf (f : MFmt) (len : Nat) (bs : List Byte) (r : Nat) : List FVal := f.row len (bs.drop (r * f.rowSize len))

/-! ### Tiles (R219, R426 to R428) -/

/-- Element (i, j) of a tile. -/
def Seqr.elem (q : Seqr) (t i j : Nat) : Lane := Map.get 0 (q.tiles.get [] t) (32 * i + j)

/-- Write elements of a tile, each by its place 32i + j. -/
def Seqr.putTile (q : Seqr) (t : Nat) (es : List (Nat × Lane)) : Seqr :=
  { q with tiles := q.tiles.set t (es.foldl (fun (m : Map Lane) e => m.set e.1 e.2) (q.tiles.get [] t)) }

/-- The products of two rows of elements. -/
def products (x y : List FVal) : List FVal := List.zipWith FVal.mul x y

/-- The kind by which the order of a matrix sum is fixed (R139): the instruction and its formats. -/
def mmaKind (x y : BitVec 8) : Nat := 2 ^ 16 + 256 * x.toNat + y.toNat
def mdualKind (x : BitVec 8) : Nat := 2 ^ 17 + x.toNat

/-- Unit `i` of `mma` (R426). -/
def Seqr.mmaUnit (q : Seqr) (t i : Nat) (za : Bool) (xb yb : List Byte) : Seqr :=
  let x := q.fmtx.row 128 xb
  q.putTile t ((List.range 32).map fun j =>
    let c : FVal := if za then .num false 0 0 else f32 (q.elem t i j)
    (32 * i + j, dot (mmaKind q.fmtx.fmt8 q.fmty.fmt8) 0 c (products x (q.fmty.rowOf 128 yb j))))

/-- The unit that stands at MROW is complete; the instruction retires after unit 31. -/
def State.unitDone (s : State) (len : Nat) (part : Bool) : State :=
  let m := s.sq.mrow + 1
  if 32 ≤ m then s.tileDone len else s.modSeq fun q => q.progress m part

/-- `mma` (R426, R386, R387). -/
def State.mmaOp (s : State) (t : BitVec 7) (x y : BitVec 5) (qn : Bool) (n : BitVec 4) (imm : BitVec 32) (len : Nat) : Out :=
  let q := s.sq
  s.tileIssue qn n len
    (decide (imm.toNat < 2) && q.srcOk x && q.srcOk y && fmtBytes q.fmtx.fmt8 == fmtBytes q.fmty.fmt8) fun s =>
      match Map.find q.work 1 with
      | none => s.takeRows 1 y q.fmty 128 0 32 fun b s => s.modSeq fun q => { q with work := [(1, b)] }
      | some yb => s.takeRows 0 x q.fmtx 128 q.mrow 1 fun xb s =>
          (s.modSeq fun q => q.mmaUnit t.toNat q.mrow (imm == 1) xb yb).unitDone len false

def execMma (t : BitVec 7) (x y : BitVec 5) (qn : Bool) (q : BitVec 4) (s : State) : Out := s.mmaOp t x y qn q 0 1
def execMmaLong (t : BitVec 7) (x y : BitVec 5) (qn : Bool) (q : BitVec 4) (imm : BitVec 32) (s : State) : Out :=
  s.mmaOp t x y qn q imm 2

/-- The first output of `mdual`: a[T+1] gains YᵀG (R369, R387). -/
def Seqr.mdualFirst (q : Seqr) (t len : Nat) (yb gb : List Byte) : Seqr :=
  let y := (List.range 32).map (q.fmtx.rowOf len yb)
  let g := (List.range 32).map (q.fmtx.rowOf len gb)
  q.putTile t ((List.range 32).flatMap fun i => (List.range 32).map fun j =>
    (32 * i + j, dot (mdualKind q.fmtx.fmt8) 0 (f32 (q.elem t i j))
      (products (y.map fun r => nth .nan r i) (g.map fun r => nth .nan r j))))

/-- Unit `k` of `mdual`: column k of a[T] gains G·(row k of X) (R369, R387). -/
def Seqr.mdualUnit (q : Seqr) (t len k : Nat) (xb gb : List Byte) : Seqr :=
  let x := q.fmtx.row len xb
  q.putTile t ((List.range 32).map fun i =>
    (32 * i + k, dot (mdualKind q.fmtx.fmt8) 0 (f32 (q.elem t i k)) (products (q.fmtx.rowOf len gb i) x)))

/-- `mdual` (R427, R369, R386, R387): its operands take no scale, FP32 and BF16 having none. -/
def State.mdualOp (s : State) (t : BitVec 7) (x y : BitVec 5) (qn : Bool) (n : BitVec 4) (imm : BitVec 32) (len : Nat) : Out :=
  let q := s.sq
  let g : BitVec 5 := imm.setWidth 5
  let row := 32 * fmtBytes q.fmtx.fmt8
  s.tileIssue qn n len
    (t != 127 && decide (imm.toNat < 32) && q.srcOk x && q.srcOk y && q.srcOk g &&
      (q.fmtx.fmt8 == 0x03 || q.fmtx.fmt8 == 0x07) && q.fmty.fmt8 == q.fmtx.fmt8) fun s =>
      match Map.find q.work 2 with
      | none => s.takeRows 2 g q.fmtx row 0 32 fun gb s => s.takeRows 1 y q.fmtx row 0 32 fun yb s =>
          s.modSeq fun q =>
            let q := if q.part then q else q.mdualFirst (t.toNat + 1) row yb gb
            { (q.progress q.mrow true) with work := [(1, yb), (2, gb)] }
      | some gb => s.takeRows 0 x q.fmtx row q.mrow 1 fun xb s =>
          (s.modSeq fun q => q.mdualUnit t.toNat row q.mrow xb gb).unitDone len true

def execMdual (t : BitVec 7) (x y : BitVec 5) (qn : Bool) (q : BitVec 4) (s : State) : Out := s.mdualOp t x y qn q 0 1
def execMdualLong (t : BitVec 7) (x y : BitVec 5) (qn : Bool) (q : BitVec 4) (imm : BitVec 32) (s : State) : Out :=
  s.mdualOp t x y qn q imm 2

/-- `mclr` (R428). -/
def execMclr (t : BitVec 7) (qn : Bool) (q : BitVec 4) (s : State) : Out :=
  s.tileIssue qn q 1 true fun s => (s.modSeq fun q => { q with tiles := q.tiles.set t.toNat [] }).tileDone 1

/-! ### Drains (R389, R390, R393, R429, R430) -/

/-- FMT8 of a CONV word is one that it may hold (R429). -/
def convOk (conv : BitVec 32) : Bool :=
  let f : BitVec 8 := conv.setWidth 8
  f == 0 || f == 0x03 || f == 0x06 || f == 0x07 || isB8 f

/-- An element as a drain writes it: FMT8 0 writes the FP32 bits unconverted. -/
def mtxElem (conv : BitVec 32) (x : Lane) : List Byte :=
  let f : BitVec 8 := conv.setWidth 8
  if f = 0 then toBytes 4 x.toNat
  else toBytes (fmtBytes f) ((fmtOf f).deliver (field conv.toNat 9 8) (conv.getLsbD 10) (f32 x))

/-- MAXMAG and NAN after the elements of a row are read (R390). -/
def Seqr.capture (q : Seqr) (xs : List Lane) : Seqr :=
  xs.foldl (fun (q : Seqr) x =>
    let m := x &&& 0x7fffffff
    if 0x7f800000 < m.toNat then { q with nan := true } else if q.maxmag.toNat < m.toNat then { q with maxmag := m } else q) q

/-- Row `k` of a tile. -/
def Seqr.tileRow (q : Seqr) (t k : Nat) : List Lane := (List.range 32).map (q.elem t k)

/-- Writes of the sequencer are under way (R389). -/
def State.putDrain (s : State) (writes : List Acc) : State :=
  let q := s.sq
  let (id, s) := s.fresh
  { s with drains := s.drains ++ [Drain.mk id s.seq q.gang q.wg (s.gang q.gang).launch q.mpc writes [] q.inst q.fired] }

/-- `mdrain` (R429). -/
def State.mdrainOp (s : State) (t : BitVec 7) (x : BitVec 5) (qn : Bool) (n : BitVec 4) (conv : BitVec 32) (len : Nat) : Out :=
  let q := s.sq
  s.tileIssue qn n len (convOk conv && q.srcOk x) fun s =>
    let row := q.tileRow t.toNat q.mrow
    let bs := row.flatMap (mtxElem conv)
    let l := q.rowLoc x q.mrow
    if q.misaligned x then s.seqFault Code.align false
    else s.seqCheck (if l.vault then [] else [⟨.engWrite, l.addr.toNat, bs.length, 1⟩]) true fun s =>
      ((s.putDrain (s.seqAccs q.gang l bs)).modSeq (·.capture row)).unitDone len false

def execMdrain (t : BitVec 7) (x : BitVec 5) (qn : Bool) (q : BitVec 4) (s : State) : Out := s.mdrainOp t x qn q 0 1
def execMdrainLong (t : BitVec 7) (x : BitVec 5) (qn : Bool) (q : BitVec 4) (imm : BitVec 32) (s : State) : Out :=
  s.mdrainOp t x qn q imm 2

/-- The parts of unit `k` of a stash at `base` with elements of `w` bytes: plain row k and transposed column k (R393). -/
def stashParts (base : Word) (w k : Nat) (es : List (List Byte)) : List (Word × List Byte) :=
  (base + BitVec.ofNat 64 (32 * w * k), es.flatMap id) ::
    (List.zip (List.range 32) es).map fun e => (base + BitVec.ofNat 64 (1024 * w + 32 * w * e.1 + w * k), e.2)

/-- `mstash` (R393, R429). -/
def State.mstashOp (s : State) (t : BitVec 7) (x : BitVec 5) (qn : Bool) (n : BitVec 4) (conv : BitVec 32) (len : Nat) : Out :=
  let q := s.sq
  s.tileIssue qn n len (convOk conv && decide (16 ≤ x.toNat)) fun s =>
    let base := (q.mdAt (x.toNat - 16)).base
    let row := q.tileRow t.toNat q.mrow
    let parts := stashParts base (fmtBytes (conv.setWidth 8)) q.mrow (row.map (mtxElem conv))
    if base.toNat % 128 ≠ 0 then s.seqFault Code.align false
    else s.seqCheck (parts.map fun p => ⟨.engWrite, p.1.toNat, p.2.length, 1⟩) true fun s =>
      ((s.putDrain (parts.flatMap fun p => s.seqAccs q.gang ⟨false, p.1⟩ p.2)).modSeq (·.capture row)).unitDone len false

def execMstash (t : BitVec 7) (x : BitVec 5) (qn : Bool) (q : BitVec 4) (s : State) : Out := s.mstashOp t x qn q 0 1
def execMstashLong (t : BitVec 7) (x : BitVec 5) (qn : Bool) (q : BitVec 4) (imm : BitVec 32) (s : State) : Out :=
  s.mstashOp t x qn q imm 2

/-- `mmaxr` (R390, R430): earlier drains have read their rows, since units run in order. -/
def execMmaxr (x : BitVec 5) (qn : Bool) (q : BitVec 4) (s : State) : Out :=
  let y := s.sq
  s.tileIssue qn q 1 (decide (16 ≤ x.toNat)) fun s =>
    let base := (y.mdAt (x.toNat - 16)).base
    if base.toNat % 8 ≠ 0 then s.seqFault Code.align false
    else s.seqCheck [⟨.engWrite, base.toNat, 8, 1⟩] true fun s =>
      ((s.putDrain (s.seqAccs y.gang ⟨false, base⟩ (toBytes 8 (y.maxmag.toNat + if y.nan then 2 ^ 32 else 0)))).modSeq fun q =>
        { q with maxmag := 0, nan := false }).tileDone 1

/-- Apply one write of a drain at its home (R389): a failing line or a full overflow region takes no byte, and gives its
code. `fired` lists the watchpoints that the instruction has fired (R335), and `ls` the launch it writes for. -/
def State.drainWrite (s : State) (fired : List Nat) (a : Acc) (ls : List Nat := []) : State × List Nat × Option Code :=
  match a.at_, a.kind with
  | .vault g off, .write bs =>
    if s.badVault.contains (g, off / 128) then (s, fired, some Code.uncorr)
    else ((s.modGang g fun x => { x with vault := Memory.write x.vault off bs }).disturbVault none g off bs.length, fired, none)
  | .phys pa, .write bs => match s.bad.find (lineOf pa) with
    | some c => (s, fired, some c)
    | none => if s.noSlot pa a.expz then (s, fired, some Code.expzFull)
      else let (s, fired) := s.applyStore fired pa bs a.expz none ls; (s, fired, none)
  | _, _ => (s, fired, none)

/-- The watchpoints that a drain's instruction has fired are noted for the instruction's other writes (R335). -/
def State.noteFired (s : State) (d : Drain) (fired : List Nat) : State :=
  { s with
    drains := s.drains.map fun (e : Drain) => if e.seq == d.seq && e.inst == d.inst then { e with fired := fired } else e
    seqs := match s.seqs.find d.seq with
      | some q => if q.inst = d.inst then s.seqs.set d.seq { q with fired := fired } else s.seqs
      | none => s.seqs }

/-- DRAIN_PERFORMED (R389): the bytes of a drain are applied, after those of earlier drains of its sequencer to the same
bytes (R380); what they meet goes to the gang's record. -/
def execDrainPerformed (op : Nat) (s : State) : Out :=
  .next (match s.drains.find? fun d => d.id == op with
    | none => s
    | some d =>
      if s.drains.any fun e => e.seq == d.seq && decide (e.id < d.id) && e.writes.any fun a => d.writes.any fun b => a.spot == b.spot
      then s
      else
        let n := s.fires.length
        let behind := (s.drains.filter fun e => e.seq == d.seq && decide (e.id < d.id)).map (·.id)
        let (s, fired, bad) := d.writes.foldl (fun (x : State × List Nat × Option Code) a =>
          let (s, f, c) := x.1.drainWrite x.2.1 a [d.launch]
          (s, f, match x.2.2 with
            | none => c
            | some b => some b)) (s, d.fired, none)
        let s := (({ s with drains := s.drains.filter fun e => e.id != op }).noteFired d fired).orderFires n behind
        match bad with
        | some c => s.report d.gang { FaultRep.of c d.pc 0 with info := d.pc, imprecise := true }
        | none => s)

/-! ### MK forms (R384, R382, R385, R431, R432) -/

/-- The sequencer arrives at a numbered barrier, behind every drain it has issued (R382, R263). -/
def State.seqArrive (s : State) (n : Nat) : BitVec 32 × State :=
  let q := s.sq
  let (t, s) := s.arrive q.gang q.wg n []
  let s := { s with drains := s.drains.map fun (d : Drain) => if d.seq == s.seq then { d with released := d.released ++ [(n, t)] } else d }
  (t, s.modSeq fun q => { q with tokens := q.tokens.set n t })

/-- `mring` CONFIG (R384, R431). -/
def execMringConfig (n : BitVec 8) (s : State) : Out :=
  let d := s.sq.mdAt n.toNat
  let ns := field d.cfg.toNat 4 0
  s.seqIssue (decide (n.toNat < 16) && decide (1 ≤ ns ∧ ns ≤ 16)) fun s => s.modSeq fun q =>
    { q with rings := q.rings.set n.toNat ⟨Bits.of d.base 23 0, d.stride.toNat, ns, 0, field d.cfg.toNat 11 8, d.cfg.getLsbD 12⟩ }.retire 1

/-- `mring` ADVANCE (R384, R431): earlier reads of the old stage are complete, since instructions run in order. -/
def execMringAdvance (n : BitVec 8) (s : State) : Out :=
  let r := s.sq.ringAt n.toNat
  s.seqIssue (decide (n.toNat < 16) && r.nstage != 0) fun s =>
    let s := s.modSeq fun q => { q with rings := q.rings.set n.toNat { r with head := (r.head + 1) % r.nstage } }
    (if r.freeen then (s.seqArrive r.freeb).2 else s).modSeq (·.retire 1)

/-- Read bytes of virtual memory for `mtqset`, `mfmt` and `mdesc`: their faults have RES 0 (R431). -/
def State.seqRead (s : State) (a : Word) (n align : Nat) (eff : List Byte → State → State) : State :=
  s.seqCheck [⟨.engRead, a.toNat, n, align⟩] false fun s =>
    if s.drainOver ⟨false, a⟩ n then s
    else
      let (b, e) := s.loadPipe.read s.sq.gang ⟨false, a⟩ n
      eff b e.s

/-- Write a tile predicate; writes to `tq0` are ignored (R77). -/
def Seqr.setTq (q : Seqr) (n : Nat) (b : Bool) : Seqr :=
  if n = 0 then q
  else { q with tq := if b then q.tq ||| BitVec.twoPow 16 n else q.tq &&& ~~~BitVec.twoPow 16 n }

/-- `mtqset` (R391, R431): IMM16 has VAL, SRC and the descriptor; its other bits are reserved. -/
def execMtqset (n : BitVec 8) (imm : BitVec 16) (s : State) : Out :=
  s.seqIssue (decide (n.toNat < 16) && decide (imm.toNat < 64)) fun s =>
    if imm.getLsbD 1 then
      s.seqRead (s.sq.mdAt (field imm.toNat 5 2)).base 4 1 fun b s => s.modSeq fun q => (q.setTq n.toNat (fromBytes b != 0)).retire 1
    else s.modSeq fun q => (q.setTq n.toNat (imm.getLsbD 0)).retire 1

/-- `mwait` (R382): it arrives, and holds the sequencer in WAIT until the barrier passes its token; where every wave of the
workgroup has ended it never will (R47). -/
def execMwait (n : BitVec 8) (s : State) : Out :=
  s.seqIssue (decide (n.toNat < 16)) fun s =>
    let q := s.sq
    let go (s : State) (t : BitVec 32) : State :=
      if s.nbDone q.gang q.wg n.toNat t then s.modSeq (·.retire 1)
      else (s.modSeq fun q => { q with status := .wait }).abandon q.gang q.wg
    if q.status = .wait ∧ !q.rearm then go s (q.tokens.get 0 n.toNat)
    else
      let (t, s) := (s.modSeq fun q => { q with rearm := false }).seqArrive n.toNat
      go s t

/-- `marrive` (R382). -/
def execMarrive (n : BitVec 8) (s : State) : Out :=
  s.seqIssue (decide (n.toNat < 16)) fun s => (s.seqArrive n.toNat).2.modSeq (·.retire 1)

/-- The format state of one half of a format block (R385). -/
def MFmt.ofBytes (b : List Byte) : MFmt :=
  ⟨nth 0 b 0, 16 * 2 ^ ((nth 0 b 1).toNat % 4), (nth 0 b 2).getLsbD 0, BitVec.ofNat 64 (fromBytes ((b.drop 8).take 8))⟩

/-- `mfmt` (R385, R386, R431). -/
def State.mfmtOp (s : State) (n : BitVec 8) (off : BitVec 32) (len : Nat) : Out :=
  s.seqIssue (decide (n.toNat < 16)) fun s =>
    s.seqRead ((s.sq.mdAt n.toNat).base + off.signExtend 64) 32 8 fun b s =>
      let x := MFmt.ofBytes (b.take 16)
      let y := MFmt.ofBytes (b.drop 16)
      if mfmtOk x.fmt8 && mfmtOk y.fmt8 then s.modSeq fun q => { q with fmtx := x, fmty := y }.retire len
      else s.seqFault Code.illegal false

def execMfmt (n : BitVec 8) (s : State) : Out := s.mfmtOp n 0 1
def execMfmtLong (n : BitVec 8) (imm : BitVec 32) (s : State) : Out := s.mfmtOp n imm 2

/-- `mend` (R369): the stream ends once every drain it issued is written. -/
def execMend (s : State) : Out :=
  s.seqIssue true fun s =>
    if s.drains.any fun d => d.seq == s.seq then s else s.modSeq fun q => { q with status := .ended }

/-- `mreuse` (R392). -/
def execMreuse (sel : BitVec 3) (s : State) : Out := s.seqIssue true fun s => s.modSeq fun q => { q with reuse := sel }.retire 1

/-- `mnop` (R431). -/
def execMnop (s : State) : Out := s.seqIssue true fun s => s.modSeq (·.retire 1)

/-- `mdesc` (R431): 16 bytes of the argument block. -/
def execMdesc (n : BitVec 8) (imm : BitVec 32) (s : State) : Out :=
  s.seqIssue (decide (n.toNat < 16)) fun s =>
    s.seqRead (s.sq.args + imm.signExtend 64) 16 8 fun b s => s.modSeq fun q =>
      { q with md := q.md.set n.toNat ⟨BitVec.ofNat 64 (fromBytes (b.take 8)), BitVec.ofNat 32 (fromBytes ((b.drop 8).take 4)),
                                        BitVec.ofNat 32 (fromBytes (b.drop 12))⟩ }.retire 2

/-- The target of `mloop` and `mbra` (R431). -/
def Seqr.target (q : Seqr) (off : BitVec 32) : Word := q.here + 4 * off.signExtend 64

/-- `mloop` (R432): a fifth entry is illegal; a trip count of 0 goes on behind the end instruction (R36). That a fault of reading that
instruction's word is one of `mloop` itself is the model's choice (log 88). -/
def execMloop (count : BitVec 16) (off : BitVec 32) (s : State) : Out :=
  s.seqIssue (s.sq.endsClause 2 && decide (s.sq.loop.length < 4)) fun s =>
    let q := s.sq
    let e := q.target off
    if count ≠ 0 then s.modSeq fun q => { q with loop := q.loop ++ [LoopEntry.mk q.nextHeader e (count.setWidth 64)] }.fetchAt q.nextHeader
    else match s.fetchWord q.core q.asid e.toNat with
      | .wait s => s
      | .fault c => s.seqFault c false
      | .ok x s => s.modSeq fun q => q.fetchAt (e + 4 * BitVec.ofNat 64 (opWords x))

/-- `mbra` (R432): a taken branch unwinds LOOP (R39). -/
def execMbra (n : BitVec 8) (inv : Bool) (off : BitVec 32) (s : State) : Out :=
  s.seqIssue (decide (n.toNat < 16) && s.sq.endsClause 2) fun s =>
    let q := s.sq
    let a := q.target off
    if (n == 0 || q.tq.getLsbD n.toNat) != inv then
      s.modSeq fun q => { q with loop := (unwindLoop a q.loop.reverse).reverse }.fetchAt a
    else s.modSeq (·.retire 2)

end Sys2Proof.Machine
end

