-- ==== Sys2Proof/Machine/Save.lean ====
section
/-!
DEFINITION. Stopping and saving a gang (22_traps_preemption.md, R466 to R469; R167, R168, R394, R439, R497). Restoring it stands
with the dispatcher.
-/
namespace Sys2Proof.Machine

/-! ### Stopping the waves (R466, step 1) -/

/-- Stop wave `k` at an instruction boundary, to be saved whole; a wave inside an instruction that completes does not stop
yet (R159, R351). -/
def State.stopWave (s : State) (k : Nat) : State :=
  if (s.waveAt k).status ≠ .live ∨ s.midInstr k ∨ s.unfinished k then s
  else
    let s := s.withdraw k
    s.setWaveAt k { s.waveAt k with status := .saved, saveMap := none }

/-- SAVE_BUDGET_EXPIRE (R466): from the deadline on, every wave that still runs stops. -/
def execSaveBudgetExpire (gang : Nat) (s : State) : Out :=
  let g := s.gang gang
  .next (if g.status == .saving && (match g.saveAt with
      | some t => decide (t ≤ s.clock g.die)
      | none => false) then (s.liveOf gang).foldl (fun (s : State) w => s.stopWave w.1) s
    else s)

/-! ### Quiet (R466, steps 2 to 4) -/

/-- Stop sequencer `k` (R394): an arrival at a barrier that has not passed is withdrawn, and a wait that is over completes
(R159). One whose arrival an earlier save withdrew, and that has not arrived again, has none to withdraw. -/
def State.stopSequencer (s : State) (k : Nat) : State :=
  match s.seqs.find k with
  | none => s
  | some q =>
    let rest (q : Seqr) : Seqr := { q with
      status := .saved, before := q.status, phase := .fetch, words := [], holdx := none, holdy := none, holdg := none, work := [] }
    match q.status with
    | .run => { s with seqs := s.seqs.set k (rest q) }
    | .fault => { s with seqs := s.seqs.set k (rest q) }
    | .wait =>
      if q.rearm then { s with seqs := s.seqs.set k (rest q) }
      else
        let n := field q.word.toNat 23 16
        let t := q.tokens.get 0 n
        if (s.nbar q.gang q.wg n).passed t then { s with seqs := s.seqs.set k (rest (q.retire 1)) }
        else
          let s := s.withdrawNb q.gang q.wg n t
          { s with seqs := s.seqs.set k (rest { q with rearm := true }) }
    | _ => s

/-- Sequencers of a gang that have still to stop. -/
def State.seqsOpen (s : State) (g : Nat) : List Nat :=
  (s.seqs.filter fun q => q.2.gang == g && (q.2.status == .run || q.2.status == .wait || q.2.status == .fault)).map (·.1)

/-- A copy that has been accepted and is not waiting for a holding slot that is still to be parked (R439). -/
def State.copying (s : State) (c : Cmd) : Bool := c.eng == engCopy && !(c.status == .queued && (match c.op with
  | .drain .. => true
  | _ => false) && !s.copyCan c)

/-- Everything of a gang but what runs on is complete (R466, step 4): loads have filled, stores are acknowledged, drains are
written, commands are over. What runs on, or is parked, does so for a wave that is saved: an ended wave's tracker entries have drained
(R467, R468). -/
def State.quiet (s : State) (g : Nat) : Bool :=
  let kept (k : Nat) : Bool := (s.waveAt k).status == .saved
  s.ops.all (fun o => o.gang != g || (o.isParked && kept o.wave)) && !s.drains.any (fun d => d.gang == g) &&
    s.cmds.all fun c => c.gang != g || (c.runsOn && kept c.wave) || (c.eng == engCopy && !s.copying c)

/-! ### Writing the image (R466, steps 5 and 6; R168) -/

/-- Registers of wave `k` that an operation or a command that runs on will fill: they are saved empty (R467). -/
def State.pendingS (s : State) (k : Nat) : List Nat :=
  (s.cmds.filterMap fun c => if c.wave == k then c.dreg else none) ++ s.ops.filterMap fun o => match o.fill with
    | .scalar d _ _ => if o.wave == k then some d else none
    | _ => none
def State.pendingV (s : State) (k : Nat) : List Nat :=
  s.ops.flatMap fun o => match o.fill with
    | .vector regs _ => if o.wave == k then regs.map (·.2) else []
    | _ => []

/-- Registers that a saved wave keeps (R168): those that its `phint` named; the others read zero and are full, but for those
that are still to be filled. -/
def State.keepNamed (s : State) (k : Nat) (w : Wave) : Wave :=
  match w.saveMap with
  | none => w
  | some (sm, vm) => { w with
      s := w.s.filter (fun r => sm.getLsbD (r.1 / 8) || (s.pendingS k).contains r.1)
      v := w.v.filter (fun r => vm.getLsbD (r.1 / 8) || (s.pendingV k).contains r.1) }

/-- Vault bytes within one of the ranges kept (R168); ranges wrap at the allocation's size. -/
def keepRanges (size : Nat) (rs : List (Nat × Nat)) (m : List Host.Cell) : List Host.Cell :=
  m.filter fun c => rs.any fun r => decide ((c.1 + size - r.1 % size) % size < r.2)

/-- Where a stopped wave goes on after the restore (R63, R468). -/
def Wave.rest (w : Wave) : Wave :=
  if w.phase = .fetch then w else { w with phase := .fetch, resume := .kept w.nextIdx w.hwait }

/-- A wave of a saved gang: one that has ended gives up its slot. -/
def State.saveWave (s : State) (k : Nat) : State :=
  let w := s.waveAt k
  match w.status with
  | .saved => s.setWaveAt k (s.keepNamed k w.rest)
  | _ => s.setWaveAt k { w with status := .gone }

/-- A saved gang holds no quad: its parked slots and the copy commands that wait for them are on none. -/
def State.offQuad (s : State) (g : Nat) : State := { s with
  slots := s.slots.map fun (x : Slot) => if x.gang == g then { x with quad := 144 } else x
  cmds := s.cmds.map fun (c : Cmd) => if c.gang == g && c.eng == engCopy then { c with unit := 144, tracker := false } else c }

/-- Write a gang's image, free what the image does not need, and free the quad. -/
def State.saveGang (s : State) (x : Saved) : State :=
  let g := x.gang
  let s := (s.wavesOf g).foldl (fun (s : State) w => s.saveWave w.1) s
  let whole := s.savedWhole g
  let s := (s.modGang g fun y => { y with
    status := .saved, saveAt := none, vault := if whole then y.vault else keepRanges y.vaultSize y.phintRanges y.vault }).offQuad g
  let units := ((s.imageBytes g 0 x.unit).length + 65535) / 65536
  let s := s.markUnits (x.first + units) (x.units - units) false
  let x := { x with units := units }
  let s := { s with saved := s.saved.map fun (y : Saved) => if y.gang == g then x else y }
  (s.writeImage x).requeue g

/-- The waves, copies and sequencers of a gang have stopped, and everything of it is quiet (R466, steps 1 to 4). -/
def State.stopped (s : State) (g : Nat) : Bool :=
  (s.gang g).status == .saving && !s.canRetire g && !s.waves.any (fun w => w.2.gang == g && w.2.status == .live) &&
    !s.cmds.any (fun c => c.gang == g && s.copying c) && (s.seqsOpen g).isEmpty && s.quiet g

/-- SAVE_WRITE (R466): once the waves have stopped and the copies are over the sequencers stop; once everything is quiet the
image is written. A gang that can retire does so instead. The gangs of a unit are saved as if they were one (R34): none before all of those
that are to be saved are quiet. -/
def execSaveWrite (gang : Nat) (s : State) : Out :=
  .next (if (s.gang gang).status ≠ .saving ∨ s.canRetire gang then s
    else if s.waves.any (fun w => w.2.gang == gang && w.2.status == .live) || s.cmds.any (fun c => c.gang == gang && s.copying c) then s
    else if !(s.seqsOpen gang).isEmpty then (s.seqsOpen gang).foldl (fun (s : State) k => s.stopSequencer k) s
    else
      let gs := (s.unitOf gang).filter fun g => (s.gang g).status == .saving
      if !gs.all s.stopped then s
      else (gs.filterMap fun g => s.saved.find? fun x => x.gang == g).foldl (fun (s : State) x => s.saveGang x) s)

end Sys2Proof.Machine
end

