-- ==== Sys2Proof/Machine/Superstep.lean ====
section
/-!
DEFINITION. The device as target, source and root of the fabric protocol (19_fabric_superstep.md): the Range Permission
Table, staging and acknowledgement, remote reads, the step boundary, conflict rules and arrival words (R402 to R405,
R408 to R422).
-/
namespace Sys2Proof.Machine

/-! ### The Range Permission Table (R402, R403) -/

/-- Fields of a table entry. -/
def rptWord (e : RptEntry) (i : Nat) : Word := nth 0 e i
def rptValid (e : RptEntry) : Bool := (rptWord e 0).getLsbD 63
def rptRule (e : RptEntry) : Nat := Bits.of (rptWord e 0) 62 60
def rptW (e : RptEntry) : Bool := (rptWord e 0).getLsbD 59
def rptR (e : RptEntry) : Bool := (rptWord e 0).getLsbD 58
def rptBase (e : RptEntry) : Nat := Bits.of (rptWord e 0) 51 6
def rptLimit (e : RptEntry) : Nat := Bits.of (rptWord e 1) 51 6
def rptMatch (e : RptEntry) : Nat := Bits.of (rptWord e 2) 15 0
def rptMask (e : RptEntry) : Nat := Bits.of (rptWord e 2) 31 16

/-- The entry that a piece from `src` to a physical address takes: the lowest-numbered that matches. -/
def State.rptFor (s : State) (src : BitVec 16) (pa : Nat) : Option RptEntry :=
  (s.rpt.find? fun e => rptValid e.2 && rptRule e.2 != 7 && decide (rptBase e.2 ≤ pa / 64 ∧ pa / 64 ≤ rptLimit e.2) &&
    (src.toNat &&& rptMask e.2) == (rptMatch e.2 &&& rptMask e.2)).map (·.2)

/-- Bytes of the element that a rule combines (R420). -/
def ruleSize (rule : Nat) : Nat := match rule with
  | 1 => 8
  | 2 => 4
  | 3 => 8
  | 4 => 8
  | 5 => 8
  | _ => 1

/-- A write covers whole, aligned elements of a rule. -/
def wholeElements (rule : Nat) (bytes : List (Nat × Byte)) : Bool :=
  let n := ruleSize rule
  bytes.all fun b => (List.range n).all fun i => bytes.any fun c => c.1 == b.1 / n * n + i

/-- A physical address lies in a region that no remote piece may touch: the Cocoon, the spill region, the conflict log,
the EXPZ size table and its overflow region. -/
def State.forbidden (s : State) (pa : Nat) : Bool :=
  let inside (base len : Nat) : Bool := decide (base ≤ pa ∧ pa < base + len)
  (match s.pod with
    | some p => inside p.cocoon (2 * p.bank * 2 ^ 30) || inside p.spill p.spillsz || inside p.clog (16 * p.clogsz)
    | none => false) ||
  inside s.hr.expztab.toNat (s.hr.expztop.toNat / 256) || inside s.hr.ovfbase.toNat (128 * s.hr.ovfslots.toNat)

/-- A source is a member of the device's pod, and the device takes part in it. -/
def State.knows (s : State) (src : BitVec 16) : Bool := s.isMember src

/-- The rule under which a write piece is staged; none where it is denied. -/
def State.writeRule (s : State) (p : Piece) : Option Nat :=
  if !s.knows p.src || p.bytes.any fun b => s.forbidden b.1 then none
  else match s.rptFor p.src p.pa with
    | none => none
    | some e => if rptW e && wholeElements (rptRule e) p.bytes then some (rptRule e) else none

/-! ### Staging (R404, R410, R418) -/

/-- The key under which the target counts the pieces of a source and a step. -/
def recvKey (src : BitVec 16) (step : Word) : Nat := src.toNat + 2 ^ 16 * step.toNat

/-- The outcome of a step is known here. -/
def State.hasOutcome (s : State) (n : Word) : Bool := s.step.outcomes.any fun o => o.1 == n

/-- Answer a piece. -/
def State.ackPiece (s : State) (p : Piece) (denied : Bool) : State :=
  { s with netOut := s.netOut ++ [Packet.pieceAck p.src p.step p.seqNo denied] }

/-- The number that is next from a source in a step. -/
def State.nextNo (s : State) (p : Piece) : Nat := s.recvNo.get 0 (recvKey p.src p.step) + 1

/-- The slot of its step's bank that a piece gets, the lowest free one (R410). A piece beyond the source's allowance, which was spilled, gets
none: R410 gives a bank no room for it, and that the target holds it until the apply is over is the model's choice (R411, R412; log 118). -/
def State.slotOf (s : State) (p : Piece) : Option Nat :=
  if s.pod.any fun q => decide (p.seqNo ≤ q.allow) then some (lowestFree ((s.staged.filter fun g => g.piece.step == p.step).filterMap (·.slot)))
  else none

/-- Stage a piece, in its slot of the bank if it has one. -/
def State.stage (s : State) (p : Piece) (rule : Nat) : State :=
  let slot := s.slotOf p
  let bank := match s.pod with
    | some q => q.cocoon + p.step.toNat % 2 * (q.bank * 2 ^ 30)
    | none => 0
  let s := match slot with
    | some n => s.hbmWrite (bank + 128 * n) (slotBytes p 0 0)
    | none => s
  { s with staged := s.staged ++ [⟨p, rule, slot⟩] }

/-! ### Conflict rules (R420) -/

/-- A value under a rule other than OVERWRITE and EXCLUSIVE. -/
def combine (rule : Nat) (old x : Nat) : Nat :=
  match rule with
  | 1 => (old + x) % 2 ^ 64
  | 2 => (f32add (BitVec.ofNat 32 old) (BitVec.ofNat 32 x)).toNat
  | 3 => wrap 64 (min (signed 64 old) (signed 64 x))
  | 4 => wrap 64 (max (signed 64 old) (signed 64 x))
  | 5 => old ||| x
  | _ => x

/-- The bytes that differ from memory once pieces are applied, in the order given: ascending source, then source order. -/
abbrev Overlay := Map Byte

/-- A byte under an overlay. -/
def overByte (m : List Host.Cell) (o : Overlay) (a : Nat) : Byte := (o.find a).getD (Memory.get m a)

/-- Apply one staged piece to an overlay. -/
def overPiece (m : List Host.Cell) (drop : List Nat) (o : Overlay) (g : Staged) : Overlay :=
  let n := ruleSize g.rule
  if n = 1 then
    g.piece.bytes.foldl (fun (o : Overlay) b => if g.rule = 6 ∧ drop.contains b.1 then o else o.set b.1 b.2) o
  else
    (dedup (g.piece.bytes.map fun b => b.1 / n)).foldl (fun (o : Overlay) e =>
      let as := upto (n * e) n
      let old := fromBytes (as.map (overByte m o))
      let x := fromBytes (as.map fun a => ((g.piece.bytes.find? fun b => b.1 == a).map (·.2)).getD 0)
      (List.zip as (toBytes n (combine g.rule old x))).foldl (fun (o : Overlay) b => o.set b.1 b.2) o) o

/-- Bytes of EXCLUSIVE ranges that two or more sources wrote. -/
def conflicts (gs : List Staged) : List Nat :=
  let ex := gs.filter fun g => g.rule == 6
  dedup (ex.flatMap fun g => (g.piece.bytes.map (·.1)).filter fun a =>
    ex.any fun h => h.piece.src != g.piece.src && h.piece.bytes.any fun b => b.1 == a)

/-- Staged pieces in the order in which they are applied. -/
def inOrder (gs : List Staged) : List Staged :=
  sortBy gs fun a b => decide (a.piece.src.toNat < b.piece.src.toNat) ||
    (a.piece.src == b.piece.src && decide (a.piece.seqNo ≤ b.piece.seqNo))

/-! ### Remote reads at the target (R405) -/

/-- A read can be served: every step before its own is applied, and its party's earlier pieces are in. -/
def State.canServe (s : State) (r : ReadReq) : Bool :=
  !s.knows r.src ||
    (decide (r.step.toNat ≤ s.step.applied.toNat) && (match s.step.applying with
      | none => true
      | some n => decide (r.step.toNat ≤ n.toNat)) && (r.rlx || decide (r.after ≤ s.recvNo.get 0 (recvKey r.src r.step))))

/-- A read piece is allowed (R403). -/
def State.readAllowed (s : State) (r : ReadReq) : Bool :=
  s.knows r.src && !(upto r.pa r.len).any s.forbidden && (match s.rptFor r.src r.pa with
    | some e => rptR e
    | none => false)

/-- The elements of a committed step have gone to their home slices. -/
def State.isApplied (s : State) (n : Word) : Bool :=
  s.step.outcomes.any (fun o => o.1 == n && o.2.1 == .commit) || (s.step.written && s.step.applying == some n)

/-- The reader's own pieces that memory does not hold yet: those that are staged, and the spilled ones that came with the request and are
not staged yet, each once, but for those that its party issued after it. Once the step is applied, or has another outcome, there are none. -/
def State.ownPieces (s : State) (r : ReadReq) : List Staged :=
  if s.hasOutcome r.step || s.isApplied r.step then []
  else
    let mine := s.staged.filter fun g => g.piece.src == r.src && g.piece.step == r.step
    let coming := r.spilled.filter fun p => decide (s.recvNo.get 0 (recvKey r.src r.step) < p.seqNo)
    let spilled := coming.filterMap fun p => (s.writeRule p).map fun k => (⟨p, k, none⟩ : Staged)
    (mine ++ spilled).filter fun g => g.piece.party != r.party || decide (g.piece.seqNo ≤ r.last)

/-- Serve a read that was checked when it arrived: committed state with the reader's own pieces over it. -/
def State.serve (s : State) (r : ReadReq) (ok : Bool) : State :=
  if !ok then { s with netOut := s.netOut ++ [Packet.readReply r.src r.id (copies r.len 0) true] }
  else
    let s := s.cleanOver r.pa r.len
    let o := (inOrder (s.ownPieces r)).foldl (overPiece s.mem []) []
    { s with netOut := s.netOut ++ [Packet.readReply r.src r.id ((upto r.pa r.len).map (overByte s.mem o)) false] }

/-- Serve the reads that were held and can be served now. -/
def State.serveHeld (s : State) : State :=
  let rs := s.waitReads
  rs.foldl (fun (s : State) r => if s.canServe r.1 then s.serve r.1 r.2 else { s with waitReads := s.waitReads ++ [r] }) { s with waitReads := [] }

/-- REMOTE_READ_REQUEST: a request that comes again, with more spilled pieces, takes the place of the one that is held. -/
def execRemoteReadRequest (req : ReadReq) (s : State) : Out :=
  .next (if req.dst ≠ s.devid then s
    else if s.canServe req then s.serve req (s.readAllowed req)
    else { s with waitReads := (s.waitReads.filter fun r => r.1.id != req.id || r.1.src != req.src) ++ [(req, s.readAllowed req)] })

/-! ### At the source (R401, R412, R417, R418) -/

/-- A denied piece: a bulk write counts the pieces staged or spilled (R443). -/
def Cmd.nack (c : Cmd) : Cmd := match c.op with
  | .bulkWrite _ => { c with denied := true, word := c.word - 2 ^ 16 }
  | _ => { c with denied := true }

/-- A piece is no longer outstanding at the operation or command it belongs to. -/
def State.settlePiece (s : State) (r : Sent) (denied : Bool) : State :=
  let key := (r.piece.dst, r.piece.seqNo)
  { s with
    ops := s.ops.map fun (o : MemOp) => if some o.id == r.op && o.pieces.contains key then
      { o with pieces := o.pieces.filter (· != key), denied := o.denied || denied } else o
    cmds := s.cmds.map fun (c : Cmd) => if some c.id == r.cmd && (c.pieces.contains key || (denied && r.col)) then
      (if denied then { c with pieces := c.pieces.filter (· != key) }.nack else { c with pieces := c.pieces.filter (· != key) }) else c }

/-- A spilled piece of a wave was denied in the apply phase: an imprecise fault (R412); one of a collective program is
reported in its completion word only. -/
def State.spillDenied (s : State) (r : Sent) : State :=
  if r.col then s else s.impFault r.wave r.waveid r.gang Code.fabDenied r.pc

/-- PIECE_ACK: an acknowledgement, or a negative one, reaches the source. -/
def execPieceAck (dst : BitVec 16) (step : BitVec 64) (seqNo : Nat) (denied : Bool) (s : State) : Out :=
  .next (match s.sent.find? fun r => r.piece.dst == dst && r.piece.step == step && r.piece.seqNo == seqNo && !r.acked with
    | none => s
    | some r =>
      let s := { s with sent := s.sent.filter fun q => q != r }
      let s := s.settlePiece r denied
      if denied && r.spilled then s.spillDenied r else s)

/-- PIECE_RETRANSMIT (R418): the timer of an unacknowledged piece has run out. -/
def execPieceRetransmit (dst : BitVec 16) (step : BitVec 64) (seqNo : Nat) (s : State) : Out :=
  .next (match s.pod, s.sent.find? fun r => r.piece.dst == dst && r.piece.step == step && r.piece.seqNo == seqNo && !r.acked with
    | some p, some r =>
      if s.clock 0 < r.deadline then s
      else { s with
        netOut := s.netOut ++ [Packet.piece r.piece]
        sent := s.sent.map fun (q : Sent) => if q == r then { q with deadline := s.clock 0 + s.usec p.retx } else q }
    | _, _ => s)

/-- REMOTE_READ_REPLY: the bytes reach the operation or command that asked; denied ones are zero (R401, R444). -/
def execRemoteReadReply (req : Nat) (data : List (BitVec 8)) (denied : Bool) (s : State) : Out :=
  .next (match s.reads.find? fun r => r.1.id == req with
    | none => s
    | some (q, off) =>
      let bs := if denied then copies q.len 0 else (data ++ copies q.len 0).take q.len
      let byte (pa : Nat) : Byte := nth 0 bs (pa - q.pa)
      { s with
        reads := s.reads.filter fun r => r.1.id != req
        ops := s.ops.map fun (o : MemOp) => if o.reads.contains req then
          { off.foldl (fun (o : MemOp) b => o.give b.2 [byte b.1]) o with reads := o.reads.filter (· != req), denied := o.denied || denied } else o
        cmds := s.cmds.map fun (c : Cmd) => if c.eng == engFab && c.pieces.contains (0, req) then
          { c with pieces := c.pieces.filter (· != (0, req)), data := off.foldl (fun (l : List Byte) b => l.set b.2 (byte b.1)) c.data, denied := c.denied || denied } else c })

/-! ### The member's side of a step (R408, R409, R411, R414) -/

/-- The resident launch of scope `.pod`, if there is one. -/
def State.podWaves (s : State) : List Wave :=
  (s.waves.filter fun w => (w.2.status == .live || w.2.status == .saved) && (s.gang w.2.gang).placedNow && (s.launch (s.gang w.2.gang).launch).kernel.bscope == 6).map (·.2)

/-- A wave has arrived for step `n`: by `step.arrive`, or by a `bar.pod` it waits at and whose end has not been given (R453). -/
def Wave.arrivedFor (w : Wave) (n : Word) : Bool :=
  (match w.stepArr with
    | some (c, _) => c == some n
    | none => false) ||
  (match w.waiting with
    | some (.step m true none) => m == n
    | _ => false)

/-- The device's participants have arrived for the current step, and whether it has any (R408, R374). -/
def State.partsArrived (s : State) (p : Pod) : Bool × Bool :=
  let n := s.step.stepno
  if p.part = 0 then (s.step.colArrived, true)
  else
    let ws := s.podWaves
    if ws.isEmpty then (s.step.openFor.contains n, false) else (ws.all fun w => w.arrivedFor n, true)

/-- Every piece that the device sent in a step has been answered or spilled. -/
def State.allAcked (s : State) (n : Word) : Bool := s.sent.all fun r => r.piece.step != n || r.acked

/-- A target of an unanswered piece has had no route for longer than STEPTO. -/
def State.lostTarget (s : State) (p : Pod) : Bool :=
  s.sent.any fun r => !r.acked && match s.noRoute.find r.piece.dst.toNat with
    | some t => decide (t + s.usec p.stepto < s.clock 0)
    | none => false

/-- The device enters the next step: numbers and allowances begin again (R404, R411). -/
def State.nextStep (s : State) : State :=
  { s with seqNos := [], allowance := [], step := { s.step with
      stepno := s.step.stepno + 1, colArrived := false, openFor := s.step.openFor.filter fun n => decide (s.step.stepno.toNat < n.toNat) } }

/-- STEP_ARRIVED_SEND (R414): ARRIVED goes to the root, with how many pieces of the step the device has sent to each target (log 97), or LOST
where a target cannot be reached. -/
def execStepArrivedSend (s : State) : Out :=
  .next (match s.pod with
    | none => s
    | some p =>
      let n := s.step.stepno
      let (arr, part) := s.partsArrived p
      if s.step.left || s.step.reported.isSome || s.step.applying.isSome || !arr then s
      else if s.allAcked n then
        let s := { s with netOut := s.netOut ++ [Packet.arrived n part s.seqNos] }
        ({ s with step := { s.step with reported := some n } }).nextStep
      else if s.lostTarget p then { s with netOut := s.netOut ++ [Packet.lost n] }
      else s)

/-- NO_ROUTE_TIMEOUT (R423): no route to a member for longer than STEPTO. -/
def execNoRouteTimeout (dst : BitVec 16) (s : State) : Out :=
  .next (match s.pod, s.noRoute.find dst.toNat with
    | some p, some t =>
      if t + s.usec p.stepto < s.clock 0 ∧ !s.step.left then
        { s with netOut := s.netOut ++ [Packet.lost s.step.stepno] }
      else s
    | _, _ => s)

/-- STEP_OPEN_RECEIVE (R408): the root sends it once, and it may overtake the outcome of the step before, and the OPEN of that step. -/
def execStepOpenReceive (step : BitVec 64) (s : State) : Out :=
  .next (if s.pod.isSome ∧ s.step.stepno.toNat ≤ step.toNat then { s with step := { s.step with openFor := s.step.openFor.filter (· != step) ++ [step] } } else s)

/-- A launch's STEP_ABORT, or the step's end without one (R417). -/
def State.stepPcs (s : State) (abort : Bool) : State :=
  { s with launches := s.launches.update fun _ (l : Launch) => match l.stepPc with
    | none => l
    | some (pc, id) =>
      let l := { l with stepPc := none }
      if abort && l.status == .ready then
        { l with nfault := l.nfault + 1, first := if l.first.isNone then some ⟨Code.stepAbort, pc, id⟩ else l.first }
      else l }

/-- Acknowledge an outcome to the root (R415). -/
def State.ackOutcome (s : State) (n : Word) : State := { s with netOut := s.netOut ++ [Packet.outcomeAck n] }

/-- STEP_COMMIT (R416): the apply phase begins, and the step's spilled pieces travel (R412). With it comes how many pieces each source has sent
this device in the step, as their ARRIVED told the root (log 97). -/
def execStepCommit (msg : Commit) (s : State) : Out :=
  let step := msg.step
  .next (match s.pod with
    | none => s
    | some p =>
      if s.step.left then s
      else if s.hasOutcome step || s.step.applying == some step then s.ackOutcome step
      else if s.step.reported ≠ some step then s
      else
        let out := s.sent.filter fun r => r.spilled && r.piece.step == step
        let s := { s with
          sent := s.sent.map fun (r : Sent) => if r.spilled && r.piece.step == step then
            { r with acked := false, deadline := s.clock 0 + s.usec p.retx } else r
          netOut := s.netOut ++ out.map fun (r : Sent) => Packet.piece r.piece }
        ({ s with step := { s.step with reported := none, applying := some step, written := false, fired := [], due := msg.due, applied := step + 1 } }.sendHeld.stepPcs
          false).ackOutcome step)

/-- Drop what the device holds of a step as source: unanswered pieces of waves are reported (R417). -/
def State.abortSent (s : State) (n : Word) : State :=
  let lost := s.sent.filter fun r => r.piece.step == n
  let s := { s with sent := s.sent.filter fun r => r.piece.step != n }
  let open_ := lost.filter fun r => !r.acked
  let s := open_.foldl (fun (s : State) r => s.settlePiece r false) s
  let first := open_.foldl (fun (l : List Sent) r => if l.any fun q => q.op == r.op && q.cmd == r.cmd then l else l ++ [r]) []
  first.foldl (fun (s : State) r => if r.col then s else s.impFault r.wave r.waveid r.gang Code.stepAbort r.pc) s

/-- The bank of a step is freed. -/
def State.freeBank (s : State) (n : Word) : State :=
  { s with
    staged := s.staged.filter fun g => g.piece.step != n
    early := s.early.filter fun p => p.piece.step != n }

/-- The arrivals that participants made for a step are dropped (R417). -/
def State.dropArrivals (s : State) (n : Word) : State :=
  { s with waves := s.waves.update fun _ (w : Wave) => { w with stepArr := match w.stepArr with
      | some (c, m) => some (if c = some n then none else c, m)
      | none => none } }

/-- STEP_ABORT (R417). -/
def execStepAbort (step : BitVec 64) (s : State) : Out :=
  .next (if s.pod.isNone || s.step.left then s
    else if s.hasOutcome step then s.ackOutcome step
    else if s.step.reported ≠ some step ∧ s.step.stepno ≠ step then s
    else
      let s := ((s.freeBank step).abortSent step).stepPcs true
      let s := if s.step.reported = some step then { s with step := { s.step with reported := none } }.sendHeld
        else (s.dropArrivals step).nextStep
      let s := { s with step := { s.step with applied := step + 1, outcomes := s.step.outcomes ++ [(step, StepOut.abort, false)] } }
      ((s.raise evStepAbort).ackOutcome step).serveHeld)

/-! ### The apply (R416, R420 to R422) -/

/-- Apply the overlay's bytes of one 8-byte word at its home slice, as a store; in a failing line they are parked under service while there is
room, and else the line is marked and recorded as for a flush (R228, R416, R465). -/
def State.applyWord (s : State) (fired : List Nat) (word : Nat) (bs : List (Nat × Byte)) : State × List Nat :=
  match s.bad.find (lineOf word) with
  | some _ =>
    if s.hr.service ≠ 0 ∧ s.parkedAt word < 64 then ({ s with applyQ := s.applyQ ++ [(s.tick, word, bs)] }.raise evFaultq, fired)
    else ({ s with bad := s.bad.set (lineOf word) Code.poison }.memErr (128 * lineOf word), fired)
  | none =>
    let s := s.clean (lineOf word)
    if s.noSlot word (s.isExpz word) then (s, fired)
    else
      let s := s.soil (lineOf word) (s.isExpz word)
      let (s, fired) := ({ s with mem := bs.foldl (fun m (b : Nat × Byte) => Memory.set m b.1 b.2) s.mem }).applied fired word
      (s.disturb none word, fired)

/-- Apply pieces, in order, to memory: one write for the watchpoints (R335). -/
def State.applyPieces (s : State) (drop : List Nat) (gs : List Staged) : State :=
  let s := (dedup (gs.flatMap fun g => g.piece.bytes.map fun b => lineOf b.1)).foldl (fun (s : State) l => s.clean l) s
  let o := gs.foldl (overPiece s.mem drop) []
  let (s, fired) := (dedup (o.map fun b => b.1 / 8)).foldl (fun (x : State × List Nat) w =>
    x.1.applyWord x.2 (8 * w) (o.filter fun b => b.1 / 8 == w)) (s, s.step.fired)
  { s with step := { s.step with fired := fired } }

/-- The bytes of a step that name an arrival entry come to it: added, held for a saved gang, or dropped (R422). -/
def State.arrive422 (s : State) (e n : Nat) : State :=
  let drop : State := { s with hr := { s.hr with arrdrop := s.hr.arrdrop + 1 } }
  if n = 0 then s
  else match s.arrivals.find e with
    | none => drop
    | some a => match (s.gang a.gang).status with
      | .retired => drop
      | .saved => { s with arrivals := s.arrivals.set e { a with held := a.held + BitVec.ofNat 64 n } }
      | _ => s.addArrival a n

/-- Applied bytes of a step that name entry `e`: bytes that EXCLUSIVE dropped do not count. -/
def namedBytes (gs : List Staged) (drop : List Nat) (e : Nat) : Nat :=
  gs.foldl (fun n g => if g.piece.entry.map BitVec.toNat == some e then
    n + (g.piece.bytes.filter fun b => !(g.rule == 6 && drop.contains b.1)).length else n) 0

/-- Write the conflict log, one entry per 64-byte block (R421). -/
def State.logConflicts (s : State) (p : Pod) (n : Word) (gs : List Staged) (drop : List Nat) : State :=
  (dedup (drop.map (· / 64))).foldl (fun (s : State) blk =>
    let srcs := dedup ((gs.filter fun g => g.rule == 6 && g.piece.bytes.any fun b => b.1 / 64 == blk && drop.contains b.1).map fun g => g.piece.src.toNat)
    let s := s.raise evStepConf
    if s.hr.clogn.toNat < p.clogsz then
      let at_ := p.clog + 16 * s.hr.clogn.toNat
      let s := s.physPut at_ (toBytes 8 (64 * blk) ++ toBytes 4 n.toNat ++ toBytes 2 (nth 0 srcs 0) ++ toBytes 2 (nth 0 srcs 1))
      { s with hr := { s.hr with clogn := s.hr.clogn + 1 } }
    else { s with hr := { s.hr with cloglost := s.hr.cloglost + 1 } }) s

/-- The pieces of a step in the order in which they are applied, and the bytes that EXCLUSIVE drops. -/
def State.bankOf (s : State) (n : Word) : List Staged × List Nat :=
  let gs := inOrder (s.staged.filter fun g => g.piece.step == n)
  (gs, conflicts gs)

/-- Add the applied bytes of pieces to the arrival words they name. -/
def State.addNamed (s : State) (drop : List Nat) (gs : List Staged) : State :=
  (dedup (gs.filterMap fun g => g.piece.entry.map BitVec.toNat)).foldl (fun (s : State) e => s.arrive422 e (namedBytes gs drop e)) s

/-- Send the elements of a step to their home slices. -/
def State.applyBank (s : State) (n : Word) : State :=
  let (gs, drop) := s.bankOf n
  let s := s.applyPieces drop gs
  { s with step := { s.step with written := true } }

/-- Every element is performed: the arrival words, the conflict log, and the bank. -/
def State.eclose (s : State) (p : Pod) (n : Word) : State :=
  let (gs, drop) := s.bankOf n
  ((s.addNamed drop gs).logConflicts p n gs drop).freeBank n

/-- Every piece of a step that a source has sent this device is in (R412; log 97). -/
def State.allCome (s : State) (n : Word) : Bool :=
  s.step.due.all fun d => decide (d.2 ≤ s.recvNo.get 0 (recvKey (BitVec.ofNat 16 d.1) n))

/-- STEP_APPLY_COMPLETE: the pieces of the step are applied once they are all in, spilled ones included; once every element is performed, none
of them parked any more, the waits for the step end. How the device learns how many pieces are still to come the manual does not say
(log 97). -/
def execStepApplyComplete (s : State) : Out :=
  .next (match s.pod, s.step.applying with
    | some p, some n =>
      if !s.allAcked n || !s.allCome n then s
      else
        let s := if s.step.written then s else s.applyBank n
        if !s.applyQ.isEmpty then s
        else
          let conflict := !(s.bankOf n).2.isEmpty
          let s := s.eclose p n
          ({ s with step := { s.step with
              applying := none, written := false, fired := [], due := [], outcomes := s.step.outcomes ++ [(n, StepOut.commit, conflict)] } }).serveHeld
    | _, _ => s)

/-! ### Arrival of pieces (R403, R404, R412, R418) -/

/-- Take a piece that is next in its source order: stage it, or deny it. -/
def State.takePiece (s : State) (e : Early) : State :=
  let p := e.piece
  let key := recvKey p.src p.step
  let s := { s with recvNo := s.recvNo.set key p.seqNo }
  match e.rule with
  | none => { s with refused := s.refused ++ [(key, p.seqNo)] }.ackPiece p true
  | some r => (s.stage p r).ackPiece p false

/-- Take the pieces that have come and are in order. -/
def State.takeEarly : (fuel : Nat) → State → State
  | 0, s => s
  | n + 1, s => match s.early.find? fun e => s.nextNo e.piece == e.piece.seqNo with
    | none => s
    | some e => State.takeEarly n (({ s with early := s.early.filter fun q => q != e }).takePiece e)

/-- PIECE_ARRIVE (R403, R404, R418): a piece is checked when it arrives, and staged in source order; one that was taken before is
answered again and not staged twice; one of an aborted step is discarded, and so is one that its source has not counted (log 97). -/
def execPieceArrive (piece : Piece) (s : State) : Out :=
  let aborted := s.step.outcomes.any fun o => o.1 == piece.step && o.2.1 == .abort
  .next (if piece.dst ≠ s.devid then s
    else if !s.knows piece.src then s.ackPiece piece true
    else if aborted then s
    else if piece.seqNo < s.nextNo piece then s.ackPiece piece (s.refused.contains (recvKey piece.src piece.step, piece.seqNo))
    else if s.isApplied piece.step then s
    else if s.early.any fun e => e.piece.src == piece.src && e.piece.step == piece.step && e.piece.seqNo == piece.seqNo then s
    else
      let s := { s with early := s.early ++ [Early.mk piece (s.writeRule piece)] }
      (s.takeEarly s.early.length).serveHeld)

/-! ### The root (R408, R415) -/

/-- What the root holds for a step. -/
def State.rootFor (s : State) (n : Word) : RootStep :=
  (s.root.find? fun r => r.step == n).getD ⟨n, [], [], false, none, false, none, []⟩

/-- Keep what the root holds for a step. -/
def State.putRoot (s : State) (r : RootStep) : State := { s with root := (s.root.filter fun x => x.step != r.step) ++ [r] }

/-- The device is the root of its pod. -/
def State.rootPod (s : State) : Option Pod := match s.pod with
  | some p => if p.root = s.devid then some p else none
  | none => none

/-- How many pieces of a step each source has sent a device, as their ARRIVED said (log 97). -/
def RootStep.due (r : RootStep) (dev : BitVec 16) : List (Nat × Nat) :=
  (r.counts.map fun c => (c.1.toNat, (c.2.find? fun x => x.1 == dev.toNat).elim 0 (·.2))).filter fun x => x.2 != 0

/-- The outcome of a step as a member hears of it. -/
def RootStep.tell (r : RootStep) (out : StepOut) (dev : BitVec 16) : Packet := .outcome dev r.step out (if out = .commit then r.due dev else [])

/-- Decide a step and tell every member. -/
def State.decideStep (s : State) (p : Pod) (r : RootStep) (out : StepOut) : State :=
  (s.putRoot { r with outcome := some out }) |> fun s => { s with netOut := s.netOut ++ p.members.map (r.tell out) }

/-- STEP_ARRIVED_RECEIVE: the first ARRIVED that reports a participant opens the step, the last one commits it. With it comes how many
pieces the device has sent each target (log 97). -/
def execStepArrivedReceive (dev : BitVec 16) (step : BitVec 64) (msg : Arrived) (s : State) : Out :=
  .next (match s.rootPod with
    | none => s
    | some p =>
      let r := s.rootFor step
      if !p.members.contains dev || r.outcome.isSome || r.arrived.contains dev then s
      else
        let r := { r with arrived := r.arrived ++ [dev], counts := r.counts ++ [(dev, msg.sent)], since := match r.since with
          | none => some (s.clock 0)
          | some t => some t }
        let s := if msg.part && !r.opened then { s with netOut := s.netOut ++ p.members.map fun d => Packet.openStep d step } else s
        let r := { r with opened := r.opened || msg.part }
        if p.members.all r.arrived.contains then s.decideStep p r .commit else s.putRoot r)

/-- STEP_LOST_RECEIVE. -/
def execStepLostReceive (dev : BitVec 16) (step : BitVec 64) (s : State) : Out :=
  .next (match s.rootPod with
    | none => s
    | some p =>
      let r := s.rootFor step
      if !p.members.contains dev || r.outcome.isSome then s else s.decideStep p { r with lost := true } .abort)

/-- STEP_TIMEOUT: STEPTO has elapsed since the first ARRIVED while some member has not arrived. -/
def execStepTimeout (s : State) : Out :=
  .next (match s.rootPod with
    | none => s
    | some p => match s.root.find? fun r => r.outcome.isNone && (match r.since with
        | some t => decide (t + s.usec p.stepto ≤ s.clock 0)
        | none => false) with
      | some r => s.decideStep p r .abort
      | none => s)

/-- STEP_OUTCOME_ACK: once every member has acknowledged, the root forgets the step. -/
def execStepOutcomeAck (dev : BitVec 16) (step : BitVec 64) (s : State) : Out :=
  .next (match s.rootPod, s.root.find? fun r => r.step == step && r.outcome.isSome with
    | some p, some r =>
      let r := if p.members.contains dev && !r.acks.contains dev then { r with acks := r.acks ++ [dev] } else r
      if p.members.all r.acks.contains then { s with root := s.root.filter fun x => x.step != step } else s.putRoot r
    | _, _ => s)

/-- STEP_OUTCOME_RESEND: the root repeats an outcome to the members that have not acknowledged it. -/
def execStepOutcomeResend (step : BitVec 64) (s : State) : Out :=
  .next (match s.rootPod, s.root.find? fun r => r.step == step with
    | some p, some r => match r.outcome with
      | some out => { s with netOut := s.netOut ++ (p.members.filter fun d => !r.acks.contains d).map (r.tell out) }
      | none => s
    | _, _ => s)

end Sys2Proof.Machine
end

