-- ==== Sys2Proof/Machine/Host.lean ====
section
/-!
DEFINITION. What the host does to the device (24_host_power_bringup.md): the BAR0 windows (R482 to R491, R496 to R498),
command chains (R324 to R326, R331, R490), launch packets and the report ring (R337, R338), forming and dissolving a pod
(R406, R407, R453), invalidation (R240), line repair and service (R465), and reset (R492).
-/
namespace Sys2Proof.Machine

/-! ### Waking (R493) -/

/-- The device serves work: it is not in L2 or L3 and no thermal hold lasts. -/
def State.awake (s : State) : Bool := !s.thold && (s.power == .l0 || s.power == .l1)

/-! ### Chains (R490) -/

/-- A chain block before the host wrote it. -/
def Chain.reset : Chain := ⟨0, 0, 0, 0, 0, 0, 0, false, none, []⟩

/-- Chain `c`. -/
def State.chain (s : State) (c : Nat) : Chain := s.chains.get Chain.reset c

/-- Replace chain `c`. -/
def State.putChain (s : State) (c : Nat) (x : Chain) : State := { s with chains := s.chains.set c x }

/-- TAIL lies more than ENTRIES above HEAD. -/
def Chain.overrun (x : Chain) : Bool := decide (x.entries < (x.tail - x.head).toNat)

/-- The host writes TAIL. -/
def State.writeTail (s : State) (c : Nat) (tail : Word) : State :=
  let s := s.putChain c { s.chain c with tail := tail }
  if (s.chain c).status = 0 ∧ (s.chain c).overrun then s.stopChain c 3 else s

/-- RESET (R490): entries between HEAD and TAIL are given up, and the next entry may carry any SEQ. -/
def State.resetChain (s : State) (c : Nat) : State :=
  let x := s.chain c
  s.putChain c { x with head := x.tail, status := 0, lastSeq := none }

/-- CHAIN_TAIL_WRITE. -/
def execChainTailWrite (c : Nat) (tail : BitVec 64) (s : State) : Out := .next (s.host 1 id fun s => if c < 64 then s.writeTail c tail else s)

/-- CHAIN_ENABLE. -/
def execChainEnable (c : Nat) (on : Bool) (s : State) : Out :=
  .next (s.host 1 id fun s => if c < 64 then s.putChain c { s.chain c with enable := on } else s)

/-- CHAIN_RESET. -/
def execChainReset (c : Nat) (s : State) : Out := .next (s.host 1 id fun s => if c < 64 then s.resetChain c else s)

/-! ### Entries (R324 to R326) -/

/-- What a chain comes to. -/
inductive ChainEntry where
  | none
  | stop (status : Nat)
  | entry (b : List Byte)

/-- The chain's next entry, read and checked (R324, R490). -/
def State.nextEntry (s : State) (c : Nat) : State × ChainEntry :=
  let x := s.chain c
  if 64 ≤ c ∨ !s.awake ∨ !x.enable ∨ x.status ≠ 0 ∨ x.head = x.tail then (s, .none)
  else if x.overrun then (s, .stop 3)
  else
    let (s, b) := s.devGet x.asid (x.base.toNat + 64 * (x.head.toNat % x.entries)) 64
    match b with
    | none => (s, .stop 5)
    | some b =>
      let bad := match x.lastSeq with
        | none => false
        | some q => wordAt b 8 != q + 1
      if 4 ≤ numAt b 0 4 ∨ bad = true then (s, .stop 1)
      else if !s.devOk x.asid true x.cword.toNat 8 then (s, .stop 5)
      else (s, .entry b)

/-- The entry is read: HEAD goes on, and the entry is open under a number of its own until it completes. -/
def State.takeEntry (s : State) (c : Nat) (b : List Byte) : Nat × State :=
  let x := s.chain c
  let (id, s) := s.fresh
  (id, s.putChain c { x with
    head := x.head + 1, lastSeq := some (wordAt b 8), open_ := x.open_ ++ [⟨id, wordAt b 8, false, bitAt (numAt b 4 4) 1⟩] })

/-- Come to the next entry of a chain: stop at one that is refused, wait at an ordered one, and do an entry of a kind. -/
def State.chainEntry (s : State) (c kind : Nat) (k : List Byte → State → State) : Out :=
  .next (match s.nextEntry c with
    | (_, .none) => s
    | (t, .stop st) => t.stopChain c st
    | (t, .entry b) =>
      if numAt b 0 4 ≠ kind ∨ (bitAt (numAt b 4 4) 0 ∧ !(s.chain c).open_.isEmpty) then s else k b t)

/-- CHAIN_NOP. -/
def execChainNop (c : Nat) (s : State) : Out :=
  s.chainEntry c 0 fun b s => let (id, s) := s.takeEntry c b; s.chainDone c id

/-- CHAIN_LAUNCH (R325, R329): the chain waits while the readiness table is full. -/
def execChainLaunch (c : Nat) (s : State) : Out :=
  s.chainEntry c 1 fun b s =>
    if !s.readyRoom then s
    else
      let (id, t) := s.takeEntry c b
      match t.submit (s.chain c).asid (wordAt b 16) (some (wordAt b 32)) { chain := some (c, id) } with
        | .dropped => s.stopChain c 5
        | .taken _ s => s

/-- CHAIN_SIGNAL (R325, R260, R328): the add and its completion; a counter on a failing line counts as one that fails the
test. -/
def execChainSignal (c : Nat) (s : State) : Out :=
  s.chainEntry c 2 fun b s =>
    let asid := (s.chain c).asid
    let a := wordAt b 16
    if !s.counterOk asid a then s.stopChain c 4
    else match s.transNow asid a.toNat with
      | .error _ => s.stopChain c 4
      | .ok (p, n) =>
        let pa := ptePa p n a.toNat
        if (s.bad.find (lineOf pa)).isSome || s.noSlot pa (pteExpz p) then s.stopChain c 4
        else
          let (id, s) := s.takeEntry c b
          let s := s.clean (lineOf pa)
          let sum := min ((s.load64 pa).toNat + (wordAt b 24).toNat) (2 ^ 64 - 1)
          let s := (s.applyStore [] pa (toBytes 8 sum) (pteExpz p)).1
          (s.reeval pa).chainDone c id

/-- A node from its descriptor (R331). -/
def readNode (b : List Byte) (asid : BitVec 16) : Node :=
  ⟨numAt b 4 4, numAt b 8 4, numAt b 12 4, numAt b 16 4, wordAt b 24, wordAt b 32, asid⟩

/-- The fields of a node descriptor lie in their ranges (R331). -/
def nodeOk (node : Nat) (x : Node) : Bool :=
  decide (node < 256) && x.rsize % 16 == 0 && decide (16 ≤ x.rsize ∧ x.rsize ≤ 256 ∧ 1 ≤ x.coal ∧ x.coal ≤ 64 ∧ 1 ≤ x.nbatch ∧ x.nbatch ≤ 64)

/-- CHAIN_NODEDEF (R331): NODE_BUSY while some die's bin of the node holds records or has a batch slot in use. -/
def execChainNodedef (c : Nat) (s : State) : Out :=
  s.chainEntry c 3 fun b s =>
    let asid := (s.chain c).asid
    let (s, d) := s.devGet asid (wordAt b 16).toNat 64
    match d with
    | none => s.stopChain c 5
    | some d =>
      let node := numAt d 0 4
      let x := readNode d asid
      if !nodeOk node x then s.stopChain c 1
      else if (List.range 4).any fun die => !(s.bin die node).recs.isEmpty || !(s.bin die node).slots.isEmpty then s.stopChain c 2
      else
        let (id, s) := s.takeEntry c b
        ({ s with nodes := s.nodes.set node x }).chainDone c id

/-! ### Launch packets and residency reports (R337, R338) -/

/-- LAUNCH_PACKET_SEND (R338): a write of LPGO. -/
def State.sendPacket (s : State) (go : Word) : Out :=
  let h := s.hr
  if go ≠ 1 ∨ h.lpgo = 1 then .next s
  else if !hasMemory h.lprec.toNat ∨ !hasMemory (h.lprec.toNat + 159) then .fault (.noMemory h.lprec.toNat)
  else
    let dst : BitVec 16 := BitVec.ofNat 16 (Bits.of h.lpdest 15 0)
    if !s.reaches dst then .next { s with hr := { h with lpgo := 2 } }
    else
      let s := s.cleanOver h.lprec.toNat 160
      let p : LaunchPacket := ⟨s.devid, s.load h.lprec.toNat 160, h.lptag, BitVec.ofNat 3 (Bits.of h.lpdest 18 16),
        BitVec.ofNat 16 (Bits.of h.lpdest 47 32), h.lpcrec⟩
      .next { s with hr := { s.hr with lpgo := 1 }, netOut := s.netOut ++ [Packet.launch dst p] }

def execLaunchPacketSend (go : BitVec 64) (s : State) : Out := s.host 3 .next fun s => s.sendPacket go

/-- LAUNCH_PACKET_ACK. -/
def execLaunchPacketAck (s : State) : Out :=
  .next (if s.hr.lpgo = 1 then { s with hr := { s.hr with lpgo := 0 } } else s)

/-- LAUNCH_PACKET_RECEIVE (R337): the packet of the device's scheduler enters readiness; one from elsewhere is refused. A
packet that finds the readiness table full waits. -/
def execLaunchPacketReceive (pkt : LaunchPacket) (s : State) : Out :=
  let s := s.wake
  .next (if !s.hr.sched.getLsbD 16 || s.hr.sched.setWidth 16 != pkt.src then
      { s with netOut := s.netOut ++ [Packet.launchAck pkt.src pkt.tag, Packet.report pkt.src
          ⟨pkt.tag, s.devid, 3, 7, 0, 0, BitVec.ofNat 32 s.freeQuads⟩] }
    else if !s.readyRoom then s
    else
      let s := { s with netOut := s.netOut ++ [Packet.launchAck pkt.src pkt.tag] }
      match s.submitBytes pkt.asid 0 (some pkt.crec) { reporter := some (pkt.src, pkt.tag), prio := some pkt.prio.toNat } pkt.record with
      | .dropped => s
      | .taken _ s => s)

/-- The 32 bytes of a residency report (R337). -/
def reportBytes (r : Report) : List Byte :=
  toBytes 8 r.tag.toNat ++ toBytes 2 r.devid.toNat ++ toBytes 2 r.state.toNat ++ toBytes 4 r.status.toNat ++
    toBytes 4 r.resident.toNat ++ toBytes 4 r.retired.toNat ++ toBytes 4 r.freeq.toNat ++ toBytes 4 0

/-- RESIDENCY_REPORT_RECEIVE (R338). R338 drops a report where RPTTAIL - RPTHEAD equals RPTSIZE; the model drops it too where the difference
is larger, which the host can bring about by what it writes, and that is its choice (log 117). -/
def execResidencyReportReceive (rep : Report) (s : State) : Out :=
  let h := s.hr
  let size := h.rptsize.toNat
  if size = 0 ∨ size ≤ (h.rpttail - h.rpthead).toNat then
    .next ({ s with hr := { h with rptlost := h.rptlost + 1 } }.raise evRptLost)
  else
    let pa := h.rptbase.toNat + 32 * (h.rpttail.toNat % size)
    if !hasMemory pa then .fault (.noMemory pa)
    else
      let s := s.physPut pa (reportBytes rep)
      .next ({ s with hr := { s.hr with rpttail := s.hr.rpttail + 1 } }.msix 65)

/-! ### Pods (R406, R407, R453) -/

/-- The descriptor's bytes. -/
def HostRegs.podBytes (h : HostRegs) : List Byte := h.poddesc.flatMap fun w => toBytes 8 w.toNat

/-- A field that is 0 has its default. -/
def orDefault (n d : Nat) : Nat := if n = 0 then d else n

/-- The pod of a descriptor, with the members of its bitmap. -/
def readPod (b : List Byte) (members : List (BitVec 16)) : Pod :=
  { number := BitVec.ofNat 16 (numAt b 0 2), root := BitVec.ofNat 16 (numAt b 2 2), members := members, cocoon := numAt b 16 8,
    bank := orDefault (numAt b 24 4) 2, part := numAt b 28 2, allow := numAt b 32 8, spill := numAt b 40 8,
    spillsz := numAt b 48 8, stepto := orDefault (numAt b 56 4) 100000, retx := orDefault (numAt b 60 4) 50,
    clog := numAt b 64 8, clogsz := numAt b 72 4 }

/-- The device IDs of a bitmap. -/
def bitmapIds (bs : List Byte) : List (BitVec 16) :=
  (List.range (8 * bs.length)).filterMap fun d => if bitAt (nth 0 bs (d / 8)).toNat (d % 8) then some (BitVec.ofNat 16 d) else none

/-- The regions that a pod uses: base and length (R406). -/
def Pod.regions (p : Pod) : List (Nat × Nat) := [(p.cocoon, 2 * p.bank * 2 ^ 30), (p.spill, p.spillsz), (p.clog, 16 * p.clogsz)]

/-- Some two of a list of regions overlap. -/
def anyOverlap : List (Nat × Nat) → Bool
  | [] => false
  | r :: rs => (rs.any fun q => overlap r.1 r.2 q.1 q.2) || anyOverlap rs

/-- The four tests of R406 on a descriptor; `nmem` is its NMEM. -/
def Pod.ok (p : Pod) (nmem : Nat) (dev : BitVec 16) : Bool :=
  decide (nmem * p.allow ≤ p.bank * 2 ^ 23) && !anyOverlap p.regions && p.regions.all (fun r => r.2 == 0 || decide (r.1 + r.2 ≤ hbmTop)) &&
    p.members.contains dev

/-- A participant stands between arrival and outcome (R407). -/
def State.midStep (s : State) (p : Pod) : Bool :=
  s.step.reported.isSome || s.step.applying.isSome ||
    if p.part = 0 then s.step.colArrived else s.podWaves.any fun w => w.arrivedFor s.step.stepno

/-- The device is quiescent (R407, R495). -/
def State.quiescent (s : State) : Bool :=
  match s.pod with
  | none => true
  | some p => s.step.left || (!s.midStep p && s.applyQ.isEmpty && s.staged.isEmpty && s.early.isEmpty && s.sent.isEmpty)

/-- The outcome of a step, where it is known here. -/
def State.outcomeOf (s : State) (n : Word) : Option (StepOut × Bool) := (s.step.outcomes.find? fun o => o.1 == n).map (·.2)

/-- Waits for a step's outcome end with STEP_ABORT where it is still to come, and no arrival counts (R453). -/
def State.loseSteps (s : State) : State :=
  let s := { s with waves := s.waves.update fun _ (w : Wave) => { w with
      stepArr := none
      waiting := match w.waiting with
        | some (.step n b none) => some (.step n b (some ((s.outcomeOf n).getD (.abort, false))))
        | x => x } }
  match s.colCtx with
  | some x => match x.run.waiting with
    | some n =>
      if (s.outcomeOf n).any fun e => e.1 == .commit then { s with col := some { x.run with k := x.run.k + 1, pos := x.run.pos + 1, waiting := none } }
      else s.colOver x true
    | none => s
  | none => s

/-- The device stands in no step of any pod: its banks, numbers and allowances are empty. No launch waits any more for the outcome of a step
that it wrote in (log 119). -/
def State.clearSteps (s : State) : State :=
  { s.loseSteps.stepPcs false with step := StepState.reset, root := [], recvNo := [], refused := [], applyQ := [], staged := [], early := [], sent := [], seqNos := [], allowance := [] }

/-- POD_DISSOLVE (R407, R453). -/
def State.dissolvePod (s : State) : State :=
  if !s.quiescent then { s with hr := { s.hr with form := 0xff } }
  else { s.clearSteps with pod := none, noRoute := [], hr := { s.hr with form := 0 } }

def execPodDissolve (s : State) : Out := .next (s.host 3 id State.dissolvePod)

/-- POD_FORM (R406, R407, R453, R489). -/
def State.formPod (s : State) : Out :=
  let b := s.hr.podBytes
  let at_ := numAt b 8 8
  if !hasMemory at_ ∨ !hasMemory (at_ + 8191) then .fault (.noMemory at_)
  else
    let s := s.cleanOver at_ 8192
    let p := readPod b (bitmapIds (s.load at_ 8192))
    if !s.quiescent || !p.ok (numAt b 4 4) s.devid then .next { s with hr := { s.hr with form := 0xff } }
    else
      let s := s.clearSteps
      .next { s with pod := some p, noRoute := [], hr := { s.hr with form := 0, arrdrop := 0, clogn := 0, cloglost := 0 } }.routesChanged

def execPodForm (s : State) : Out := s.host 3 .next State.formPod

/-! ### Invalidation (R240, R486) -/

/-- TLB_INVALIDATE: a write of 1 to INVGO, with the registers as they stand; one that comes while an invalidation runs is held. -/
def State.invalidate (s : State) : State :=
  let x : Inval := ⟨s.hr.invasid, s.hr.invva, s.hr.invlen⟩
  if s.invRun.isSome then { s with invHeld := s.invHeld ++ [x] } else { s with invRun := some x, hr := { s.hr with invgo := true } }

def execTlbInvalidate (s : State) : Out := .next (s.host 5 id State.invalidate)

/-- An invalidation covers a translation: of pages `page` to `page + span - 1`. -/
def Inval.covers (x : Inval) (asid : BitVec 16) (glob : Bool) (page span : Nat) : Bool :=
  (x.asid.getLsbD 16 || (asid == x.asid.setWidth 16 && !glob)) &&
    (!x.asid.getLsbD 17 || (decide (page * 2 ^ 18 < x.va.toNat + x.len.toNat) && decide (x.va.toNat < (page + span) * 2 ^ 18)))

/-- What a walk has returned lies under an invalidation. -/
def Inval.coversWalk (x : Inval) (f : Walked) : Bool := match f.fault with
  | some _ => x.covers f.asid false f.page 1
  | none => x.covers f.asid (pteG f.pte) (f.page / f.span * f.span) f.span

/-- INVALIDATE_COMPLETE: no TLB holds a matching entry, what walks have found is walked again, and every read-only cache is
empty. The next one that was asked for begins. -/
def execInvalidateComplete (s : State) : Out :=
  .next (match s.invRun with
    | none => s
    | some x => { s with
        tlb := s.tlb.filter fun e => !x.covers e.asid (pteG e.pte) e.page e.span
        walked := s.walked.filter fun f => !x.coversWalk f
        ro := [], invRun := s.invHeld.head?, invHeld := s.invHeld.tail, hr := { s.hr with invgo := !s.invHeld.isEmpty } })

/-! ### Repair and service (R465, R491) -/

/-- An access lies on a line. -/
def Acc.onLine (a : Acc) (line : Nat) : Bool := match a.at_ with
  | .phys pa => lineOf pa == line
  | _ => false

/-- Replay an access that operation `id` has parked, as if it had just arrived. -/
def State.replay (s : State) (id : Nat) (a : Acc) : State :=
  match s.opAt id with
  | none => s
  | some o =>
    let n := s.fires.length
    (s.performOne id a).orderFires n (s.openBefore o.wave id)

/-- An element of a step that was parked goes to its home slice (R416); the write of its step goes on with it (R335). -/
def State.applyParked (s : State) (q : Nat × Nat × List (Nat × Byte)) : State :=
  let (t, fired) := { s with applyQ := s.applyQ.erase q }.applyWord s.step.fired q.2.1 q.2.2
  { t with step := { t.step with fired := fired } }

/-- A request in a fault queue: a flush, the accesses of an operation to a line (log 83), or an element of a step (R416, R465). -/
inductive Parked where
  | flush (r : ReduceLine)
  | accs (op line : Nat)
  | elem (q : Nat × Nat × List (Nat × Byte))
  deriving DecidableEq, Repr

/-- The line of a parked request. -/
def Parked.line : Parked → Nat
  | .flush r => r.line
  | .accs _ l => l
  | .elem q => lineOf q.2.1

/-- The parked requests of all slices in the order in which they came to their queues (R465); of what came in one step, flushes before the
accesses that forced them, and elements last (log 50). -/
def State.parkedReqs (s : State) : List Parked :=
  let flushes := s.flushQ.filterMap fun r => r.parked.map fun t => (t, Parked.flush r)
  let accs := s.ops.flatMap fun o => o.parkedLines.map fun l =>
    ((smallest (o.acc.filterMap fun a => if a.onLine l then a.parked else none)).getD 0, Parked.accs o.id l)
  (sortBy (flushes ++ accs ++ s.applyQ.map fun q => (q.1, Parked.elem q)) fun a b => decide (a.1 ≤ b.1)).map (·.2)

/-- What becomes of a parked request; `accs` says it for the accesses of an operation to a line. A flush or an element is done again as if it
had just come: applied, or, where its line still fails, recorded as outside service (R228, R416). -/
def State.settleReq (accs : State → Nat → Nat → State) (s : State) : Parked → State
  | .flush r => if s.flushQ.contains r then s.doFlush r else s
  | .accs id l => accs s id l
  | .elem q => if s.applyQ.contains q then s.applyParked q else s

/-- The parked accesses of an operation to a line are replayed and complete as if they had just arrived. -/
def State.replayAccs (s : State) (id line : Nat) : State := match s.opAt id with
  | none => s
  | some o => (o.acc.filter fun a => a.onLine line && a.parked.isSome).foldl (fun (s : State) a => s.replay id a) s

/-- A line is repaired: its slice replays the requests parked for it, in the order in which they came. -/
def State.repair (s : State) (pa : Nat) : State :=
  let line := lineOf (pa % 2 ^ 52)
  (s.parkedReqs.filter fun r => r.line == line).foldl (State.settleReq State.replayAccs) { s with bad := s.bad.erase line }

/-- LINE_REPAIR. -/
def execLineRepair (pa : BitVec 64) (s : State) : Out := .next (s.host 0 id fun s => s.repair pa.toNat)

/-- The accesses of an operation to a line, which are parked, end as service ends: an imprecise fault, and the rest of the operation goes on;
lanes of an atomic that have not performed keep their operands. -/
def State.endParked (s : State) (id line : Nat) : State :=
  match s.opAt id with
  | none => s
  | some o =>
    let code := (s.bad.find line).getD Code.uncorr
    let o := { o with acc := o.acc.filter fun a => !(a.onLine line && a.parked.isSome) }
    if o.emits then s.setOp { o with bad := some (code, 128 * line) }
    else
      let s := s.impFault o.wave o.waveid o.gang code o.pc
      if !o.atomic && o.complete then s.endOp o else s.setOp o

/-- SERVICE is written; with 0 every parked request ends, in queue order. -/
def State.writeService (s : State) (v : BitVec 2) : State :=
  let t := { s with hr := { s.hr with service := v } }
  if s.hr.service != 0 && v == 0 then s.parkedReqs.foldl (State.settleReq State.endParked) t else t

/-- A write of GCTL (R491): LTOL, SERVICE, and TRESUME where bit 9 is 1. -/
def State.writeGctl (s : State) (v : Word) : State :=
  let s := { s with hr := { s.hr with ltol := BitVec.ofNat 32 (Bits.of v 63 32), tresume := s.hr.tresume || (s.thold && v.getLsbD 9) } }
  s.writeService (v.setWidth 2)

/-- SERVICE_WRITE. -/
def execServiceWrite (v : BitVec 64) (s : State) : Out := .next (s.host 0 id fun s => s.writeGctl v)

/-- THERMAL_RESUME (R495): held until the temperature has fallen. -/
def execThermalResume (s : State) : Out :=
  .next (s.host 0 id fun s => if s.thold then { s with hr := { s.hr with tresume := true } } else s)

/-! ### Events, watchpoints, interrupts (R484, R498) -/

/-- Write 1s to EVSTAT: one more message where an unmasked cause remains. -/
def State.writeEvstat (s : State) (m : BitVec 32) : State :=
  let ev := s.hr.evstat &&& ~~~m
  let s := { s with hr := { s.hr with evstat := ev } }
  if ev &&& ~~~s.hr.evmask ≠ 0 then s.msix 0 else s

/-- EVSTAT_CLEAR. -/
def execEvstatClear (m : BitVec 64) (s : State) : Out := .next (s.host 0 id fun s => s.writeEvstat (m.setWidth 32))

/-- Disarm the watchpoints that a test names; what they have queued stays. -/
def State.disarm (s : State) (f : Nat → Watch → Bool) : State :=
  { s with watch := s.watch.update fun h (w : Watch) => if f h w then { w with armed := false } else w }

/-- WPCLEAR_HANDLE, WPCLEAR_ASID, WPCLEAR_ALL. -/
def execWpclearHandle (h : BitVec 8) (s : State) : Out := .next (s.host 0 id fun s => s.disarm fun i _ => i == h.toNat)
def execWpclearAsid (asid : BitVec 16) (s : State) : Out := .next (s.host 0 id fun s => s.disarm fun _ w => w.asid == asid)
def execWpclearAll (s : State) : Out := .next (s.host 0 id fun s => s.disarm fun _ _ => true)

/-- A write of WPCLEAR. -/
def State.writeWpclear (s : State) (v : Word) : State :=
  s.disarm fun h w => v.getLsbD 9 || if v.getLsbD 8 then w.asid.toNat == Bits.of v 31 16 else h == Bits.of v 7 0

/-- MSIX_VECTOR_UNMASK: a pending message is sent. -/
def execMsixVectorUnmask (vec : Nat) (s : State) : Out :=
  let t := { s with msixMask := s.msixMask.filter (· != vec) }
  .next (if s.msixPend.contains vec then { t with msixPend := s.msixPend.filter (· != vec), msixSent := s.msixSent ++ [vec] } else t)

/-! ### Checkpoint (R496) -/

/-- CHECKPOINT_GO: a write while the copy runs is ignored. -/
def State.ckptGo (s : State) : Out :=
  let h := s.hr
  let src := h.ckSrc.toNat
  let dst := h.ckDst.toNat
  let len := h.ckLen.toNat
  if h.ckStatus = 1 then .next s
  else if hbmTop < src + len then .fault (.noMemory (max src hbmTop))
  else if dst < hostBase ∨ 2 ^ 52 < dst + len then .fault (.noMemory dst)
  else .next { s with ckPos := 0, hr := { h with ckStatus := 1 } }

def execCheckpointGo (s : State) : Out := s.host 8 .next State.ckptGo

/-- No gang is resident and every launch is complete: the L2 has written its lines back by then (R496; log 28). -/
def State.settled (s : State) : Bool := !s.gangs.any (fun g => g.2.placedNow) && s.launches.all fun l => l.2.status == .done

/-- Copy up to `n` further lines, as HBM4 holds them at this moment. -/
def State.ckptCopy : (n : Nat) → State → State
  | 0, s => s
  | n + 1, s =>
    if s.hr.ckStatus ≠ 1 ∨ s.hr.ckLen.toNat ≤ 128 * s.ckPos then s
    else
      let from_ := s.hr.ckSrc.toNat + 128 * s.ckPos
      let s := if s.settled then s.writeBack (lineOf from_) else s
      let bs := (upto from_ (min 128 (s.hr.ckLen.toNat - 128 * s.ckPos))).map s.hbmByte
      State.ckptCopy n { s.physPut (s.hr.ckDst.toNat + 128 * s.ckPos) bs with ckPos := s.ckPos + 1 }

/-- CHECKPOINT_DONE: the rest of the copy is made, or the port has failed. -/
def execCheckpointDone (err : Bool) (s : State) : Out :=
  .next (if s.hr.ckStatus ≠ 1 then s
    else
      let s := if err then s else s.ckptCopy (s.hr.ckLen.toNat / 128 + 1)
      { s with hr := { s.hr with ckStatus := if err then 2 else 0 } }.raise evCkpt)

/-! ### Writes of registers (R483 to R490) -/

/-- The control window (R484). -/
def State.writeControl (s : State) (off : Nat) (v : Word) : State :=
  let h := s.hr
  match off with
  | 0x00 => s.writeGctl v
  | 0x08 => { s with hr := { h with pcap := v.setWidth 16 } }
  | 0x10 => s.repair v.toNat
  | 0x18 => s.writeEvstat (v.setWidth 32)
  | 0x20 => { s with hr := { h with evmask := v.setWidth 32 &&& 0xfff } }
  | 0x28 => { s with hr := { h with sched := v.setWidth 17 } }
  | 0x30 => { s with hr := { h with age := v.setWidth 32 } }
  | 0x38 => { s with hr := { h with prelevel := v.setWidth 4 } }
  | 0x40 => { s with hr := { h with savebud := v.setWidth 32 } }
  | 0x48 => s.writeWpclear v
  | _ => s

/-- A chain block (R490). -/
def State.writeChain (s : State) (c off : Nat) (v : Word) : State :=
  let x := s.chain c
  match off with
  | 0 => s.putChain c { x with base := v }
  | 8 => s.putChain c { x with entries := v.toNat % 2 ^ 32 }
  | 12 => s.putChain c { x with asid := v.setWidth 16 }
  | 16 => s.writeTail c v
  | 32 => s.putChain c { x with cword := v }
  | 44 =>
    let s := s.putChain c { x with enable := v.getLsbD 0 }
    if v.getLsbD 1 then s.resetChain c else s
  | _ => s

/-- The Range Permission Table (R402). -/
def State.writeRpt (s : State) (off : Nat) (v : Word) : State :=
  if off % 8 = 0 ∧ off < 2048 then
    { s with rpt := s.rpt.set (off / 32) ((s.rpt.get [0, 0, 0, 0] (off / 32)).set (off % 32 / 8) v) }
  else s

/-- The pod window (R338, R406, R489). -/
def State.writePod (s : State) (off : Nat) (v : Word) : Out :=
  let h := s.hr
  let put (h : HostRegs) : Out := .next { s with hr := h }
  if off < 0x50 ∧ off % 8 = 0 then put { h with poddesc := h.poddesc.set (off / 8) v }
  else match off with
    | 0x80 => if v = 1 then s.formPod else if v = 2 then .next s.dissolvePod else .next s
    | 0x200 => put { h with lprec := v }
    | 0x208 => put { h with lpdest := v }
    | 0x210 => put { h with lptag := v }
    | 0x218 => put { h with lpcrec := v }
    | 0x220 => s.sendPacket v
    | 0x240 => put { h with rptbase := v }
    | 0x248 => put { h with rptsize := v }
    | 0x258 => put { h with rpthead := v }
    | _ => .next s

/-- The routes window (R485). -/
def State.writeRoutes (s : State) (off : Nat) (v : Word) : State :=
  let h := s.hr
  let block (glob : Bool) (o : Nat) : State :=
    if o % 32 = 0 ∧ portExists glob (o / 32) then s.putPort glob (o / 32) { s.port glob (o / 32) with timer := v.toNat % 2 ^ 24 } else s
  if off < 0x4000 then
    if off % 8 = 0 then s.writeRoute (off / 8) v else s
  else if 0x9000 ≤ off then block true (off - 0x9000)
  else if 0x8000 ≤ off then block false (off - 0x8000)
  else match off with
    | 0x4000 => ({ s with hr := { h with routectl := v.getLsbD 0 } }).routesChanged
    | 0x4008 => { s with hr := { h with portev0 := h.portev0 &&& ~~~(v.setWidth 32) } }
    | 0x4010 => { s with hr := { h with portev1 := h.portev1 &&& ~~~v } }
    | 0x4018 => { s with hr := { h with portev2 := h.portev2 &&& ~~~(v.setWidth 32) } }
    | _ => s

/-- The translation window (R486). -/
def State.writeTranslation (s : State) (off : Nat) (v : Word) : State :=
  let h := s.hr
  match off with
  | 0x00 => { s with hr := { h with asidtab := v } }
  | 0x08 => { s with hr := { h with invasid := (v.setWidth 18).setWidth 64 } }
  | 0x10 => { s with hr := { h with invva := v } }
  | 0x18 => { s with hr := { h with invlen := v } }
  | 0x20 => if v.getLsbD 0 then s.invalidate else s
  | _ => s

/-- The memory window (R487). -/
def State.writeMemory (s : State) (off : Nat) (v : Word) : State :=
  let h := s.hr
  match off with
  | 0x00 => { s with hr := { h with expztab := v } }
  | 0x08 => { s with hr := { h with expztop := v } }
  | 0x10 => { s with hr := { h with ovfbase := v } }
  | 0x18 => { s with hr := { h with ovfslots := v } }
  | 0x20 => { s with hr := { h with savebase := v } }
  | 0x28 => { s with hr := { h with savesize := v } }
  | _ => s

/-- The checkpoint window (R496). -/
def State.writeCkpt (s : State) (off : Nat) (v : Word) : Out :=
  let h := s.hr
  match off with
  | 0x00 => .next { s with hr := { h with ckSrc := v } }
  | 0x08 => .next { s with hr := { h with ckDst := v } }
  | 0x10 => .next { s with hr := { h with ckLen := v } }
  | 0x18 => if v.getLsbD 0 then s.ckptGo else .next s
  | _ => .next s

/-- A host write of a BAR0 register (R483); offsets that no window assigns ignore it. -/
def State.barWrite (s : State) (off : Nat) (v : Word) : Out :=
  let o := off % 2 ^ 16
  match off / 2 ^ 16 with
  | 0 => .next (s.writeControl o v)
  | 1 => .next (if o < 4096 then s.writeChain (o / 64) (o % 64) v else s)
  | 2 => .next (s.writeRpt o v)
  | 3 => s.writePod o v
  | 4 => .next (s.writeRoutes o v)
  | 5 => .next (s.writeTranslation o v)
  | 6 => .next (s.writeMemory o v)
  | 7 => .next (if o = 0 then { s with hr := { s.hr with dbgsel := v.setWidth 32 } } else s)
  | 8 => s.writeCkpt o v
  | _ => .next s

/-- REGISTER_WRITE. -/
def execRegisterWrite (off : Nat) (v : BitVec 64) (s : State) : Out := s.host (off / 2 ^ 16) .next fun s => s.barWrite off v

/-! ### Reads of registers (R483 to R491) -/

/-- PSTATE (R491, R495). -/
def PState.num : PState → Nat
  | .l0 => 0
  | .l1 => 1
  | .l2 => 2
  | .l3 => 3

/-- GCTL as the host reads it. -/
def State.readGctl (s : State) : Word :=
  BitVec.ofNat 64 (2 ^ 32 * s.hr.ltol.toNat + 2 ^ 16 * s.power.num + (if s.thold then 2 ^ 8 else 0) + s.hr.service.toNat)

/-- Free units of the save area (R487, R497). -/
def State.saveFree (s : State) : Nat := s.saveUnits - s.saved.foldl (fun n x => n + x.units) 0

/-- A wave that the debug window shows: one that has ended and holds its slot, or one that stands in its handler, also where a save has stopped
it there and its gang still holds the quad (R343, R488). -/
def State.debugWave (s : State) : Option Wave :=
  (s.waves.find? fun w => w.2.waveid == s.hr.dbgsel && s.holds w.2 &&
    (w.2.status == .ended || ((w.2.status == .live || w.2.status == .saved) && w.2.inHandler))).map (·.2)

/-- The debug window (R488): 8 bytes at an offset. -/
def State.readDebug (s : State) (off : Nat) : Word :=
  let lanes (i : Nat) (w : Wave) : Nat := (w.lane (i / 32) (i % 32)).toNat
  if off = 0 then s.hr.dbgsel.setWidth 64
  else match s.debugWave with
    | none => 0
    | some w =>
      if off = 8 then BitVec.ofNat 64 (1 + if w.status = .ended then 2 else 0)
      else if 0x100 ≤ off ∧ off < 0x500 then (if (off - 0x100) / 8 < w.sregN then w.sreg ((off - 0x100) / 8) else 0)
      else if 0x500 ≤ off ∧ off < 0x510 then fullWord (fun n => decide (n < w.sregN) && w.sFull n) ((off - 0x500) / 8)
      else if 0x520 ≤ off ∧ off < 0x540 then fullWord (fun n => decide (n < w.vregN) && w.vFull n) ((off - 0x520) / 8)
      else if 0x560 ≤ off ∧ off < 0x57c then
        let p := (off - 0x560) / 4 + 1
        BitVec.ofNat 64 ((w.pred p).toNat + if p < 7 then 2 ^ 32 * (w.pred (p + 1)).toNat else 0)
      else if 0x8000 ≤ off ∧ off < 0x10000 then
        let i := (off - 0x8000) / 4
        if i / 32 < w.vregN then BitVec.ofNat 64 (lanes i w + 2 ^ 32 * lanes (i + 1) w) else 0
      else 0

/-- A port block (R485). -/
def State.readPort (s : State) (glob : Bool) (o : Nat) : Word :=
  let x := s.port glob (o / 32)
  if !portExists glob (o / 32) then 0
  else match o % 32 with
    | 0 => BitVec.ofNat 64 x.timer
    | 8 => x.esccnt
    | 16 => BitVec.ofNat 64 x.count
    | _ => 0

/-- A BAR0 register as the host reads it (R483): 8 bytes, or the 4 bytes of a 4-byte field of a chain block. A window that does not answer
yet reads 0 (R492). -/
def State.barRead (s : State) (off : Nat) : Word :=
  let h := s.hr
  let o := off % 2 ^ 16
  if !s.answers (off / 2 ^ 16) then 0
  else match off / 2 ^ 16 with
  | 0 => match o with
    | 0x00 => s.readGctl
    | 0x08 => h.pcap.setWidth 64
    | 0x18 => h.evstat.setWidth 64
    | 0x20 => h.evmask.setWidth 64
    | 0x28 => h.sched.setWidth 64
    | 0x30 => h.age.setWidth 64
    | 0x38 => h.prelevel.setWidth 64
    | 0x40 => h.savebud.setWidth 64
    | 0x50 => h.memerrpa
    | 0x58 => h.memerrn
    | _ => 0
  | 1 =>
    let x := s.chain (o / 64)
    if 4096 ≤ o then 0
    else match o % 64 with
      | 0 => x.base
      | 8 => BitVec.ofNat 64 x.entries
      | 12 => x.asid.setWidth 64
      | 16 => x.tail
      | 24 => x.head
      | 32 => x.cword
      | 40 => BitVec.ofNat 64 x.status
      | 44 => if x.enable then 1 else 0
      | _ => 0
  | 2 => if o % 8 = 0 ∧ o < 2048 then nth 0 (s.rpt.get [0, 0, 0, 0] (o / 32)) (o % 32 / 8) else 0
  | 3 => if o < 0x50 ∧ o % 8 = 0 then nth 0 h.poddesc (o / 8)
    else match o with
      | 0x80 => h.form.setWidth 64
      | 0x100 => h.arrdrop
      | 0x108 => h.clogn
      | 0x110 => h.cloglost
      | 0x200 => h.lprec
      | 0x208 => h.lpdest
      | 0x210 => h.lptag
      | 0x218 => h.lpcrec
      | 0x220 => h.lpgo.setWidth 64
      | 0x240 => h.rptbase
      | 0x248 => h.rptsize
      | 0x250 => h.rpttail
      | 0x258 => h.rpthead
      | 0x260 => h.rptlost
      | _ => 0
  | 4 =>
    if o < 0x4000 then (if o % 8 = 0 then s.routes.get 0 (o / 8) else 0)
    else if 0x9000 ≤ o then s.readPort true (o - 0x9000)
    else if 0x8000 ≤ o then s.readPort false (o - 0x8000)
    else match o with
      | 0x4000 => if h.routectl then 1 else 0
      | 0x4008 => h.portev0.setWidth 64
      | 0x4010 => h.portev1
      | 0x4018 => h.portev2.setWidth 64
      | _ => 0
  | 5 => match o with
    | 0x00 => h.asidtab
    | 0x08 => h.invasid
    | 0x10 => h.invva
    | 0x18 => h.invlen
    | 0x20 => if h.invgo then 1 else 0
    | _ => 0
  | 6 => match o with
    | 0x00 => h.expztab
    | 0x08 => h.expztop
    | 0x10 => h.ovfbase
    | 0x18 => h.ovfslots
    | 0x20 => h.savebase
    | 0x28 => h.savesize
    | 0x30 => BitVec.ofNat 64 s.saveFree
    | _ => 0
  | 7 => s.readDebug o
  | 8 => match o with
    | 0x00 => h.ckSrc
    | 0x08 => h.ckDst
    | 0x10 => h.ckLen
    | 0x20 => h.ckStatus.setWidth 64
    | _ => 0
  | 9 => if o % 8 = 0 ∧ o < 32 then nth 0 s.clk (o / 8) else 0
  | _ => 0

/-! ### Reset (R492) -/

/-- Reset goes on to its next step: at step 3 the dies start, in state L0 with `CLK` at 0. -/
def State.nextBringUp (s : State) : State :=
  if 4 ≤ s.bringUp then s
  else if s.bringUp = 2 then { s with bringUp := 3, power := .l0, clk := [0, 0, 0, 0] }
  else { s with bringUp := s.bringUp + 1 }

/-- DEVICE_RESET: the state after reset, at its step 1; what moves next, the device's place in its group and host memory are not the device's
to reset. -/
def execDeviceReset (s : State) : Out :=
  .next { State.reset with
    agenda := s.agenda, tick := s.tick, nextId := s.nextId, devid := s.devid
    mem := s.mem.filter fun c => decide (hostBase ≤ c.1) }

end Sys2Proof.Machine
end

