-- ==== Sys2Proof/Machine/Power.lean ====
section
/-!
DEFINITION. Power states, the arithmetic clock and thermal holds (R493 to R495).
-/
namespace Sys2Proof.Machine

/-! ### Power states (R493) -/

/-- The condition of L2 and L3; a body wave that is being formed holds a quad too. -/
def State.restful (s : State) : Bool :=
  !s.gangs.any (fun g => g.2.placedNow) && s.formers.isEmpty && s.queue.isEmpty && !s.launches.any (fun l => l.2.status == .waiting) && s.pod.isNone &&
    s.chains.all fun c => c.2.head == c.2.tail

/-- Some core holds no wave. -/
def State.idleCore (s : State) : Bool := (List.range 576).any fun c => !s.waves.any fun w => w.2.core == c && s.holds w.2

/-- The deepest state whose exit latency LTOL allows and whose condition holds; L1 is a state of idle cores alone, and the device is in it
while it has one (log 99). -/
def State.deepest (s : State) : PState :=
  let t := s.hr.ltol.toNat
  if 50000 ≤ t ∧ s.restful then .l3 else if 300 ≤ t ∧ s.restful then .l2 else if 2 ≤ t ∧ s.idleCore then .l1 else .l0

/-- POWER_STATE_ENTER: the device only drops, and not while it wakes or in a thermal hold. -/
def execPowerStateEnter (s : State) : Out :=
  .next (if s.thold || s.waking.isSome then s
    else if s.power.num < s.deepest.num then { s with power := s.deepest } else s)

/-- With no core idle any more the device is in L1 no longer. -/
def State.leaveL1 (s : State) : State := if s.power == .l1 && !s.idleCore then { s with power := .l0 } else s

/-- POWER_WAKE. -/
def execPowerWake (s : State) : Out := .next s.wake

/-- POWER_EXIT_COMPLETE. -/
def execPowerExitComplete (s : State) : Out :=
  .next (match s.waking with
    | none => s
    | some _ => { s with waking := none, power := .l0 })

/-- The dies' cycle counters run (R492, R493): once the dies have started, but in L2 and L3. -/
def State.clockRuns (s : State) : Bool := decide (3 ≤ s.bringUp) && (s.power == .l0 || s.power == .l1)

/-- ARITHMETIC_CLOCK_CHANGE (R494): the clock in MHz, at most 1,400; no result depends on it. -/
def execArithmeticClockChange (mhz : Nat) (s : State) : Out :=
  .next (if 0 < mhz ∧ mhz ≤ 1400 then { s with mhz := mhz } else s)

/-! ### Thermal holds (R495) -/

/-- The device leaves its pod's steps (step 2): LOST goes to the root, what it holds of any step is discarded, and its waits end
with STEP_ABORT. -/
def State.leavePod (s : State) : State :=
  if s.pod.isNone || s.step.left then s
  else
    let n := s.step.stepno
    let s := { s with netOut := s.netOut ++ [Packet.lost n] }
    let steps := (s.sent.foldl (fun (l : List Word) r => if l.contains r.piece.step then l else l ++ [r.piece.step]) [])
    let s := (steps.foldl (fun (s : State) k => s.abortSent k) s).stepPcs true
    let s := s.loseSteps
    { s with
      staged := [], early := [], recvNo := [], refused := [], applyQ := [], seqNos := [], allowance := []
      step := { s.step with
        left := true, reported := none, applying := none, written := false, colArrived := false, openFor := [], fired := [], due := [] } }.raise evStepAbort

/-- A gang for whose image the save area has no room ends (step 3): its waves end, its sequencers stop, and one fault
THERMAL_STOP is reported; it retires once what it has in flight is complete. -/
def State.thermalStop (s : State) (g : Nat) : State :=
  let s := s.report g (FaultRep.of Code.thermalStop (Config.stopPc s.tick) (Config.stopWave s.tick))
  let s := (s.seqs.filter fun q => q.2.gang == g && !q.2.ceased).foldl (fun (s : State) q => s.stopSeq q.1) s
  (s.liveOf g).foldl (fun (s : State) w => s.endWave w.1 false) s

/-- Save one resident gang whole with no budget, or end it; waves of a gang that is being saved already, which have stopped at a `phint`, are
saved whole too. -/
def State.thermalSave (s : State) (g : Nat) : State :=
  match (s.gang g).status with
  | .saving => { s.modGang g fun x => { x with saveAt := some (s.clock x.die) } with
      waves := s.waves.update fun _ (w : Wave) => if w.gang == g then { w with saveMap := none } else w }
  | .resident =>
    let t := s.requestSave g 0
    if (t.gang g).status = .saving then t else t.thermalStop g
  | _ => s

/-- THERMAL_TRIP (R494, R495). -/
def execThermalTrip (_die : Nat) (s : State) : Out :=
  .next (if s.thold then s
    else
      let s := ({ s with thold := true, waking := none }.raise evThermal).leavePod
      (s.gangs.map (·.1)).foldl (fun (s : State) g => s.thermalSave g) s)

/-- Step 4: once no gang holds a quad and nothing is in flight but requests that are parked, the dies are gated as in L2. -/
def State.coolDown (s : State) : State :=
  if s.thold && s.power != .l2 && !s.gangs.any (fun g => g.2.placedNow) && s.ops.all (·.isParked) && s.cmds.all fun c => c.eng == engCopy && c.status == .queued then
    { s with power := .l2 }
  else s

/-- THERMAL_HOLD_END: TRESUME was written and the junctions have cooled; the device exits as from L2. -/
def execThermalHoldEnd (s : State) : Out :=
  .next (if s.thold && s.hr.tresume && s.power == .l2 then
      { s with thold := false, hr := { s.hr with tresume := false }, waking := some .l2 }
    else s)

end Sys2Proof.Machine
end

