-- ==== Sys2Proof/Machine/Events.lean ====
section
/-!
DEFINITION. What a wave, a sequencer and the device do between instructions: fetching a clause and its waits (R55 to R60,
R380), the watchdog (R49), imprecise faults (R458), words that no table assigns and hints (R87), flushes (R227), page walks
(R241), the ends of engine commands (R347, R350) and of launches (R283, R339).
-/
namespace Sys2Proof.Machine

/-! ### Clauses (R55 to R60) -/

/-- The wave whose turn it is traps at its clause header, whose word is `h`, 0 where it could not be fetched (R57, R60). -/
def State.headerTrap (s : State) (code : Code) (info : Word) (h : BitVec 32) : State :=
  if s.unfinished s.cur then s.hold
  else s.trapIn s.cur { code := code, info := info, counts := false, header := some h }

/-- Fetch the words of a clause whose header is known, and stand at word `idx` in a phase. -/
def State.fetchBody (s : State) (h : BitVec 32) (idx : Nat) (ph : Phase) : State :=
  let w := s.wave
  match s.fetchWords w.core s.myGang.asid (w.pc + 4).toNat (hdrCount h) with
  | .error (.inl s) => s.hold
  | .error (.inr (c, va)) => s.headerTrap c (faultInfo va false) (if w.unfetched then 0 else h)
  | .ok (ws, s) => (s.modWave fun w => { w with
      hdr := h, words := ws, idx := idx, phase := ph, resume := .no, blockedAt := none, held := false }).forget (waveWaiter s.cur)

/-- The loop that was not entered ends at the wave's address: fetch goes on behind the instruction there, whose length its opcode gives (R36). A
fault of that word is one of the fetch (log 88). -/
def State.fetchPast (s : State) : State :=
  let w := s.wave
  match s.fetchWord w.core s.myGang.asid w.pc.toNat with
  | .wait s => s.hold
  | .fault c => s.headerTrap c (faultInfo w.pc.toNat false) 0
  | .ok x s => (s.modWave fun w => w.fetchAt (w.pc + 4 * BitVec.ofNat 64 (opWords x))).forget (waveWaiter s.cur)

/-- A wave fetches its clause. -/
def State.fetchClause (s : State) : State :=
  let w := s.wave
  let start (i : Nat) : State :=
    match s.fetchWord w.core s.myGang.asid w.pc.toNat with
    | .wait s => s.hold
    | .fault c => s.headerTrap c (faultInfo w.pc.toNat false) 0
    | .ok h s =>
      if hdrCount h = 0 ∨ hdrClass h = 3 ∨ 6 ≤ hdrClass h then s.headerTrap Code.illegal (h.setWidth 64) h
      else s.fetchBody h i .wait
  match w.resume with
  | .kept i hw => s.fetchBody w.hdr i (if hw then .wait else .issue)
  | .fresh i => start i
  | .past => s.fetchPast
  | .no => start 0

/-- A sequencer fetches its clause (R58, R380); a restored one goes on at its word. -/
def State.fetchSeq (s : State) : State :=
  let q := s.sq
  match s.fetchWord q.core q.asid q.mpc.toNat with
  | .wait s => s
  | .fault c => s.seqFault c false
  | .ok h s =>
    if hdrCount h = 0 ∨ hdrClass h ≠ 3 then s.seqFault Code.illegal false
    else match s.fetchWords q.core q.asid (q.mpc + 4).toNat (hdrCount h) with
      | .error (.inl s) => s
      | .error (.inr (c, _)) => s.seqFault c false
      | .ok (ws, s) => (s.modSeq fun q => { q with hdr := h, words := ws, phase := .issue }).forget (seqWaiter s.seq)

/-- CLAUSE_FETCH: of the wave or the sequencer whose turn it is. -/
def execClauseFetch (s : State) : Out :=
  .next (match s.party with
    | .wave => if s.wave.status == .live && s.wave.phase == .fetch then s.fetchClause else s
    | .seq => if (s.sq.status == .run || s.sq.status == .wait) && s.sq.phase == .fetch then s.fetchSeq else s
    | .col => s)

/-- Memory operations of a wave that a wait count counts (R60). -/
def State.counted (s : State) (k : Nat) (c : Counted) : Nat := (s.ops.filter fun o => o.wave == k && o.counted == c).length

/-- No engine command of a wave has its completion outstanding (R56, R347). -/
def State.engIdle (s : State) (k : Nat) : Bool :=
  s.cmds.all (fun c => c.wave != k || c.dreg.isNone) && !s.ops.any fun o => o.wave == k && o.emits

/-- The wait conditions of a clause header hold together (R56, R60). -/
def State.waitsMet (s : State) (k : Nat) (h : BitVec 32) : Bool :=
  let n := h.toNat
  let vmw := field n 11 8
  let smw := field n 15 12
  (vmw == 15 || decide (s.counted k .vm ≤ vmw)) && (smw == 15 || decide (s.counted k .sm ≤ smw)) &&
    (!bitAt n 16 || !s.tracked k) && (!bitAt n 17 || s.engIdle k)

/-- CLAUSE_WAIT_MET: the first instruction may issue; a wave that resumed beyond the clause goes on at the next header
(R461). -/
def execClauseWaitMet (s : State) : Out :=
  let w := s.wave
  .next (if s.party ≠ .wave ∨ w.status ≠ .live ∨ w.phase ≠ .wait then s
    else if !s.waitsMet s.cur w.hdr then s.block
    else if hdrCount w.hdr ≤ w.idx then s.modWave fun w => { w.fetchAt w.nextHeader with blockedAt := none, held := false }
    else s.modWave fun w => { w with phase := .issue, blockedAt := none, held := false })

/-! ### The watchdog (R49) -/

/-- The next issue of a wave is replaced by WATCHDOG. -/
def Wave.overBudget (w : Wave) : Bool :=
  w.canIssue && !w.inHandler && w.waiting.isNone && w.budget != 0 && decide (w.budget.toNat ≤ w.icount.toNat)

/-- WATCHDOG_BUDGET. -/
def execWatchdogBudget (s : State) : Out :=
  .next (if s.party ≠ .wave ∨ !s.wave.overBudget then s
    else if s.unfinished s.cur then s.hold
    else s.trapIn s.cur { code := Code.watchdog, info := 0, counts := false })

/-- A wave has been blocked for its stall limit. -/
def State.stalled (s : State) (k : Nat) : Bool :=
  let w := s.waveAt k
  w.status == .live && !w.inHandler && w.phase != .fetch && w.stall != 0 && !s.midInstr k && !s.unfinished k &&
    match w.blockedAt with
    | some t => decide (t + 4096 * w.stall.toNat ≤ s.clock (dieOf w.core))
    | none => false

/-- WATCHDOG_STALL. -/
def execWatchdogStall (s : State) : Out :=
  .next (if s.stalled s.cur then s.trapIn s.cur { code := Code.watchdog, info := 1, counts := false } else s)

/-! ### Imprecise faults (R458) -/

/-- A wave stands at an instruction boundary at which it can take a fault that is pending. -/
def State.takesFault (s : State) (k : Nat) : Bool :=
  let w := s.waveAt k
  w.status == .live && !w.inHandler && w.phase != .fetch && !w.pend.isEmpty && !s.midInstr k && !s.unfinished k

/-- IMPRECISE_FAULT_DELIVER: the oldest pending fault of wave `w`. -/
def execImpreciseFaultDeliver (w : Nat) (s : State) : Out :=
  .next (match (s.waveAt w).pend with
    | [] => s
    | f :: rest =>
      if !s.takesFault w then s
      else (s.setWaveAt w { s.waveAt w with pend := rest }).trapIn w { code := f.code, info := f.pc, imp := true, counts := false })

/-! ### Words without a meaning of their own (R87) -/

/-- UNASSIGNED_OPCODE: a word that no table assigns raises ILLEGAL at issue. -/
def execUnassignedOpcode (_w : BitVec 32) (s : State) : Out :=
  match s.party with
  | .wave => .next (s.issue .illegal id)
  | .seq => s.seqIssue false id
  | .col => .next s

/-- HINT: the one-word codes 0xf0 to 0xff do nothing in every class (R87, R201), in a trap handler too: that R198, which makes other words of
the vector class illegal there, does not reach them is the model's choice (log 107). -/
def execHint (_lo : BitVec 4) (s : State) : Out :=
  match s.party with
  | .wave => .next (s.issue .go fun s => s.retire 1)
  | .seq => s.seqIssue true fun s => s.modSeq (·.retire 1)
  | .col => .next s

/-! ### Flushes and walks (R227, R241) -/

/-- REDUCE_FLUSH_APPLY: the oldest flush of a line. -/
def execReduceFlushApply (line : Nat) (s : State) : Out :=
  .next (match s.flushQ.find? fun r => r.line == line with
    | none => s
    | some r => s.doFlush r)

/-- The first physical address without memory that a walk reads, from a table of a level on (R232, R235). -/
def State.walkHole (s : State) (va : Nat) : (levels : List (Nat × Nat)) → (table : Nat) → Option Nat
  | [], _ => none
  | (shift, bits) :: rest, table =>
    let a := table + 8 * (va / 2 ^ shift % 2 ^ bits)
    let p := s.load64 a
    if !hasMemory a then some a
    else if !pteV p || pteLeaf p then none
    else State.walkHole s va rest (Bits.of p 51 9 * 2 ^ 9 / (if shift = 43 then 2 ^ 16 else 2 ^ 9) * (if shift = 43 then 2 ^ 16 else 2 ^ 9))

/-- The same for a whole walk. -/
def State.hole (s : State) (asid : BitVec 16) (va : Nat) : Option Nat :=
  let a := s.hr.asidtab.toNat + 8 * asid.toNat
  let e := s.load64 a
  if !hasMemory a then some a
  else if !bitAt e.toNat 0 then none
  else s.walkHole va [(43, 13), (30, 13), (24, 6), (18, 6)] (Bits.of e 51 16 * 2 ^ 16)

/-- A queued miss lies inside a page that a walk has found. -/
def Miss.inside (m : Miss) (asid : BitVec 16) (page span : Nat) : Bool :=
  m.asid == asid && m.page / span == page / span

/-- The miss whose walk ends next: of some die, one of the 64 oldest, which its walkers have taken (R241; log 81). -/
def State.nextMiss (s : State) : Option Miss :=
  match pickOf (dedup (s.missQ.map (·.die))) (Config.walkPick s.tick).1 with
  | none => none
  | some d => pickOf ((s.missQ.filter fun m => m.die == d).take 64) (Config.walkPick s.tick).2

/-- What a walk has found goes to the waiters of a miss, and, where it is a translation, to their TLBs. -/
def State.serveMiss (s : State) (m : Miss) (r : Except Code (Word × Nat)) : State :=
  m.waiters.foldl (fun (s : State) w => match r with
    | .ok (p, span) =>
      { s.tlbAdd w.2 m.asid (m.page * 2 ^ 18) p span with walked := s.walked ++ [⟨m.asid, m.page, w.1, none, p, span⟩] }
    | .error c => { s with walked := s.walked ++ [⟨m.asid, m.page, w.1, some c, 0, 1⟩] }) s

/-- PAGE_WALK: a queued miss is walked; a page goes to the die's L2 TLB and serves every miss of the die that is queued inside it, and a fault
goes to each waiter. -/
def execPageWalk (s : State) : Out :=
  match s.nextMiss with
  | none => .next s
  | some m =>
    let va := m.page * 2 ^ 18
    match s.hole m.asid va with
    | some a => .fault (.noMemory a)
    | none => match s.walk m.asid va with
      | .ok (p, span) =>
        let served (q : Miss) : Bool := q.die == m.die && q.inside m.asid m.page span
        let t := { s with missQ := s.missQ.filter fun q => !served q }.tlbAdd (tlbL2 m.die) m.asid va p span
        .next ((s.missQ.filter served).foldl (fun (t : State) q => t.serveMiss q (.ok (p, span))) t)
      | .error c => .next ({ s with missQ := s.missQ.erase m }.serveMiss m (.error c))

/-! ### Ends of engine commands (R347 to R350) -/

/-- The DENIED flag of a completion word (R443, R444). -/
def Cmd.wordDenied (c : Cmd) : Word := c.word ||| if c.denied then 0x1000 else 0

/-- The end of an `fblkr`: the bytes are written to its destination (R444). -/
def Eng.bulkEnd (e : Eng) (c : Cmd) (dst : Nat) (lv : Bool) : Eng := e.writeOut c.gang ⟨lv, BitVec.ofNat 64 dst⟩ c.erred c.data

/-- ENGINE_COMPLETION: a command whose work is done writes what it writes, and its register gets the completion word; that of a
saved gang goes into the image. -/
def execEngineCompletion (cmd : Nat) (s : State) : Out :=
  .next (match s.cmdAt cmd with
    | none => s
    | some c =>
      let run := c.status == .running
      let done := run && c.pieces.isEmpty
      let end_ (f : Eng → Eng) : State := if run && c.sorted then s.engineStep c fun e => State.ended (f e) c else s
      match c.op with
      | .sort .. => end_ (·.sortEnd c)
      | .merge .. => end_ (·.sortEnd c)
      | .table .. => end_ (·.sortEnd c)
      | .gather .. => end_ (·.gdeEnd c)
      | .scatter .. => end_ (·.gdeEnd c)
      | .copy .. => end_ (·.copyEnd c)
      | .park .. => end_ (·.copyEnd c)
      | .drain .. => end_ (·.copyEnd c)
      | .collective .. =>
        if c.status == .done && !s.unanswered c then s.finish c (c.word ||| if c.denied then 0x2000 else 0) else s
      | .bulkWrite _ => if done then s.finish c (if c.erred then s.refusal engFab stMemErr else c.wordDenied) else s
      | .bulkRead dst lv =>
        if done then s.engineStep c fun e => State.ended (e.bulkEnd c dst lv) { c with word := c.wordDenied } else s
      | .fabLoad => if done then s.finish c (BitVec.ofNat 64 (fromBytes (c.data.take 8))) else s
      | .fabStore _ => if done then s.finish c c.wordDenied else s
      | .claimDone => s.claimDoneStep c
      | .claimPost ps => s.claimPostStep c ps
      | .linkDrain .. => s
      | .linkEnable .. => s)

/-! ### The end of a launch (R283, R323, R339) -/

/-- Every gang of a launch has been placed and has retired, and a reserving loop has no item left (R323). -/
def State.gangsOver (s : State) (l : Nat) : Bool :=
  let x := s.launch l
  let gs := s.gangs.filter fun g => g.2.launch == l
  !gs.isEmpty && gs.all (fun g => g.2.status == .retired) &&
    (x.kernel.mode != 1 || (x.bodyPhase && x.item.all (fun i => i.2.state == 3) && !s.formers.any fun f => f.loop == l))

/-- Nothing of a launch is in flight. Its remote writes are performed when their step is applied, or it is aborted, which its completion record
then tells (R282, R416, R417; log 119). -/
def State.launchQuiet (s : State) (l : Nat) : Bool :=
  !s.ops.any (fun o => o.launch == l) && !s.cmds.any (fun c => (s.gang c.gang).launch == l) && !s.drains.any (fun d => d.launch == l) &&
    s.sent.all (fun r => r.launch != l || r.acked || r.col) && (s.launch l).stepPc.isNone

/-- Lines that hold what a launch has added or stored and HBM4 does not: reducing, being flushed, shadowed, or DIRTY. -/
def State.sumLines (s : State) (l : Nat) : List Nat :=
  dedup ((s.reduce.filter fun r => r.launches.contains l).map (·.line) ++ (s.flushQ.filter fun r => r.launches.contains l).map (·.line) ++
    (s.shadow.filter fun h => h.launches.contains l).map (·.line) ++ (s.dirty.filter fun d => d.launches.contains l).map (·.line))

/-- LAUNCH_COMPLETION: the sums of a launch that is over are flushed or rounded in HBM4, its other lines are written back, and what is left of
its trace is written; once nothing is left its completion record is written (R259, R283). -/
def execLaunchCompletion (launch : Nat) (s : State) : Out :=
  .next (if (s.launch launch).status ≠ .ready ∨ !s.gangsOver launch ∨ !s.launchQuiet launch then s
    else
      let s := (s.sumLines launch).foldl (fun (s : State) n => (s.clean n).writeBack n) s
      let s := (State.drainTraces s.traceFuel s).traceHeaders launch
      if (s.sumLines launch).isEmpty then (s.stir launch).completeLaunch launch (s.launch launch).lastDie else s)

end Sys2Proof.Machine
end

