-- ==== Sys2Proof/Machine/Turn.lean ====
section
/-!
DEFINITION. Who moves next and what a turn is: the instruction or event of a wave's, a sequencer's or the collective engine's
turn, what the device may do by itself, evictions, host stores, and what follows every step.
-/
namespace Sys2Proof.Machine

/-! ### The instruction of a turn -/

/-- The form of `lnkctl` that S[B] selects (R448). -/
noncomputable def State.resolve (s : State) (i : Instr) : Instr :=
  match i with
  | .lnkctlRead d a b =>
    match s.lnkctlSel b with
    | 1 => .lnkctlHold d a b
    | 2 => .lnkctlRelease d a b
    | 3 => .lnkctlDisable d a b
    | 4 => .lnkctlEnable d a b
    | _ => .lnkctlRead d a b
  | i => i

/-- The instruction at word `idx` of a clause: a long form whose second word lies beyond COUNT is ILLEGAL (R59). -/
noncomputable def clauseInstr (cls count : Nat) (words : List (BitVec 32)) (idx : Nat) : Instr :=
  let w := nth 0 words idx
  if opWords w = 2 ∧ count ≤ idx + 1 then .unassignedOpcode w else decode cls w (nth 0 words (idx + 1))

/-- The instruction at a wave's place. -/
noncomputable def Wave.instr (w : Wave) : Instr := clauseInstr (hdrClass w.hdr) (hdrCount w.hdr) w.words w.idx

/-- The instruction at a sequencer's place. -/
noncomputable def Seqr.instr (q : Seqr) : Instr := clauseInstr 3 (hdrCount q.hdr) q.words q.widx

/-- A wave of a gang being saved has to stop now: its budget is used up and it stands at an instruction boundary (R466). -/
def State.mustStop (s : State) (k : Nat) : Bool :=
  let w := s.waveAt k
  let g := s.gang w.gang
  g.status == .saving && (match g.saveAt with
    | some t => decide (t ≤ s.clock g.die)
    | none => false) && !s.midInstr k && !s.unfinished k

/-- A wave stands behind an atomic whose request is parked: it issues nothing until the atomic is complete (R257, R465). -/
def State.behindAtomic (s : State) (k : Nat) : Bool :=
  let w := s.waveAt k
  w.phase == .issue && !w.inHandler && s.ops.any fun o => o.wave == k && o.atomic && w.waiting != some (.atomic o.id)

/-- What the wave whose turn it is does before its next issue, without a slot of its pipe: it stops for a save, fetches its clause, or takes a
fault that is pending. -/
noncomputable def State.waveEvent (s : State) : Option Instr :=
  let w := s.wave
  if s.mustStop s.cur then some (.saveBudgetExpire w.gang)
  else if w.phase = .fetch then some .clauseFetch
  else if s.takesFault s.cur then some (.impreciseFaultDeliver s.cur)
  else none

/-- What it does then: it waits at its header, or issues its instruction or what takes its place (R49, R60). -/
noncomputable def State.waveInstr (s : State) : Instr :=
  let w := s.wave
  if w.phase = .wait then .clauseWaitMet
  else if w.overBudget then .watchdogBudget
  else s.resolve w.instr

/-- What the sequencer whose turn it is does. -/
noncomputable def State.seqInstr (s : State) : Option Instr :=
  let q := s.sq
  if q.status ≠ .run ∧ q.status ≠ .wait then none
  else if q.phase = .fetch then some .clauseFetch
  else some q.instr

/-- The instruction at the place of the running collective program. -/
noncomputable def State.colInstrAt (s : State) : Option Instr :=
  match s.col with
  | none => none
  | some r => match s.cmdAt r.cmd with
    | none => none
    | some c => match c.op with
      | .collective _ _ _ ws _ => some (decode 4 (nth 0 ws r.pos) 0)
      | _ => none

/-- Give a wave, a sequencer or the collective engine its turn. -/
def State.turnOf (s : State) (p : Party) (k : Nat) : State :=
  match p with
  | .wave => { s with party := .wave, cur := k }
  | .seq => { s with party := .seq, seq := k }
  | .col => { s with party := .col }

/-- An instruction without an encoding: what the device does by itself or what reaches it from outside. -/
def Instr.isEvent (i : Instr) : Bool := (encode i).isEmpty

/-! ### What needs no instruction -/

/-- A line leaves its L2 slice: a REDUCE line is flushed, a shadow is rounded, a DIRTY line is written back (R224, R227,
R230). -/
def State.evict (s : State) (line : Nat) : State := ((s.startFlush line).roundLine line).writeBack line

/-- The host stores bytes (R232). -/
def State.hostWrite (s : State) (pa : Nat) (bs : List Byte) : Out :=
  match (upto pa bs.length).find? fun a => !hasMemory a with
  | some a => .fault (.noMemory a)
  | none => .next (s.physPut pa bs)

/-- A channel performs what it can of an operation. -/
def State.performIn (s : State) (op chan : Nat) : State := if s.canPerform op chan then s.perform op chan else s

/-! ### What the device may do next (log 1) -/

/-- The turns that are open. -/
def State.turns (s : State) : List Act :=
  ((s.waves.filter fun w => w.2.status == .live).map fun w => Act.wave w.1) ++
    ((s.seqs.filter fun q => q.2.status == .run || q.2.status == .wait).map fun q => Act.seq q.1) ++
    (match s.col with
      | some _ => [Act.col]
      | none => [])

/-- TLBs that a translation of the L2 TLB of a die may be put into: those of parties that are there. -/
def State.tlbUnits (s : State) : List Nat :=
  dedup ((s.waves.map fun w => w.2.core) ++ (s.seqs.map fun q => tlbMtx q.2.core) ++ s.cmds.map Cmd.tlb)

/-- What memory may do. -/
def State.memActs (s : State) : List Act :=
  (s.ops.flatMap fun o => (dedup (o.acc.map Acc.chan)).map fun c => Act.perform o.id c) ++
    ((dedup (s.dirty.map (·.line) ++ s.reduce.map (·.line) ++ s.shadow.map (·.line))).map Act.evict) ++
    ((List.range s.tlb.length).map Act.tlbDrop) ++ ((List.range s.ro.length).map Act.roDrop) ++
    ((List.range s.tlb.length).flatMap fun i => s.tlbUnits.map (Act.tlbFill i)) ++ (if s.bringUp < 4 then [Act.bringUp] else [])

/-- Events of operations, walks and flushes. -/
noncomputable def State.opEvents (s : State) : List Instr :=
  (s.ops.flatMap fun o => [.loadDataArrive o.id, .trackerAck o.id, .atomicResultReturn o.id]) ++
    (s.drains.map fun d => .drainPerformed d.id) ++ (s.flushQ.map fun r => .reduceFlushApply r.line) ++ [.pageWalk, .invalidateComplete]

/-- Events of gangs, queues, launches, bins and chains. -/
noncomputable def State.gangEvents (s : State) : List Instr :=
  (s.gangs.flatMap fun g => [.gangRetire g.1, .gangRestore g.1 0, .gangRestore g.1 1, .gangRestore g.1 2, .gangRestore g.1 3, .saveWrite g.1, .saveBudgetExpire g.1, .scheduleEntryStart g.1]) ++
    (s.queue.flatMap fun e => [.gangAge e.1, .gangBlocking e.1]) ++
    (s.launches.flatMap fun l => [.launchCompletion l.1, .bodyPhaseStart l.1, .bodyWaveForm l.1 0, .bodyWaveForm l.1 1, .bodyWaveForm l.1 2,
      .bodyWaveForm l.1 3]) ++
    (s.pitchReqs.map fun r => .pitchRequest r.id) ++ ((List.range s.pitchRels.length).map .pitchRelease) ++
    (s.bins.map fun b => .binTimerExpire (b.1 / 256) (b.1 % 256)) ++
    (s.chains.flatMap fun c => [.chainLaunch c.1, .chainSignal c.1, .chainNodedef c.1, .chainNop c.1]) ++
    ((List.range 4).map .gangPlace)

/-- Events of the engines. -/
noncomputable def State.engineEvents (s : State) : List Instr :=
  ((List.range 4).flatMap fun d => [.sortStart d, .gdeStart d]) ++ (dedup (s.cmds.map (·.unit))).map .copyStart ++ [.collectiveStart] ++
    s.cmds.flatMap fun c => [.engineCompletion c.id, .linkEnableTimeout c.id]

/-- Events of the pod's steps, of power and of the checkpoint engine. -/
noncomputable def State.deviceEvents (s : State) : List Instr :=
  [.stepArrivedSend, .stepTimeout, .stepApplyComplete] ++ (s.root.map fun r => .stepOutcomeResend r.step) ++
    (s.noRoute.map fun r => .noRouteTimeout (BitVec.ofNat 16 r.1)) ++
    (s.sent.map fun r => .pieceRetransmit r.piece.dst r.piece.step r.piece.seqNo) ++ [.powerStateEnter, .powerExitComplete, .checkpointDone false]

/-- Everything that may move next when the agenda names nothing. -/
noncomputable def State.acts (s : State) : List Act :=
  s.turns ++ s.memActs ++ (s.opEvents ++ s.gangEvents ++ s.engineEvents ++ s.deviceEvents).map .event

/-- What moves next: the head of the agenda, or any of what may move (log 1). -/
noncomputable def State.nextAct (s : State) : Act × State :=
  match s.agenda with
  | a :: rest => (a, { s with agenda := rest })
  | [] => (nth (Act.event .pageWalk) s.acts (Config.pick s.tick % s.acts.length), s)

/-! ### What follows every step -/

/-- The dies' cycle counters advance by as many cycles as the step took (log 2). -/
def State.advanceClocks (s : State) : State :=
  if s.clockRuns then
    { s with clk := (List.range 4).map fun d => nth 0 s.clk d + BitVec.ofNat 64 (Config.cycles s.tick d) }
  else s

/-- The checkpoint engine has copied some further lines. -/
def State.ckptStep (s : State) : State := if s.hr.ckStatus = 1 then s.ckptCopy (Config.ckptLines s.tick) else s

/-- Lines that the L2 holds for more than reading. -/
def State.l2Lines (s : State) : List Nat := dedup (s.dirty.map (·.line) ++ s.reduce.map (·.line) ++ s.shadow.map (·.line))

/-- All of some words of `n` bits lie within `d` of each other, so that a base and a signed delta of as many values give each of them. -/
def nearWords (n d : Nat) (ws : List Nat) : Bool :=
  let xs := ws.map fun w => signed n (w + 2 ^ n - ws.headD 0)
  decide (xs.foldl max 0 - xs.foldl min 0 ≤ (d : Int))

/-- One of the encodings of R225 fits the 128 bytes of a line: ZERO and REP8 (one word repeated), B4D1, or B8D2. That a base and a delta are
added without carry out of their width is the model's reading (log 120). -/
def compresses (bs : List Byte) : Bool :=
  let w4 := (List.range 32).map fun i => numAt bs (4 * i) 4
  let w8 := (List.range 16).map fun i => numAt bs (8 * i) 8
  w8.all (· == w8.headD 0) || nearWords 32 255 w4 || nearWords 64 65535 w8

/-- Half lines of 64 bytes that a line takes in its slice: a compressed one is one, and a shadow's companions are there beside it (R225,
R229). -/
def State.halfLines (s : State) (line : Nat) : Nat :=
  match s.shadow.find? fun h => h.line == line with
  | some h => 2 + h.elems.length / 16
  | none => if !s.reduce.any (fun r => r.line == line) && compresses (s.load (128 * line) 128) then 1 else 2

/-- A slice of 3 MiB has 49,152 half lines (R3): where its lines take more, a line leaves it. -/
def State.l2Trim : (fuel : Nat) → State → State
  | 0, s => s
  | n + 1, s =>
    let ls := s.l2Lines
    let slice (l : Nat) : List Nat := ls.filter fun k => sameSlice (128 * k) (128 * l)
    match ls.find? fun l => decide (49152 < (slice l).foldl (fun n k => n + s.halfLines k) 0) with
    | none => s
    | some l => match pickOf (slice l) (Config.victim (s.tick + n)) with
      | some k => State.l2Trim n (s.evict k)
      | none => s

/-- A turn that changes a sequencer's standing has used what walks returned to it. -/
def State.seqUsed (s t : State) (k : Nat) : State := if t.seqs.find k = s.seqs.find k then t else t.forget (seqWaiter k)

/-- What the device does behind every step: entries of traces are written, launches that watchpoints and arrival words have fired are submitted,
faults of sequencers are delivered, slices that may be too full lose lines (no line takes more than 10 half lines), and time passes. -/
def State.tidied (s : State) : State :=
  let s := State.drainTraces s.traceFuel s
  let s := if s.fires.isEmpty then s else s.submitFires
  let s := s.seqs.foldl (fun (s : State) q => s.seqDeliver q.1) s
  let s := if 10 * s.l2Lines.length ≤ 49152 then s else State.l2Trim s.l2Lines.length s
  let s := s.reissueDrains.coolDown.leaveL1.ckptStep.advanceClocks
  { s with tick := s.tick + 1 }

/-! ### Placing an instruction (log 5) -/

/-- The class, the first in the order of log 4, in which a word is assigned. -/
noncomputable def tableClass (w w2 : BitVec 32) : (cls : List Nat) → Nat
  | [] => 0
  | c :: cs => match decode c w w2 with
    | .unassignedOpcode _ => tableClass w w2 cs
    | _ => c

/-- The kernel of the launch under which a placed instruction runs: all registers, every barrier scope, no trap entry. -/
def Kernel.whole : Kernel := { Kernel.blank with vregs := 256, sregs := 128, wg := 1, waves := 1, mseq := true, bscope := 6, vault := 4096 }

/-- A launch, a gang of one workgroup, its wave and its sequencer, all resident, numbered from `n` on, on a device that is up; 1 GiB of HBM4 is mapped
at 0 with every right. -/
def State.placeGangFor (s : State) (n : Nat) (w : Wave) (q : Seqr) : State :=
  let x : Launch := { Launch.blank with kernel := Kernel.whole, gangs := 1, diemask := 1, grants := 7, status := .ready, placedN := 1 }
  let g : Gang := { Gang.blank with launch := n, status := .resident, wgs := [⟨0, 1, true, freshNb Kernel.whole, 0⟩], vaultSize := 4096 }
  { s with
    nextId := n + 2, launches := s.launches.set n x, gangs := s.gangs.set n g, waves := s.waves.set (n + 1) w
    seqs := s.seqs.set (seqKey n 0) q, bringUp := 4, power := .l0, waking := none, rr := s.rr.set 0 7
    tlb := [0, tlbMtx 0, tlbCol, tlbL2 0].map (fun u => ⟨u, 0, 0, 4096, 0x1f⟩) ++ s.tlb }

/-- The clause of a placed instruction: its header, which waits for nothing, and its words. -/
def placedHdr (cls n : Nat) : BitVec 32 := BitVec.ofNat 32 (0xff00 + 16 * cls + n)

/-- A wave that stands before a clause of its own. -/
def placedWave (n cls : Nat) (words : List (BitVec 32)) : Wave :=
  { Wave.blank with gang := n, status := .live, sregN := 128, vregN := 256, phase := .issue, hdr := placedHdr cls words.length, words := words }

/-- A sequencer that stands before a clause of its own. -/
def placedSeq (n : Nat) (words : List (BitVec 32)) : Seqr :=
  { Seqr.blank with gang := n, status := .run, phase := .issue, hdr := placedHdr 3 words.length, words := words }

/-- Place an instruction before the party that its class belongs to, which has the next turn: a sequencer for the matrix class,
the collective engine for the instructions of its programs, a wave for the rest. -/
noncomputable def State.placeWord (s : State) (_nbits w : Nat) : State :=
  let w1 : BitVec 32 := BitVec.ofNat 32 w
  let w2 : BitVec 32 := BitVec.ofNat 32 (w / 2 ^ 32)
  let words := if opWords w1 = 2 then [w1, w2] else [w1]
  let cls := tableClass w1 w2 [0, 1, 2, 3, 4, 5]
  let n := s.nextId
  let s := s.placeGangFor n (placedWave n cls words) (placedSeq n words)
  let op := w1.toNat / 2 ^ 24
  if cls = 3 then { s with agenda := [Act.seq (seqKey n 0)] }
  else if cls = 4 ∧ 0x19 ≤ op ∧ op ≤ 0x1d then
    let c : Cmd :=
      { id := n + 2, eng := 4, unit := 0, core := 0, wave := n + 1, waveid := 0, gang := n, asid := 0, pc := 4
        dreg := some 0, op := CmdOp.collective 0 1 16 [w1] [], status := .running, word := 0, data := [], acq := none
        tracker := true, reserved := false, deadline := none, pieces := [], denied := false, bad := [], pos := 0, passes := 0, spoiled := false,
        fired := [] }
    { s with nextId := n + 3, cmds := s.cmds ++ [c], col := some ⟨n + 2, 0, 0, none, []⟩, agenda := [Act.col] }
  else { s with agenda := [Act.wave (n + 1)] }

end Sys2Proof.Machine
end

