-- ==== Sys2Proof/Machine/Flags.lean ====
section
/-!
DEFINITION. The lane predicates vp0 to vp7 as the flags of the machine: conditions of the compares, writes of a
predicate, and the votes (R174, R182, R183, R192, R194).
-/
namespace Sys2Proof.Machine

/-- The six conditions of `vcmp`. -/
inductive Cond where
  | eq
  | ne
  | lt
  | le
  | gt
  | ge
  deriving DecidableEq, Repr

/-- A condition on an order; `none` is an unordered pair, for which only `.ne` holds (R183). -/
def Cond.holds : Cond → Option Ordering → Bool
  | .eq, some .eq => true
  | .ne, some .eq => false
  | .ne, _ => true
  | .lt, some .lt => true
  | .le, some .lt => true
  | .le, some .eq => true
  | .gt, some .gt => true
  | .ge, some .gt => true
  | .ge, some .eq => true
  | _, _ => false

/-- The order of two lanes under a compare type (R182): FP32, signed or unsigned. -/
def cmpLanes : ETy → Lane → Lane → Option Ordering
  | .flt f, a, b => (f.decode a.toNat).cmp (f.decode b.toNat)
  | .int g _, a, b => some (compare (valueOf g 32 a.toNat) (valueOf g 32 b.toNat))

/-- Write the bits of vp`d` for the lanes that take part under vp`p`; the others keep theirs (R17, R174). -/
def Wave.writePred (w : Wave) (p d : Nat) (f : Nat → Bool) : Wave :=
  w.setPred d (laneMask fun l => if w.takes p l then f l else bitAt (w.pred d).toNat l)

/-- `vcmp`: it runs once whatever the extent, MOD is ignored, and TYPE must be 0 or the group's type (R182). -/
def State.vcmp (s : State) (x : VArgs) (code : Nat) (c : Cond) (d : BitVec 3) (a b : BitVec 8) : Out :=
  let ty := typeFor code [code] x.type
  s.vector x ty.isSome [(vOp [a.toNat] 0).fe x.fe, (vOp [b.toNat] 1).fe x.fe] [] fun w =>
    w.writePred x.pred d.toNat fun l =>
      c.holds (cmpLanes (ty.getD (.int false 32)) (w.lane a.toNat l) (w.lane b.toNat l))

/-- A predicate-logic form (R192). -/
def State.plogic (s : State) (d a b : BitVec 3) (f : Bool → Bool → Bool) : Out :=
  let x := s.wave.compact
  s.vector x true [] [] fun w =>
    w.writePred x.pred d.toNat fun l => f (bitAt (w.pred a.toNat).toNat l) (bitAt (w.pred b.toNat).toNat l)

/-- A vote over the lanes that take part: `f` gets the bits of vpA in those lanes (R194). -/
def State.vote (s : State) (d : BitVec 7) (a : BitVec 3) (f : List Bool → Word) : Out :=
  let x := s.wave.compact
  s.vector x true [] [sOp d.toNat] fun w =>
    let bits := ((List.range 32).filter (w.takes x.pred)).map (bitAt (w.pred a.toNat).toNat)
    w.setS d.toNat (f bits)

end Sys2Proof.Machine
end

