-- ==== Sys2Proof/Machine/Vector.lean ====
section
/-!
DEFINITION. Vector-class instructions (07_vector_instructions.md, R170 to R201).
-/
namespace Sys2Proof.Machine

/-! ### Arithmetic (R177, R178) -/

/-- A two-source element operation under MOD (R177). -/
def State.vbin (s : State) (x : VArgs) (ty : Option ETy) (d a b : BitVec 8) (f : ETy → Nat → Nat → Nat) : Out :=
  let t := ty.getD (.int false 32)
  s.blockOp x ty.isSome d.toNat [(a.toNat, 0, bitAt x.fe 0), (b.toNat, 1, bitAt x.fe 1)] [] fun vals l =>
    some (lift2 t.width (f t) (val vals 0 l) (val vals 1 l))

/-- A sum or difference delivered to the element (R172, R177). -/
def addElem (x : VArgs) (sub : Bool) : ETy → Nat → Nat → Nat
  | .flt f, a, b =>
    let v := f.modded x.modB b
    f.deliver x.rnd x.sat ((f.modded x.modA a).add x.rnd (if sub then v.neg else v))
  | .int g n, a, b =>
    let v := valueOf g n b
    deliverInt x.sat g n (valueOf g n a + if sub then -v else v)

/-- The smaller or larger of two elements (R178). -/
def pickElem (hi : Bool) : ETy → Nat → Nat → Nat
  | .flt f, a, b => if hi then f.max a b else f.min a b
  | .int g n, a, b =>
    if (if hi then decide (valueOf g n b ≤ valueOf g n a) else decide (valueOf g n a ≤ valueOf g n b)) then a else b

/-- MOD on the bits of the two operands of a minimum or maximum. -/
def pickMod (x : VArgs) (hi : Bool) : ETy → Nat → Nat → Nat
  | .flt f, a, b => pickElem hi (.flt f) (f.modBits x.modA a) (f.modBits x.modB b)
  | .int g n, a, b => pickElem hi (.int g n) a b

/-- The addend or bound of a three-source form: C in the long form; D, under policy 0, in the compact form (R177). -/
def VArgs.third (x : VArgs) (d : BitVec 8) : Nat × Nat × Bool := match x.c with
  | some c => (c, 2, bitAt x.fe 2)
  | none => (d.toNat, 2, false)

/-- A three-source element operation (R177). -/
def State.vtri (s : State) (x : VArgs) (ty : Option ETy) (d a b : BitVec 8) (f : ETy → Nat → Nat → Nat → Nat) : Out :=
  let t := ty.getD (.int false 32)
  s.blockOp x ty.isSome d.toNat [(a.toNat, 0, bitAt x.fe 0), (b.toNat, 1, bitAt x.fe 1), x.third d] [] fun vals l =>
    some (lift3 t.width (f t) (val vals 0 l) (val vals 1 l) (val vals 2 l))

def State.vaddOp (s : State) (x : VArgs) (d a b : BitVec 8) : Out :=
  s.vbin x (typeFor 3 typesFI x.type) d a b (addElem x false)

def State.vsubOp (s : State) (x : VArgs) (d a b : BitVec 8) : Out :=
  s.vbin x (typeFor 3 typesFI x.type) d a b (addElem x true)

def State.vmulOp (s : State) (x : VArgs) (d a b : BitVec 8) : Out :=
  s.vbin x (typeFor 3 typesF x.type) d a b fun t a b => match t with
    | .flt f => f.deliver x.rnd x.sat ((f.modded x.modA a).mul (f.modded x.modB b))
    | .int _ _ => a

/-- One rounding of the exact product and sum; C is not modified by MOD. -/
def State.vfmaOp (s : State) (x : VArgs) (d a b : BitVec 8) : Out :=
  s.vtri x (typeFor 3 typesF x.type) d a b fun t a b c => match t with
    | .flt f => f.deliver x.rnd x.sat (((f.modded x.modA a).mul (f.modded x.modB b)).add x.rnd (f.decode c))
    | .int _ _ => a

def State.vpickOp (s : State) (hi : Bool) (x : VArgs) (d a b : BitVec 8) : Out :=
  s.vbin x (typeFor 3 typesFI x.type) d a b (pickMod x hi)

def State.vaddpickOp (s : State) (hi : Bool) (x : VArgs) (d a b : BitVec 8) : Out :=
  s.vtri x (typeFor 3 typesFI x.type) d a b fun t a b c => pickElem hi t (addElem x false t a b) c

/-! ### Single-operand floating functions (R179, R180) -/

/-- A function of A on floating elements. -/
def State.vun (s : State) (x : VArgs) (set : List Nat) (d a : BitVec 8) (f : FFmt → Nat → Nat) : Out :=
  let ty := typeFor 3 set x.type
  s.blockOp x ty.isSome d.toNat [(a.toNat, 0, bitAt x.fe 0)] [] fun vals l => match ty with
    | some (.flt g) => some (lift1 g.width (f g) (val vals 0 l))
    | _ => none

def State.vrcpOp (s : State) (x : VArgs) (d a : BitVec 8) : Out :=
  s.vun x typesF d a fun f v => f.deliver x.rnd x.sat (FVal.div (.num false 1 0) (f.modded x.modA v))

def State.vsqrtOp (s : State) (x : VArgs) (d a : BitVec 8) : Out :=
  s.vun x typesF d a fun f v => f.deliver x.rnd x.sat (f.modded x.modA v).sqrt

def State.vrsqOp (s : State) (x : VArgs) (d a : BitVec 8) : Out :=
  s.vun x typesF d a fun f v => f.deliver x.rnd x.sat (f.modded x.modA v).rsqrt

def State.vrintOp (s : State) (x : VArgs) (d a : BitVec 8) : Out :=
  s.vun x typesF d a fun f v => f.deliver 0 false ((f.modded x.modA v).rint x.rnd)

/-- A function of FP32 alone (R136). -/
def State.vtransOp (s : State) (g : Lane → Lane) (x : VArgs) (d a : BitVec 8) : Out :=
  s.vun x [3] d a fun f v => (g (BitVec.ofNat 32 (f.modBits x.modA v))).toNat

/-! ### Integer and bitwise (R181) -/

/-- A bitwise form: TYPE is ignored. -/
def State.vbitOp (s : State) (f : Lane → Lane → Lane) (x : VArgs) (d a b : BitVec 8) : Out :=
  s.blockOp x true d.toNat [(a.toNat, 0, bitAt x.fe 0), (b.toNat, 1, bitAt x.fe 1)] [] fun vals l =>
    some (f (val vals 0 l) (val vals 1 l))

/-- An integer form with the element's sign and width. -/
def State.vintOp (s : State) (dflt : Nat) (f : VArgs → Bool → Nat → Nat → Nat → Nat) (x : VArgs) (d a b : BitVec 8) : Out :=
  s.vbin x (typeFor dflt typesI x.type) d a b fun t a b => match t with
    | .int g n => f x g n a b
    | .flt _ => a

def shlElem (_ : VArgs) (_ : Bool) (n a b : Nat) : Nat := a * 2 ^ (b % n) % 2 ^ n
def shrElem (_ : VArgs) (g : Bool) (n a b : Nat) : Nat := wrap n (valueOf g n a / 2 ^ (b % n))
def mulloElem (x : VArgs) (g : Bool) (n a b : Nat) : Nat := deliverInt x.sat g n (valueOf g n a * valueOf g n b)
def mulhiElem (_ : VArgs) (g : Bool) (n a b : Nat) : Nat := wrap n (valueOf g n a * valueOf g n b / (2 ^ n : Nat))

/-- A count over the bits of A. -/
def State.vcountOp (s : State) (f : Nat → Nat → Nat) (x : VArgs) (d a : BitVec 8) : Out :=
  let ty := typeFor 2 typesI x.type
  let n := (ty.getD (.int false 32)).width
  s.blockOp x ty.isSome d.toNat [(a.toNat, 0, bitAt x.fe 0)] [] fun vals l => some (lift1 n (f n) (val vals 0 l))

/-! ### Packing and the two-term dot product (R184 to R186) -/

/-- Two 16-bit elements as a lane. -/
def pair16 (lo hi : Nat) : Lane := BitVec.ofNat 32 (lo % 2 ^ 16 + 2 ^ 16 * (hi % 2 ^ 16))

/-- An FP32 NaN in a 16-bit format: its sign and the upper bits of its payload (R126); where these are all 0, the fraction is open, but not 0
(log 72). -/
def narrowNan (f : FFmt) (c : Nat) : Nat :=
  let p := c % 2 ^ 23 / 2 ^ (23 - f.frac)
  let p := if p = 0 then 1 + Config.packNan f.frac (BitVec.ofNat 32 c) % (2 ^ f.frac - 1) else p
  c / 2 ^ 31 % 2 * 2 ^ 15 + (2 ^ (15 - f.frac) - 1) * 2 ^ f.frac + p

/-- One 32-bit value converted to a 16-bit element (R123, R130, R131); a NaN keeps its payload (R126). -/
def packElem (x : VArgs) (m : Nat) (a : Lane) : ETy → Nat
  | .flt f => match fp32.modded m a.toNat with
    | .nan => narrowNan f (fp32.modBits m a.toNat)
    | v => f.deliver x.rnd x.sat v
  | .int g n => deliverInt x.sat g n (valueOf g 32 a.toNat)

def State.vpackOp (s : State) (x : VArgs) (d a b : BitVec 8) : Out :=
  let ty := typeFor 7 typesPack x.type
  let t := ty.getD (.int false 16)
  s.blockOp x ty.isSome d.toNat [(a.toNat, 0, bitAt x.fe 0), (b.toNat, 1, bitAt x.fe 1)] [] fun vals l =>
    some (pair16 (packElem x x.modA (val vals 0 l) t) (packElem x x.modB (val vals 1 l) t))

/-- A 16-bit element widened to FP32, exactly; a NaN keeps its sign and payload (R126, R185). -/
def widen16 (f : FFmt) (x : Nat) : Nat :=
  match f.decode x with
  | .nan => (x / 2 ^ 15 * 2 ^ 31 + 0x7f800000 + x % 2 ^ f.frac * 2 ^ (23 - f.frac)) % 2 ^ 32
  | v => fp32.deliver 0 false v

def State.vunpOp (s : State) (hi : Bool) (x : VArgs) (d a : BitVec 8) : Out :=
  let ty := typeFor 7 typesPack x.type
  s.blockOp x ty.isSome d.toNat [(a.toNat, 0, bitAt x.fe 0)] [] fun vals l =>
    let e := if hi then (val vals 0 l).toNat / 2 ^ 16 else (val vals 0 l).toNat % 2 ^ 16
    match ty with
    | some (.flt f) => some (BitVec.ofNat 32 (widen16 f (f.modBits x.modA e)))
    | some (.int g n) => some (BitVec.ofNat 32 (wrap 32 (valueOf g n e)))
    | none => none

/-- `vdot2` reads D under policy 0 in both forms; SAT is ignored (R186). -/
def State.vdot2Op (s : State) (x : VArgs) (d a b : BitVec 8) : Out :=
  let ty := typeFor 7 typesDot x.type
  s.blockOp x ty.isSome d.toNat [(a.toNat, 0, bitAt x.fe 0), (b.toNat, 1, bitAt x.fe 1), (d.toNat, 2, false)] [] fun vals l =>
    match ty with
    | some (.flt f) =>
      let ps := List.zipWith (fun a b => (f.modded x.modA a).mul (f.modded x.modB b)) (elems 16 (val vals 0 l)) (elems 16 (val vals 1 l))
      some (dot f.frac x.rnd (f32 (val vals 2 l)) ps)
    | _ => none

/-! ### Moving values between lanes (R187, R188) -/

def State.vmovOp (s : State) (x : VArgs) (d a : BitVec 8) : Out :=
  s.blockOp x true d.toNat [(a.toNat, 0, bitAt x.fe 0)] [] fun vals l => some (val vals 0 l)

/-- A move whose source lane is fixed by S[B]; no source lane, no write. -/
def State.vlaneMove (s : State) (from_ : (k l : Nat) → Option Nat) (x : VArgs) (d a : BitVec 8) (b : BitVec 7) : Out :=
  let k := (s.wave.sreg b.toNat).toNat
  s.blockOp x true d.toNat [(a.toNat, 0, bitAt x.fe 0)] [(sOp b.toNat 1).fe x.fe] fun vals l =>
    (from_ k l).map fun j => val vals 0 j

def bcstFrom (k _ : Nat) : Option Nat := some (k % 32)
def bflyFrom (k l : Nat) : Option Nat := some (l ^^^ (k % 32))
def lsuFrom (k l : Nat) : Option Nat := if k ≤ l then some (l - k) else none
def lsdFrom (k l : Nat) : Option Nat := if l + k ≤ 31 then some (l + k) else none

def State.vshflOp (s : State) (x : VArgs) (d a b : BitVec 8) : Out :=
  s.blockOp x true d.toNat [(a.toNat, 0, bitAt x.fe 0), (b.toNat, 1, bitAt x.fe 1)] [] fun vals l =>
    some (val vals 0 ((val vals 1 l).toNat % 32))

/-- The first value of a scan passes unchanged but for a NaN; the later ones are added (R188). -/
def scanStep (x : VArgs) (t : ETy) (acc : Option Nat) (v : Nat) : Nat :=
  match t, acc with
  | .flt f, none => (match f.decode (f.modBits x.modA v) with
    | .nan => f.nanCode
    | _ => f.modBits x.modA v)
  | .flt f, some p => f.deliver x.rnd x.sat ((f.decode p).add x.rnd (f.modded x.modA v))
  | .int _ _, none => v
  | .int g n, some p => deliverInt x.sat g n (valueOf g n p + valueOf g n v)

/-- The running sums of the lanes that take part, up to lane `l`. -/
def scanUpto (x : VArgs) (t : ETy) (takes : Nat → Bool) (a : List Lane) (l : Nat) : Option Nat :=
  (List.range (l + 1)).foldl (fun acc j => if takes j then some (scanStep x t acc (nth 0 a j).toNat) else acc) none

def State.vscanOp (s : State) (x : VArgs) (d a : BitVec 8) : Out :=
  let ty := typeFor 3 typesScan x.type
  let t := ty.getD (.int false 32)
  let takes := s.wave.takes x.pred
  s.blockOp x ty.isSome d.toNat [(a.toNat, 0, bitAt x.fe 0)] [] fun vals l =>
    (scanUpto x t takes (nth [] vals 0) l).map fun v => BitVec.ofNat 32 v

/-! ### Conversions (R195 to R197) -/

/-- A conversion that is always exact, infinities included (R133). -/
def FFmt.widens (f g : FFmt) : Bool := f.width == 8 && (g.width == 32 || (g.width == 16 && g.frac == 7))

/-- Convert one element; between equal formats only a NaN changes (R197), and SAT does nothing where R133 makes the result exact. -/
def convElem (x : VArgs) (src dst : ETy) (same : Bool) (e : Nat) : Nat :=
  match src, dst with
  | .flt f, .flt g =>
    let v := f.modded x.modA e
    if same && !(v.negative && !g.sgn) then g.deliver 0 false v else g.deliver x.rnd (x.sat && !f.widens g) v
  | .flt f, .int g n => wrap n ((f.modded x.modA e).toInt x.rnd g n)
  | .int g n, .flt h => h.deliver x.rnd x.sat (FVal.ofInt (valueOf g n e))
  | .int g n, .int h k => deliverInt x.sat h k (valueOf g n e)

/-- The registers of `k` columns of row `r`, from base `n` (R196). -/
def rowRegs (n r k : Nat) : List Nat := (List.range k).map (blockReg n r)

/-- Convert the row of one extent element: all sources are read, then the destinations are written. -/
def Wave.cvtRow (w : Wave) (x : VArgs) (src dst : ETy) (same : Bool) (from_ to_ : List Nat) : Wave :=
  let ws := src.width
  let wd := dst.width
  let olds := from_.map w.vreg
  let elemsOf (l : Nat) : List Nat := olds.flatMap fun v => (elems ws (nth 0 v l)).map (convElem x src dst same)
  let ed := 32 / wd
  (List.range to_.length).foldl (fun w' i =>
    w'.writeLanes x.pred (nth 0 to_ i) fun l => some (BitVec.ofNat 32 (packElems wd ((elemsOf l).drop (ed * i) |>.take ed)))) w

def State.vcvtOp (s : State) (x : VArgs) (dfmt : BitVec 8) (d a : BitVec 8) : Out :=
  let sfmt := x.c.getD 0
  match eType sfmt, eType dfmt.toNat with
  | some src, some dst =>
    let ks := max 1 (src.width / dst.width)
    let kd := max 1 (dst.width / src.width)
    let same := sfmt == dfmt.toNat
    let rows : List (List Nat × List Nat) :=
      if src.width = dst.width then (extent x.h x.w).map fun e => ([blockReg a.toNat e.1 e.2], [blockReg d.toNat e.1 e.2])
      else (List.range x.h).map fun r => (rowRegs a.toNat r ks, rowRegs d.toNat r kd)
    s.vector x (src.width == dst.width || x.w == 1) [⟨true, rows.flatMap (·.1), 0, bitAt x.fe 0⟩] [vOp (rows.flatMap (·.2))]
      fun w => rows.foldl (fun w r => w.cvtRow x src dst same r.1 r.2) w
  | _, _ => s.vector x false [] [] id

/-! ### Register-file moves, predicates and votes (R189 to R194) -/

/-- `vlane`. -/
def execVlane (d : BitVec 8) (s : State) : Out :=
  s.blockOp s.wave.compact true d.toNat [] [] fun _ l => some (BitVec.ofNat 32 l)

/-- `vmovs`: the extent shifts only D (R85). -/
def execVmovs (d : BitVec 8) (a : BitVec 7) (s : State) : Out :=
  let v := (s.wave.sreg a.toNat).setWidth 32
  s.blockOp s.wave.compact true d.toNat [] [sOp a.toNat 0] fun _ _ => some v

/-- `vmovi`. -/
def execVmovi (d : BitVec 8) (imm : BitVec 8) (s : State) : Out :=
  s.blockOp s.wave.compact true d.toNat [] [] fun _ _ => some (imm.signExtend 32)

/-- A move to or from the register that a scalar names; an index beyond the allocation is illegal (R190). -/
def State.vindexed (s : State) (idx : BitVec 7) (slot : Nat) (fixed : BitVec 8) (get : Bool) : Out :=
  let x := s.wave.compact
  let w := s.wave
  let i := (w.sreg idx.toNat).toNat
  let src := if get then i else fixed.toNat
  let dst := if get then fixed.toNat else i
  let c := (w.opndCheck (!w.inHandler && w.opndOk (vOp [fixed.toNat])) [sOp idx.toNat slot] []).andThen
    ((Check.need (decide (i < w.vregN))).andThen (Check.ready (w.vFull src && w.vFull dst)))
  .next (s.issue c fun s => s.modWave fun w => (w.writeLanes x.pred dst fun l => some (w.lane src l)).retire 1)

def execVgetr (d : BitVec 8) (a : BitVec 7) (s : State) : Out := s.vindexed a 0 d true
def execVsetr (d : BitVec 7) (a : BitVec 8) (s : State) : Out := s.vindexed d 2 a false

/-- The checks of the four vector instructions a handler may issue: there the full/empty bits of vector registers are
neither waited on nor changed (R198). -/
def State.handlerVector (s : State) (srcs dsts : List Opnd) (eff : Wave → Wave) : Out :=
  let w := s.wave
  let waits (os : List Opnd) : Bool := w.allReady (if w.inHandler then os.filter (!·.vec) else os)
  .next (s.issue ((Check.need ((srcs ++ dsts).all w.opndOk)).andThen (Check.ready (waits srcs && waits dsts))) fun s =>
    s.modWave fun w => (eff w).retire 1)

/-- `vgetl`. -/
def execVgetl (d : BitVec 7) (a : BitVec 8) (b : BitVec 7) (s : State) : Out :=
  s.handlerVector [vOp [a.toNat] 0, sOp b.toNat 1] [sOp d.toNat] fun w =>
    w.setS d.toNat ((w.lane a.toNat ((w.sreg b.toNat).toNat % 32)).setWidth 64)

/-- `vputl`. -/
def execVputl (d : BitVec 8) (a b : BitVec 7) (s : State) : Out :=
  s.handlerVector [sOp a.toNat 0, sOp b.toNat 1] [vOp [d.toNat]] fun w =>
    let w' := w.setLane d.toNat ((w.sreg b.toNat).toNat % 32) ((w.sreg a.toNat).setWidth 32)
    if w.inHandler then w' else w'.setVFull d.toNat true

/-- `vpmov` and `vpget` ignore the lane predicate. -/
def execVpmov (d : BitVec 3) (a : BitVec 7) (s : State) : Out :=
  s.handlerVector [sOp a.toNat 0] [] fun w => w.setPred d.toNat ((w.sreg a.toNat).setWidth 32)
def execVpget (d : BitVec 7) (a : BitVec 3) (s : State) : Out :=
  s.handlerVector [] [sOp d.toNat] fun w => w.setS d.toNat ((w.pred a.toNat).setWidth 64)

def execVpand (d a b : BitVec 3) (s : State) : Out := s.plogic d a b fun x y => x && y
def execVpor (d a b : BitVec 3) (s : State) : Out := s.plogic d a b fun x y => x || y
def execVpxor (d a b : BitVec 3) (s : State) : Out := s.plogic d a b fun x y => x != y
def execVpandn (d a b : BitVec 3) (s : State) : Out := s.plogic d a b fun x y => x && !y

def execVvall (d : BitVec 7) (a : BitVec 3) (s : State) : Out := s.vote d a fun l => ofBit (l.all id)
def execVvany (d : BitVec 7) (a : BitVec 3) (s : State) : Out := s.vote d a fun l => ofBit (l.any id)
def execVpcnt (d : BitVec 7) (a : BitVec 3) (s : State) : Out := s.vote d a fun l => BitVec.ofNat 64 (l.filter id).length

/-- `vcvt` has a long form only. -/
def execVcvt (d a : BitVec 8) (dfmt : BitVec 8) (l : VL) (s : State) : Out := s.vcvtOp (longArgs l) dfmt d a

/-! ### The compact forms and their long twins (R88) -/

def execVadd (d a b : BitVec 8) (s : State) : Out := s.vaddOp s.wave.compact d a b
def execVaddLong (d a b : BitVec 8) (l : VL) (s : State) : Out := s.vaddOp (longArgs l) d a b
def execVsub (d a b : BitVec 8) (s : State) : Out := s.vsubOp s.wave.compact d a b
def execVsubLong (d a b : BitVec 8) (l : VL) (s : State) : Out := s.vsubOp (longArgs l) d a b
def execVmul (d a b : BitVec 8) (s : State) : Out := s.vmulOp s.wave.compact d a b
def execVmulLong (d a b : BitVec 8) (l : VL) (s : State) : Out := s.vmulOp (longArgs l) d a b
def execVfma (d a b : BitVec 8) (s : State) : Out := s.vfmaOp s.wave.compact d a b
def execVfmaLong (d a b : BitVec 8) (l : VL) (s : State) : Out := s.vfmaOp (longArgs l) d a b
def execVmin (d a b : BitVec 8) (s : State) : Out := s.vpickOp false s.wave.compact d a b
def execVminLong (d a b : BitVec 8) (l : VL) (s : State) : Out := s.vpickOp false (longArgs l) d a b
def execVmax (d a b : BitVec 8) (s : State) : Out := s.vpickOp true s.wave.compact d a b
def execVmaxLong (d a b : BitVec 8) (l : VL) (s : State) : Out := s.vpickOp true (longArgs l) d a b
def execVaddmin (d a b : BitVec 8) (s : State) : Out := s.vaddpickOp false s.wave.compact d a b
def execVaddminLong (d a b : BitVec 8) (l : VL) (s : State) : Out := s.vaddpickOp false (longArgs l) d a b
def execVaddmax (d a b : BitVec 8) (s : State) : Out := s.vaddpickOp true s.wave.compact d a b
def execVaddmaxLong (d a b : BitVec 8) (l : VL) (s : State) : Out := s.vaddpickOp true (longArgs l) d a b
def execVrcp (d a : BitVec 8) (s : State) : Out := s.vrcpOp s.wave.compact d a
def execVrcpLong (d a : BitVec 8) (l : VL) (s : State) : Out := s.vrcpOp (longArgs l) d a
def execVsqrt (d a : BitVec 8) (s : State) : Out := s.vsqrtOp s.wave.compact d a
def execVsqrtLong (d a : BitVec 8) (l : VL) (s : State) : Out := s.vsqrtOp (longArgs l) d a
def execVrsq (d a : BitVec 8) (s : State) : Out := s.vrsqOp s.wave.compact d a
def execVrsqLong (d a : BitVec 8) (l : VL) (s : State) : Out := s.vrsqOp (longArgs l) d a
def execVexp2 (d a : BitVec 8) (s : State) : Out := s.vtransOp vexp2Lane s.wave.compact d a
def execVexp2Long (d a : BitVec 8) (l : VL) (s : State) : Out := s.vtransOp vexp2Lane (longArgs l) d a
def execVlog2 (d a : BitVec 8) (s : State) : Out := s.vtransOp vlog2Lane s.wave.compact d a
def execVlog2Long (d a : BitVec 8) (l : VL) (s : State) : Out := s.vtransOp vlog2Lane (longArgs l) d a
def execVsin (d a : BitVec 8) (s : State) : Out := s.vtransOp (trigLane 2) s.wave.compact d a
def execVsinLong (d a : BitVec 8) (l : VL) (s : State) : Out := s.vtransOp (trigLane 2) (longArgs l) d a
def execVcos (d a : BitVec 8) (s : State) : Out := s.vtransOp (trigLane 3) s.wave.compact d a
def execVcosLong (d a : BitVec 8) (l : VL) (s : State) : Out := s.vtransOp (trigLane 3) (longArgs l) d a
def execVrint (d a : BitVec 8) (s : State) : Out := s.vrintOp s.wave.compact d a
def execVrintLong (d a : BitVec 8) (l : VL) (s : State) : Out := s.vrintOp (longArgs l) d a
def execVand (d a b : BitVec 8) (s : State) : Out := s.vbitOp (· &&& ·) s.wave.compact d a b
def execVandLong (d a b : BitVec 8) (l : VL) (s : State) : Out := s.vbitOp (· &&& ·) (longArgs l) d a b
def execVor (d a b : BitVec 8) (s : State) : Out := s.vbitOp (· ||| ·) s.wave.compact d a b
def execVorLong (d a b : BitVec 8) (l : VL) (s : State) : Out := s.vbitOp (· ||| ·) (longArgs l) d a b
def execVxor (d a b : BitVec 8) (s : State) : Out := s.vbitOp (· ^^^ ·) s.wave.compact d a b
def execVxorLong (d a b : BitVec 8) (l : VL) (s : State) : Out := s.vbitOp (· ^^^ ·) (longArgs l) d a b
def execVandn (d a b : BitVec 8) (s : State) : Out := s.vbitOp (fun a b => a &&& ~~~b) s.wave.compact d a b
def execVandnLong (d a b : BitVec 8) (l : VL) (s : State) : Out := s.vbitOp (fun a b => a &&& ~~~b) (longArgs l) d a b
def execVshl (d a b : BitVec 8) (s : State) : Out := s.vintOp 2 shlElem s.wave.compact d a b
def execVshlLong (d a b : BitVec 8) (l : VL) (s : State) : Out := s.vintOp 2 shlElem (longArgs l) d a b
def execVshr (d a b : BitVec 8) (s : State) : Out := s.vintOp 2 shrElem s.wave.compact d a b
def execVshrLong (d a b : BitVec 8) (l : VL) (s : State) : Out := s.vintOp 2 shrElem (longArgs l) d a b
def execVmullo (d a b : BitVec 8) (s : State) : Out := s.vintOp 1 mulloElem s.wave.compact d a b
def execVmulloLong (d a b : BitVec 8) (l : VL) (s : State) : Out := s.vintOp 1 mulloElem (longArgs l) d a b
def execVmulhi (d a b : BitVec 8) (s : State) : Out := s.vintOp 1 mulhiElem s.wave.compact d a b
def execVmulhiLong (d a b : BitVec 8) (l : VL) (s : State) : Out := s.vintOp 1 mulhiElem (longArgs l) d a b
def execVpopc (d a : BitVec 8) (s : State) : Out := s.vcountOp popCount s.wave.compact d a
def execVpopcLong (d a : BitVec 8) (l : VL) (s : State) : Out := s.vcountOp popCount (longArgs l) d a
def execVclz (d a : BitVec 8) (s : State) : Out := s.vcountOp leadingZeros s.wave.compact d a
def execVclzLong (d a : BitVec 8) (l : VL) (s : State) : Out := s.vcountOp leadingZeros (longArgs l) d a
def execVcmpEqF32 (d : BitVec 3) (a b : BitVec 8) (s : State) : Out := s.vcmp s.wave.compact 3 .eq d a b
def execVcmpEqF32Long (d : BitVec 3) (a b : BitVec 8) (l : VL) (s : State) : Out := s.vcmp (longArgs l) 3 .eq d a b
def execVcmpNeF32 (d : BitVec 3) (a b : BitVec 8) (s : State) : Out := s.vcmp s.wave.compact 3 .ne d a b
def execVcmpNeF32Long (d : BitVec 3) (a b : BitVec 8) (l : VL) (s : State) : Out := s.vcmp (longArgs l) 3 .ne d a b
def execVcmpLtF32 (d : BitVec 3) (a b : BitVec 8) (s : State) : Out := s.vcmp s.wave.compact 3 .lt d a b
def execVcmpLtF32Long (d : BitVec 3) (a b : BitVec 8) (l : VL) (s : State) : Out := s.vcmp (longArgs l) 3 .lt d a b
def execVcmpLeF32 (d : BitVec 3) (a b : BitVec 8) (s : State) : Out := s.vcmp s.wave.compact 3 .le d a b
def execVcmpLeF32Long (d : BitVec 3) (a b : BitVec 8) (l : VL) (s : State) : Out := s.vcmp (longArgs l) 3 .le d a b
def execVcmpGtF32 (d : BitVec 3) (a b : BitVec 8) (s : State) : Out := s.vcmp s.wave.compact 3 .gt d a b
def execVcmpGtF32Long (d : BitVec 3) (a b : BitVec 8) (l : VL) (s : State) : Out := s.vcmp (longArgs l) 3 .gt d a b
def execVcmpGeF32 (d : BitVec 3) (a b : BitVec 8) (s : State) : Out := s.vcmp s.wave.compact 3 .ge d a b
def execVcmpGeF32Long (d : BitVec 3) (a b : BitVec 8) (l : VL) (s : State) : Out := s.vcmp (longArgs l) 3 .ge d a b
def execVcmpEqI32 (d : BitVec 3) (a b : BitVec 8) (s : State) : Out := s.vcmp s.wave.compact 1 .eq d a b
def execVcmpEqI32Long (d : BitVec 3) (a b : BitVec 8) (l : VL) (s : State) : Out := s.vcmp (longArgs l) 1 .eq d a b
def execVcmpNeI32 (d : BitVec 3) (a b : BitVec 8) (s : State) : Out := s.vcmp s.wave.compact 1 .ne d a b
def execVcmpNeI32Long (d : BitVec 3) (a b : BitVec 8) (l : VL) (s : State) : Out := s.vcmp (longArgs l) 1 .ne d a b
def execVcmpLtI32 (d : BitVec 3) (a b : BitVec 8) (s : State) : Out := s.vcmp s.wave.compact 1 .lt d a b
def execVcmpLtI32Long (d : BitVec 3) (a b : BitVec 8) (l : VL) (s : State) : Out := s.vcmp (longArgs l) 1 .lt d a b
def execVcmpLeI32 (d : BitVec 3) (a b : BitVec 8) (s : State) : Out := s.vcmp s.wave.compact 1 .le d a b
def execVcmpLeI32Long (d : BitVec 3) (a b : BitVec 8) (l : VL) (s : State) : Out := s.vcmp (longArgs l) 1 .le d a b
def execVcmpGtI32 (d : BitVec 3) (a b : BitVec 8) (s : State) : Out := s.vcmp s.wave.compact 1 .gt d a b
def execVcmpGtI32Long (d : BitVec 3) (a b : BitVec 8) (l : VL) (s : State) : Out := s.vcmp (longArgs l) 1 .gt d a b
def execVcmpGeI32 (d : BitVec 3) (a b : BitVec 8) (s : State) : Out := s.vcmp s.wave.compact 1 .ge d a b
def execVcmpGeI32Long (d : BitVec 3) (a b : BitVec 8) (l : VL) (s : State) : Out := s.vcmp (longArgs l) 1 .ge d a b
def execVcmpLtN32 (d : BitVec 3) (a b : BitVec 8) (s : State) : Out := s.vcmp s.wave.compact 2 .lt d a b
def execVcmpLtN32Long (d : BitVec 3) (a b : BitVec 8) (l : VL) (s : State) : Out := s.vcmp (longArgs l) 2 .lt d a b
def execVcmpLeN32 (d : BitVec 3) (a b : BitVec 8) (s : State) : Out := s.vcmp s.wave.compact 2 .le d a b
def execVcmpLeN32Long (d : BitVec 3) (a b : BitVec 8) (l : VL) (s : State) : Out := s.vcmp (longArgs l) 2 .le d a b
def execVcmpGtN32 (d : BitVec 3) (a b : BitVec 8) (s : State) : Out := s.vcmp s.wave.compact 2 .gt d a b
def execVcmpGtN32Long (d : BitVec 3) (a b : BitVec 8) (l : VL) (s : State) : Out := s.vcmp (longArgs l) 2 .gt d a b
def execVcmpGeN32 (d : BitVec 3) (a b : BitVec 8) (s : State) : Out := s.vcmp s.wave.compact 2 .ge d a b
def execVcmpGeN32Long (d : BitVec 3) (a b : BitVec 8) (l : VL) (s : State) : Out := s.vcmp (longArgs l) 2 .ge d a b
def execVpack (d a b : BitVec 8) (s : State) : Out := s.vpackOp s.wave.compact d a b
def execVpackLong (d a b : BitVec 8) (l : VL) (s : State) : Out := s.vpackOp (longArgs l) d a b
def execVunplo (d a : BitVec 8) (s : State) : Out := s.vunpOp false s.wave.compact d a
def execVunploLong (d a : BitVec 8) (l : VL) (s : State) : Out := s.vunpOp false (longArgs l) d a
def execVunphi (d a : BitVec 8) (s : State) : Out := s.vunpOp true s.wave.compact d a
def execVunphiLong (d a : BitVec 8) (l : VL) (s : State) : Out := s.vunpOp true (longArgs l) d a
def execVmov (d a : BitVec 8) (s : State) : Out := s.vmovOp s.wave.compact d a
def execVmovLong (d a : BitVec 8) (l : VL) (s : State) : Out := s.vmovOp (longArgs l) d a
def execVbcst (d a : BitVec 8) (b : BitVec 7) (s : State) : Out := s.vlaneMove bcstFrom s.wave.compact d a b
def execVbcstLong (d a : BitVec 8) (b : BitVec 7) (l : VL) (s : State) : Out := s.vlaneMove bcstFrom (longArgs l) d a b
def execVbfly (d a : BitVec 8) (b : BitVec 7) (s : State) : Out := s.vlaneMove bflyFrom s.wave.compact d a b
def execVbflyLong (d a : BitVec 8) (b : BitVec 7) (l : VL) (s : State) : Out := s.vlaneMove bflyFrom (longArgs l) d a b
def execVlsu (d a : BitVec 8) (b : BitVec 7) (s : State) : Out := s.vlaneMove lsuFrom s.wave.compact d a b
def execVlsuLong (d a : BitVec 8) (b : BitVec 7) (l : VL) (s : State) : Out := s.vlaneMove lsuFrom (longArgs l) d a b
def execVlsd (d a : BitVec 8) (b : BitVec 7) (s : State) : Out := s.vlaneMove lsdFrom s.wave.compact d a b
def execVlsdLong (d a : BitVec 8) (b : BitVec 7) (l : VL) (s : State) : Out := s.vlaneMove lsdFrom (longArgs l) d a b
def execVshfl (d a b : BitVec 8) (s : State) : Out := s.vshflOp s.wave.compact d a b
def execVshflLong (d a b : BitVec 8) (l : VL) (s : State) : Out := s.vshflOp (longArgs l) d a b
def execVscan (d a : BitVec 8) (s : State) : Out := s.vscanOp s.wave.compact d a
def execVscanLong (d a : BitVec 8) (l : VL) (s : State) : Out := s.vscanOp (longArgs l) d a
def execVdot2 (d a b : BitVec 8) (s : State) : Out := s.vdot2Op s.wave.compact d a b
def execVdot2Long (d a b : BitVec 8) (l : VL) (s : State) : Out := s.vdot2Op (longArgs l) d a b

end Sys2Proof.Machine
end

