-- ==== Sys2Proof/Machine/Dispatch.lean ====
section
/-!
DEFINITION. The dispatch: one arm per instruction, each one call of its meaning.
-/
namespace Sys2Proof.Machine

/-- The effect of an instruction or event for the party whose turn it is. -/
def exec (i : Instr) (s : State) : Host.Outcome State Fault Refusal :=
  match i with
  | .sadd d a b t => Sys2Proof.Machine.execSadd d a b t s
  | .ssub d a b t => Sys2Proof.Machine.execSsub d a b t s
  | .smul d a b t => Sys2Proof.Machine.execSmul d a b t s
  | .smulh d a b t => Sys2Proof.Machine.execSmulh d a b t s
  | .sdiv d a b t => Sys2Proof.Machine.execSdiv d a b t s
  | .srem d a b t => Sys2Proof.Machine.execSrem d a b t s
  | .smin d a b t => Sys2Proof.Machine.execSmin d a b t s
  | .smax d a b t => Sys2Proof.Machine.execSmax d a b t s
  | .sand d a b t => Sys2Proof.Machine.execSand d a b t s
  | .sor d a b t => Sys2Proof.Machine.execSor d a b t s
  | .sxor d a b t => Sys2Proof.Machine.execSxor d a b t s
  | .sandn d a b t => Sys2Proof.Machine.execSandn d a b t s
  | .sshl d a b t => Sys2Proof.Machine.execSshl d a b t s
  | .sshr d a b t => Sys2Proof.Machine.execSshr d a b t s
  | .srot d a b t => Sys2Proof.Machine.execSrot d a b t s
  | .sclz d a t => Sys2Proof.Machine.execSclz d a t s
  | .seq d a b t => Sys2Proof.Machine.execSeq d a b t s
  | .sne d a b t => Sys2Proof.Machine.execSne d a b t s
  | .slt d a b t => Sys2Proof.Machine.execSlt d a b t s
  | .sle d a b t => Sys2Proof.Machine.execSle d a b t s
  | .ssel d a b t => Sys2Proof.Machine.execSsel d a b t s
  | .spopc d a t => Sys2Proof.Machine.execSpopc d a t s
  | .sctz d a t => Sys2Proof.Machine.execSctz d a t s
  | .sbrev d a t => Sys2Proof.Machine.execSbrev d a t s
  | .sbfx d a b t => Sys2Proof.Machine.execSbfx d a b t s
  | .sbfi d a b t => Sys2Proof.Machine.execSbfi d a b t s
  | .smov d a t => Sys2Proof.Machine.execSmov d a t s
  | .saddi d a imm => Sys2Proof.Machine.execSaddi d a imm s
  | .smuli d a imm => Sys2Proof.Machine.execSmuli d a imm s
  | .sandi d a imm => Sys2Proof.Machine.execSandi d a imm s
  | .sori d a imm => Sys2Proof.Machine.execSori d a imm s
  | .sxori d a imm => Sys2Proof.Machine.execSxori d a imm s
  | .sshli d a imm => Sys2Proof.Machine.execSshli d a imm s
  | .sshri d a imm => Sys2Proof.Machine.execSshri d a imm s
  | .ssrai d a imm => Sys2Proof.Machine.execSsrai d a imm s
  | .seqi d a imm => Sys2Proof.Machine.execSeqi d a imm s
  | .slti d a imm => Sys2Proof.Machine.execSlti d a imm s
  | .sltni d a imm => Sys2Proof.Machine.execSltni d a imm s
  | .smovi d imm => Sys2Proof.Machine.execSmovi d imm s
  | .saddiLong d a imm => Sys2Proof.Machine.execSaddiLong d a imm s
  | .smuliLong d a imm => Sys2Proof.Machine.execSmuliLong d a imm s
  | .sandiLong d a imm => Sys2Proof.Machine.execSandiLong d a imm s
  | .soriLong d a imm => Sys2Proof.Machine.execSoriLong d a imm s
  | .sxoriLong d a imm => Sys2Proof.Machine.execSxoriLong d a imm s
  | .sshliLong d a imm => Sys2Proof.Machine.execSshliLong d a imm s
  | .sshriLong d a imm => Sys2Proof.Machine.execSshriLong d a imm s
  | .ssraiLong d a imm => Sys2Proof.Machine.execSsraiLong d a imm s
  | .seqiLong d a imm => Sys2Proof.Machine.execSeqiLong d a imm s
  | .sltiLong d a imm => Sys2Proof.Machine.execSltiLong d a imm s
  | .sltniLong d a imm => Sys2Proof.Machine.execSltniLong d a imm s
  | .smoviLong d imm => Sys2Proof.Machine.execSmoviLong d imm s
  | .smovh d imm => Sys2Proof.Machine.execSmovh d imm s
  | .bra off => Sys2Proof.Machine.execBra off s
  | .bz a off => Sys2Proof.Machine.execBz a off s
  | .bnz a off => Sys2Proof.Machine.execBnz a off s
  | .call a off => Sys2Proof.Machine.execCall a off s
  | .ret a => Sys2Proof.Machine.execRet a s
  | .brx a off => Sys2Proof.Machine.execBrx a off s
  | .loop a off => Sys2Proof.Machine.execLoop a off s
  | .lpop => Sys2Proof.Machine.execLpop s
  | .exit => Sys2Proof.Machine.execExit s
  | .tail => Sys2Proof.Machine.execTail s
  | .yield off => Sys2Proof.Machine.execYield off s
  | .nop => Sys2Proof.Machine.execNop s
  | .braLong off => Sys2Proof.Machine.execBraLong off s
  | .bzLong a off => Sys2Proof.Machine.execBzLong a off s
  | .bnzLong a off => Sys2Proof.Machine.execBnzLong a off s
  | .callLong a off => Sys2Proof.Machine.execCallLong a off s
  | .loopLong a off => Sys2Proof.Machine.execLoopLong a off s
  | .yieldLong off => Sys2Proof.Machine.execYieldLong off s
  | .hint lo => Sys2Proof.Machine.execHint lo s
  | .mfs d n => Sys2Proof.Machine.execMfs d n s
  | .mts a n => Sys2Proof.Machine.execMts a n s
  | .bar n => Sys2Proof.Machine.execBar n s
  | .barPod => Sys2Proof.Machine.execBarPod s
  | .nbarw d n => Sys2Proof.Machine.execNbarw d n s
  | .nbarr n => Sys2Proof.Machine.execNbarr n s
  | .nbwait a n => Sys2Proof.Machine.execNbwait a n s
  | .nbinit a n => Sys2Proof.Machine.execNbinit a n s
  | .trap code => Sys2Proof.Machine.execTrap code s
  | .rft => Sys2Proof.Machine.execRft s
  | .brk code => Sys2Proof.Machine.execBrk code s
  | .phint nm ap smap vmap => Sys2Proof.Machine.execPhint nm ap smap vmap s
  | .vadd d a b => Sys2Proof.Machine.execVadd d a b s
  | .vsub d a b => Sys2Proof.Machine.execVsub d a b s
  | .vmul d a b => Sys2Proof.Machine.execVmul d a b s
  | .vfma d a b => Sys2Proof.Machine.execVfma d a b s
  | .vmin d a b => Sys2Proof.Machine.execVmin d a b s
  | .vmax d a b => Sys2Proof.Machine.execVmax d a b s
  | .vaddmin d a b => Sys2Proof.Machine.execVaddmin d a b s
  | .vaddmax d a b => Sys2Proof.Machine.execVaddmax d a b s
  | .vrcp d a => Sys2Proof.Machine.execVrcp d a s
  | .vsqrt d a => Sys2Proof.Machine.execVsqrt d a s
  | .vrsq d a => Sys2Proof.Machine.execVrsq d a s
  | .vexp2 d a => Sys2Proof.Machine.execVexp2 d a s
  | .vlog2 d a => Sys2Proof.Machine.execVlog2 d a s
  | .vsin d a => Sys2Proof.Machine.execVsin d a s
  | .vcos d a => Sys2Proof.Machine.execVcos d a s
  | .vrint d a => Sys2Proof.Machine.execVrint d a s
  | .vand d a b => Sys2Proof.Machine.execVand d a b s
  | .vor d a b => Sys2Proof.Machine.execVor d a b s
  | .vxor d a b => Sys2Proof.Machine.execVxor d a b s
  | .vandn d a b => Sys2Proof.Machine.execVandn d a b s
  | .vshl d a b => Sys2Proof.Machine.execVshl d a b s
  | .vshr d a b => Sys2Proof.Machine.execVshr d a b s
  | .vmullo d a b => Sys2Proof.Machine.execVmullo d a b s
  | .vmulhi d a b => Sys2Proof.Machine.execVmulhi d a b s
  | .vpopc d a => Sys2Proof.Machine.execVpopc d a s
  | .vclz d a => Sys2Proof.Machine.execVclz d a s
  | .vcmpEqF32 d a b => Sys2Proof.Machine.execVcmpEqF32 d a b s
  | .vcmpNeF32 d a b => Sys2Proof.Machine.execVcmpNeF32 d a b s
  | .vcmpLtF32 d a b => Sys2Proof.Machine.execVcmpLtF32 d a b s
  | .vcmpLeF32 d a b => Sys2Proof.Machine.execVcmpLeF32 d a b s
  | .vcmpGtF32 d a b => Sys2Proof.Machine.execVcmpGtF32 d a b s
  | .vcmpGeF32 d a b => Sys2Proof.Machine.execVcmpGeF32 d a b s
  | .vcmpEqI32 d a b => Sys2Proof.Machine.execVcmpEqI32 d a b s
  | .vcmpNeI32 d a b => Sys2Proof.Machine.execVcmpNeI32 d a b s
  | .vcmpLtI32 d a b => Sys2Proof.Machine.execVcmpLtI32 d a b s
  | .vcmpLeI32 d a b => Sys2Proof.Machine.execVcmpLeI32 d a b s
  | .vcmpGtI32 d a b => Sys2Proof.Machine.execVcmpGtI32 d a b s
  | .vcmpGeI32 d a b => Sys2Proof.Machine.execVcmpGeI32 d a b s
  | .vcmpLtN32 d a b => Sys2Proof.Machine.execVcmpLtN32 d a b s
  | .vcmpLeN32 d a b => Sys2Proof.Machine.execVcmpLeN32 d a b s
  | .vcmpGtN32 d a b => Sys2Proof.Machine.execVcmpGtN32 d a b s
  | .vcmpGeN32 d a b => Sys2Proof.Machine.execVcmpGeN32 d a b s
  | .vpack d a b => Sys2Proof.Machine.execVpack d a b s
  | .vunplo d a => Sys2Proof.Machine.execVunplo d a s
  | .vunphi d a => Sys2Proof.Machine.execVunphi d a s
  | .vmov d a => Sys2Proof.Machine.execVmov d a s
  | .vbcst d a b => Sys2Proof.Machine.execVbcst d a b s
  | .vshfl d a b => Sys2Proof.Machine.execVshfl d a b s
  | .vbfly d a b => Sys2Proof.Machine.execVbfly d a b s
  | .vlsu d a b => Sys2Proof.Machine.execVlsu d a b s
  | .vlsd d a b => Sys2Proof.Machine.execVlsd d a b s
  | .vscan d a => Sys2Proof.Machine.execVscan d a s
  | .vdot2 d a b => Sys2Proof.Machine.execVdot2 d a b s
  | .vaddLong d a b l => Sys2Proof.Machine.execVaddLong d a b l s
  | .vsubLong d a b l => Sys2Proof.Machine.execVsubLong d a b l s
  | .vmulLong d a b l => Sys2Proof.Machine.execVmulLong d a b l s
  | .vfmaLong d a b l => Sys2Proof.Machine.execVfmaLong d a b l s
  | .vminLong d a b l => Sys2Proof.Machine.execVminLong d a b l s
  | .vmaxLong d a b l => Sys2Proof.Machine.execVmaxLong d a b l s
  | .vaddminLong d a b l => Sys2Proof.Machine.execVaddminLong d a b l s
  | .vaddmaxLong d a b l => Sys2Proof.Machine.execVaddmaxLong d a b l s
  | .vrcpLong d a l => Sys2Proof.Machine.execVrcpLong d a l s
  | .vsqrtLong d a l => Sys2Proof.Machine.execVsqrtLong d a l s
  | .vrsqLong d a l => Sys2Proof.Machine.execVrsqLong d a l s
  | .vexp2Long d a l => Sys2Proof.Machine.execVexp2Long d a l s
  | .vlog2Long d a l => Sys2Proof.Machine.execVlog2Long d a l s
  | .vsinLong d a l => Sys2Proof.Machine.execVsinLong d a l s
  | .vcosLong d a l => Sys2Proof.Machine.execVcosLong d a l s
  | .vrintLong d a l => Sys2Proof.Machine.execVrintLong d a l s
  | .vandLong d a b l => Sys2Proof.Machine.execVandLong d a b l s
  | .vorLong d a b l => Sys2Proof.Machine.execVorLong d a b l s
  | .vxorLong d a b l => Sys2Proof.Machine.execVxorLong d a b l s
  | .vandnLong d a b l => Sys2Proof.Machine.execVandnLong d a b l s
  | .vshlLong d a b l => Sys2Proof.Machine.execVshlLong d a b l s
  | .vshrLong d a b l => Sys2Proof.Machine.execVshrLong d a b l s
  | .vmulloLong d a b l => Sys2Proof.Machine.execVmulloLong d a b l s
  | .vmulhiLong d a b l => Sys2Proof.Machine.execVmulhiLong d a b l s
  | .vpopcLong d a l => Sys2Proof.Machine.execVpopcLong d a l s
  | .vclzLong d a l => Sys2Proof.Machine.execVclzLong d a l s
  | .vcmpEqF32Long d a b l => Sys2Proof.Machine.execVcmpEqF32Long d a b l s
  | .vcmpNeF32Long d a b l => Sys2Proof.Machine.execVcmpNeF32Long d a b l s
  | .vcmpLtF32Long d a b l => Sys2Proof.Machine.execVcmpLtF32Long d a b l s
  | .vcmpLeF32Long d a b l => Sys2Proof.Machine.execVcmpLeF32Long d a b l s
  | .vcmpGtF32Long d a b l => Sys2Proof.Machine.execVcmpGtF32Long d a b l s
  | .vcmpGeF32Long d a b l => Sys2Proof.Machine.execVcmpGeF32Long d a b l s
  | .vcmpEqI32Long d a b l => Sys2Proof.Machine.execVcmpEqI32Long d a b l s
  | .vcmpNeI32Long d a b l => Sys2Proof.Machine.execVcmpNeI32Long d a b l s
  | .vcmpLtI32Long d a b l => Sys2Proof.Machine.execVcmpLtI32Long d a b l s
  | .vcmpLeI32Long d a b l => Sys2Proof.Machine.execVcmpLeI32Long d a b l s
  | .vcmpGtI32Long d a b l => Sys2Proof.Machine.execVcmpGtI32Long d a b l s
  | .vcmpGeI32Long d a b l => Sys2Proof.Machine.execVcmpGeI32Long d a b l s
  | .vcmpLtN32Long d a b l => Sys2Proof.Machine.execVcmpLtN32Long d a b l s
  | .vcmpLeN32Long d a b l => Sys2Proof.Machine.execVcmpLeN32Long d a b l s
  | .vcmpGtN32Long d a b l => Sys2Proof.Machine.execVcmpGtN32Long d a b l s
  | .vcmpGeN32Long d a b l => Sys2Proof.Machine.execVcmpGeN32Long d a b l s
  | .vpackLong d a b l => Sys2Proof.Machine.execVpackLong d a b l s
  | .vunploLong d a l => Sys2Proof.Machine.execVunploLong d a l s
  | .vunphiLong d a l => Sys2Proof.Machine.execVunphiLong d a l s
  | .vmovLong d a l => Sys2Proof.Machine.execVmovLong d a l s
  | .vbcstLong d a b l => Sys2Proof.Machine.execVbcstLong d a b l s
  | .vshflLong d a b l => Sys2Proof.Machine.execVshflLong d a b l s
  | .vbflyLong d a b l => Sys2Proof.Machine.execVbflyLong d a b l s
  | .vlsuLong d a b l => Sys2Proof.Machine.execVlsuLong d a b l s
  | .vlsdLong d a b l => Sys2Proof.Machine.execVlsdLong d a b l s
  | .vscanLong d a l => Sys2Proof.Machine.execVscanLong d a l s
  | .vdot2Long d a b l => Sys2Proof.Machine.execVdot2Long d a b l s
  | .vlane d => Sys2Proof.Machine.execVlane d s
  | .vmovs d a => Sys2Proof.Machine.execVmovs d a s
  | .vgetr d a => Sys2Proof.Machine.execVgetr d a s
  | .vsetr d a => Sys2Proof.Machine.execVsetr d a s
  | .vgetl d a b => Sys2Proof.Machine.execVgetl d a b s
  | .vputl d a b => Sys2Proof.Machine.execVputl d a b s
  | .vpand d a b => Sys2Proof.Machine.execVpand d a b s
  | .vpor d a b => Sys2Proof.Machine.execVpor d a b s
  | .vpxor d a b => Sys2Proof.Machine.execVpxor d a b s
  | .vpandn d a b => Sys2Proof.Machine.execVpandn d a b s
  | .vpmov d a => Sys2Proof.Machine.execVpmov d a s
  | .vpget d a => Sys2Proof.Machine.execVpget d a s
  | .vvall d a => Sys2Proof.Machine.execVvall d a s
  | .vvany d a => Sys2Proof.Machine.execVvany d a s
  | .vpcnt d a => Sys2Proof.Machine.execVpcnt d a s
  | .vmovi d imm => Sys2Proof.Machine.execVmovi d imm s
  | .vcvt d a dfmt l => Sys2Proof.Machine.execVcvt d a dfmt l s
  | .sldN8 d a off => Sys2Proof.Machine.execSldN8 d a off s
  | .sldI8 d a off => Sys2Proof.Machine.execSldI8 d a off s
  | .sldN16 d a off => Sys2Proof.Machine.execSldN16 d a off s
  | .sldI16 d a off => Sys2Proof.Machine.execSldI16 d a off s
  | .sldN32 d a off => Sys2Proof.Machine.execSldN32 d a off s
  | .sldI32 d a off => Sys2Proof.Machine.execSldI32 d a off s
  | .sldN64 d a off => Sys2Proof.Machine.execSldN64 d a off s
  | .sstN8 d a off => Sys2Proof.Machine.execSstN8 d a off s
  | .sstN16 d a off => Sys2Proof.Machine.execSstN16 d a off s
  | .sstN32 d a off => Sys2Proof.Machine.execSstN32 d a off s
  | .sstN64 d a off => Sys2Proof.Machine.execSstN64 d a off s
  | .vld d a off => Sys2Proof.Machine.execVld d a off s
  | .vst d a off => Sys2Proof.Machine.execVst d a off s
  | .vldx d a sc x => Sys2Proof.Machine.execVldx d a sc x s
  | .vstx d a sc x => Sys2Proof.Machine.execVstx d a sc x s
  | .vldro d a off => Sys2Proof.Machine.execVldro d a off s
  | .vldrox d a sc x => Sys2Proof.Machine.execVldrox d a sc x s
  | .vldv d a off => Sys2Proof.Machine.execVldv d a off s
  | .vstv d a off => Sys2Proof.Machine.execVstv d a off s
  | .vldvx d a sc x => Sys2Proof.Machine.execVldvx d a sc x s
  | .vstvx d a sc x => Sys2Proof.Machine.execVstvx d a sc x s
  | .vsts d a off => Sys2Proof.Machine.execVsts d a off s
  | .vaadd d a sc x => Sys2Proof.Machine.execVaadd d a sc x s
  | .vamin d a sc x => Sys2Proof.Machine.execVamin d a sc x s
  | .vamax d a sc x => Sys2Proof.Machine.execVamax d a sc x s
  | .vaand d a sc x => Sys2Proof.Machine.execVaand d a sc x s
  | .vaor d a sc x => Sys2Proof.Machine.execVaor d a sc x s
  | .vaxor d a sc x => Sys2Proof.Machine.execVaxor d a sc x s
  | .vaxchg d a sc x => Sys2Proof.Machine.execVaxchg d a sc x s
  | .vacas d a sc x => Sys2Proof.Machine.execVacas d a sc x s
  | .vafadd d a sc x => Sys2Proof.Machine.execVafadd d a sc x s
  | .vafmin d a sc x => Sys2Proof.Machine.execVafmin d a sc x s
  | .vafmax d a sc x => Sys2Proof.Machine.execVafmax d a sc x s
  | .vredadd d a sc x => Sys2Proof.Machine.execVredadd d a sc x s
  | .vredmin d a sc x => Sys2Proof.Machine.execVredmin d a sc x s
  | .vredmax d a sc x => Sys2Proof.Machine.execVredmax d a sc x s
  | .vredand d a sc x => Sys2Proof.Machine.execVredand d a sc x s
  | .vredor d a sc x => Sys2Proof.Machine.execVredor d a sc x s
  | .vredxor d a sc x => Sys2Proof.Machine.execVredxor d a sc x s
  | .vredfadd d a sc x => Sys2Proof.Machine.execVredfadd d a sc x s
  | .vredfmin d a sc x => Sys2Proof.Machine.execVredfmin d a sc x s
  | .vredfmax d a sc x => Sys2Proof.Machine.execVredfmax d a sc x s
  | .sseqadd d a off => Sys2Proof.Machine.execSseqadd d a off s
  | .sarwait d a off => Sys2Proof.Machine.execSarwait d a off s
  | .saadd d a off => Sys2Proof.Machine.execSaadd d a off s
  | .sacas d a off => Sys2Proof.Machine.execSacas d a off s
  | .fence paths scope => Sys2Proof.Machine.execFence paths scope s
  | .fenceAcq paths scope => Sys2Proof.Machine.execFenceAcq paths scope s
  | .fenceRel paths scope => Sys2Proof.Machine.execFenceRel paths scope s
  | .roinv => Sys2Proof.Machine.execRoinv s
  | .vpref a off => Sys2Proof.Machine.execVpref a off s
  | .spref a off => Sys2Proof.Machine.execSpref a off s
  | .sldN8Long d a off l => Sys2Proof.Machine.execSldN8Long d a off l s
  | .sldI8Long d a off l => Sys2Proof.Machine.execSldI8Long d a off l s
  | .sldN16Long d a off l => Sys2Proof.Machine.execSldN16Long d a off l s
  | .sldI16Long d a off l => Sys2Proof.Machine.execSldI16Long d a off l s
  | .sldN32Long d a off l => Sys2Proof.Machine.execSldN32Long d a off l s
  | .sldI32Long d a off l => Sys2Proof.Machine.execSldI32Long d a off l s
  | .sldN64Long d a off l => Sys2Proof.Machine.execSldN64Long d a off l s
  | .sstN8Long d a off l => Sys2Proof.Machine.execSstN8Long d a off l s
  | .sstN16Long d a off l => Sys2Proof.Machine.execSstN16Long d a off l s
  | .sstN32Long d a off l => Sys2Proof.Machine.execSstN32Long d a off l s
  | .sstN64Long d a off l => Sys2Proof.Machine.execSstN64Long d a off l s
  | .vldLong d a off l => Sys2Proof.Machine.execVldLong d a off l s
  | .vstLong d a off l => Sys2Proof.Machine.execVstLong d a off l s
  | .vldxLong d a sc x l => Sys2Proof.Machine.execVldxLong d a sc x l s
  | .vstxLong d a sc x l => Sys2Proof.Machine.execVstxLong d a sc x l s
  | .vldroLong d a off l => Sys2Proof.Machine.execVldroLong d a off l s
  | .vldroxLong d a sc x l => Sys2Proof.Machine.execVldroxLong d a sc x l s
  | .vldvLong d a off l => Sys2Proof.Machine.execVldvLong d a off l s
  | .vstvLong d a off l => Sys2Proof.Machine.execVstvLong d a off l s
  | .vldvxLong d a sc x l => Sys2Proof.Machine.execVldvxLong d a sc x l s
  | .vstvxLong d a sc x l => Sys2Proof.Machine.execVstvxLong d a sc x l s
  | .vstsLong d a off l => Sys2Proof.Machine.execVstsLong d a off l s
  | .vaaddLong d a sc x l => Sys2Proof.Machine.execVaaddLong d a sc x l s
  | .vaminLong d a sc x l => Sys2Proof.Machine.execVaminLong d a sc x l s
  | .vamaxLong d a sc x l => Sys2Proof.Machine.execVamaxLong d a sc x l s
  | .vaandLong d a sc x l => Sys2Proof.Machine.execVaandLong d a sc x l s
  | .vaorLong d a sc x l => Sys2Proof.Machine.execVaorLong d a sc x l s
  | .vaxorLong d a sc x l => Sys2Proof.Machine.execVaxorLong d a sc x l s
  | .vaxchgLong d a sc x l => Sys2Proof.Machine.execVaxchgLong d a sc x l s
  | .vacasLong d a sc x l => Sys2Proof.Machine.execVacasLong d a sc x l s
  | .vafaddLong d a sc x l => Sys2Proof.Machine.execVafaddLong d a sc x l s
  | .vafminLong d a sc x l => Sys2Proof.Machine.execVafminLong d a sc x l s
  | .vafmaxLong d a sc x l => Sys2Proof.Machine.execVafmaxLong d a sc x l s
  | .vredaddLong d a sc x l => Sys2Proof.Machine.execVredaddLong d a sc x l s
  | .vredminLong d a sc x l => Sys2Proof.Machine.execVredminLong d a sc x l s
  | .vredmaxLong d a sc x l => Sys2Proof.Machine.execVredmaxLong d a sc x l s
  | .vredandLong d a sc x l => Sys2Proof.Machine.execVredandLong d a sc x l s
  | .vredorLong d a sc x l => Sys2Proof.Machine.execVredorLong d a sc x l s
  | .vredxorLong d a sc x l => Sys2Proof.Machine.execVredxorLong d a sc x l s
  | .vredfaddLong d a sc x l => Sys2Proof.Machine.execVredfaddLong d a sc x l s
  | .vredfminLong d a sc x l => Sys2Proof.Machine.execVredfminLong d a sc x l s
  | .vredfmaxLong d a sc x l => Sys2Proof.Machine.execVredfmaxLong d a sc x l s
  | .sseqaddLong d a off l => Sys2Proof.Machine.execSseqaddLong d a off l s
  | .sarwaitLong d a off l => Sys2Proof.Machine.execSarwaitLong d a off l s
  | .saaddLong d a off l => Sys2Proof.Machine.execSaaddLong d a off l s
  | .sacasLong d a off l => Sys2Proof.Machine.execSacasLong d a off l s
  | .mma t x y qn q => Sys2Proof.Machine.execMma t x y qn q s
  | .mdual t x y qn q => Sys2Proof.Machine.execMdual t x y qn q s
  | .mclr t qn q => Sys2Proof.Machine.execMclr t qn q s
  | .mdrain t x qn q => Sys2Proof.Machine.execMdrain t x qn q s
  | .mstash t x qn q => Sys2Proof.Machine.execMstash t x qn q s
  | .mmaxr x qn q => Sys2Proof.Machine.execMmaxr x qn q s
  | .mmaLong t x y qn q imm => Sys2Proof.Machine.execMmaLong t x y qn q imm s
  | .mdualLong t x y qn q imm => Sys2Proof.Machine.execMdualLong t x y qn q imm s
  | .mdrainLong t x qn q imm => Sys2Proof.Machine.execMdrainLong t x qn q imm s
  | .mstashLong t x qn q imm => Sys2Proof.Machine.execMstashLong t x qn q imm s
  | .mringConfig n => Sys2Proof.Machine.execMringConfig n s
  | .mringAdvance n => Sys2Proof.Machine.execMringAdvance n s
  | .mtqset n imm => Sys2Proof.Machine.execMtqset n imm s
  | .mwait n => Sys2Proof.Machine.execMwait n s
  | .marrive n => Sys2Proof.Machine.execMarrive n s
  | .mfmt n => Sys2Proof.Machine.execMfmt n s
  | .mend => Sys2Proof.Machine.execMend s
  | .mreuse sel => Sys2Proof.Machine.execMreuse sel s
  | .mnop => Sys2Proof.Machine.execMnop s
  | .mfmtLong n imm => Sys2Proof.Machine.execMfmtLong n imm s
  | .mdesc n imm => Sys2Proof.Machine.execMdesc n imm s
  | .mloop count off => Sys2Proof.Machine.execMloop count off s
  | .mbra n inv off => Sys2Proof.Machine.execMbra n inv off s
  | .kemit d a b => Sys2Proof.Machine.execKemit d a b s
  | .srtrun d a b => Sys2Proof.Machine.execSrtrun d a b s
  | .srtmrg d a b => Sys2Proof.Machine.execSrtmrg d a b s
  | .srttab d a b => Sys2Proof.Machine.execSrttab d a b s
  | .vblend d a b => Sys2Proof.Machine.execVblend d a b s
  | .vblendg d a b => Sys2Proof.Machine.execVblendg d a b s
  | .gdeg d a b => Sys2Proof.Machine.execGdeg d a b s
  | .gdes d a b => Sys2Proof.Machine.execGdes d a b s
  | .claimPost d a b => Sys2Proof.Machine.execClaimPost d a b s
  | .claimTake d a b => Sys2Proof.Machine.execClaimTake d a b s
  | .claimDone d => Sys2Proof.Machine.execClaimDone d s
  | .taskPush d a b => Sys2Proof.Machine.execTaskPush d a b s
  | .taskSpawn d a b => Sys2Proof.Machine.execTaskSpawn d a b s
  | .wpset d a b => Sys2Proof.Machine.execWpset d a b s
  | .wpclr d a => Sys2Proof.Machine.execWpclr d a s
  | .cpy d a b => Sys2Proof.Machine.execCpy d a b s
  | .cpym d a b => Sys2Proof.Machine.execCpym d a b s
  | .cpydrn d a b => Sys2Proof.Machine.execCpydrn d a b s
  | .cstage d a => Sys2Proof.Machine.execCstage d a s
  | .colRun d a b => Sys2Proof.Machine.execColRun d a b s
  | .colSend a b => Sys2Proof.Machine.execColSend a b s
  | .colRed a b => Sys2Proof.Machine.execColRed a b s
  | .colStep => Sys2Proof.Machine.execColStep s
  | .colEnd => Sys2Proof.Machine.execColEnd s
  | .colSig a b => Sys2Proof.Machine.execColSig a b s
  | .fblkw d a b => Sys2Proof.Machine.execFblkw d a b s
  | .fblkr d a b => Sys2Proof.Machine.execFblkr d a b s
  | .fld d a => Sys2Proof.Machine.execFld d a s
  | .fst d a b => Sys2Proof.Machine.execFst d a b s
  | .stepArrive d => Sys2Proof.Machine.execStepArrive d s
  | .stepWait d => Sys2Proof.Machine.execStepWait d s
  | .arrtgt d a => Sys2Proof.Machine.execArrtgt d a s
  | .lnkdrn d a => Sys2Proof.Machine.execLnkdrn d a s
  | .lnkctlRead d a b => Sys2Proof.Machine.execLnkctlRead d a b s
  | .lnkctlHold d a b => Sys2Proof.Machine.execLnkctlHold d a b s
  | .lnkctlRelease d a b => Sys2Proof.Machine.execLnkctlRelease d a b s
  | .lnkctlDisable d a b => Sys2Proof.Machine.execLnkctlDisable d a b s
  | .lnkctlEnable d a b => Sys2Proof.Machine.execLnkctlEnable d a b s
  | .kemitLong d a b l => Sys2Proof.Machine.execKemitLong d a b l s
  | .srtrunLong d a b l => Sys2Proof.Machine.execSrtrunLong d a b l s
  | .srtmrgLong d a b l => Sys2Proof.Machine.execSrtmrgLong d a b l s
  | .srttabLong d a b l => Sys2Proof.Machine.execSrttabLong d a b l s
  | .vblendLong d a b l => Sys2Proof.Machine.execVblendLong d a b l s
  | .vblendgLong d a b l => Sys2Proof.Machine.execVblendgLong d a b l s
  | .gdegLong d a b l => Sys2Proof.Machine.execGdegLong d a b l s
  | .gdesLong d a b l => Sys2Proof.Machine.execGdesLong d a b l s
  | .claimPostLong d a b l => Sys2Proof.Machine.execClaimPostLong d a b l s
  | .claimTakeLong d a b l => Sys2Proof.Machine.execClaimTakeLong d a b l s
  | .claimDoneLong d l => Sys2Proof.Machine.execClaimDoneLong d l s
  | .taskPushLong d a b l => Sys2Proof.Machine.execTaskPushLong d a b l s
  | .taskSpawnLong d a b l => Sys2Proof.Machine.execTaskSpawnLong d a b l s
  | .wpsetLong d a b l => Sys2Proof.Machine.execWpsetLong d a b l s
  | .wpclrLong d a l => Sys2Proof.Machine.execWpclrLong d a l s
  | .cpyLong d a b l => Sys2Proof.Machine.execCpyLong d a b l s
  | .cpymLong d a b l => Sys2Proof.Machine.execCpymLong d a b l s
  | .cpydrnLong d a b l => Sys2Proof.Machine.execCpydrnLong d a b l s
  | .cstageLong d a l => Sys2Proof.Machine.execCstageLong d a l s
  | .colRunLong d a b l => Sys2Proof.Machine.execColRunLong d a b l s
  | .fblkwLong d a b l => Sys2Proof.Machine.execFblkwLong d a b l s
  | .fblkrLong d a b l => Sys2Proof.Machine.execFblkrLong d a b l s
  | .fldLong d a l => Sys2Proof.Machine.execFldLong d a l s
  | .fstLong d a b l => Sys2Proof.Machine.execFstLong d a b l s
  | .stepArriveLong d l => Sys2Proof.Machine.execStepArriveLong d l s
  | .stepWaitLong d l => Sys2Proof.Machine.execStepWaitLong d l s
  | .arrtgtLong d a l => Sys2Proof.Machine.execArrtgtLong d a l s
  | .lnkdrnLong d a l => Sys2Proof.Machine.execLnkdrnLong d a l s
  | .lnkctlLong d a b l => Sys2Proof.Machine.execLnkctlLong d a b l s
  | .clauseFetch => Sys2Proof.Machine.execClauseFetch s
  | .clauseWaitMet => Sys2Proof.Machine.execClauseWaitMet s
  | .watchdogBudget => Sys2Proof.Machine.execWatchdogBudget s
  | .watchdogStall => Sys2Proof.Machine.execWatchdogStall s
  | .impreciseFaultDeliver w => Sys2Proof.Machine.execImpreciseFaultDeliver w s
  | .loadDataArrive op => Sys2Proof.Machine.execLoadDataArrive op s
  | .atomicResultReturn op => Sys2Proof.Machine.execAtomicResultReturn op s
  | .trackerAck op => Sys2Proof.Machine.execTrackerAck op s
  | .reduceFlushApply line => Sys2Proof.Machine.execReduceFlushApply line s
  | .pageWalk => Sys2Proof.Machine.execPageWalk s
  | .binTimerExpire die node => Sys2Proof.Machine.execBinTimerExpire die node s
  | .gangPlace die => Sys2Proof.Machine.execGangPlace die s
  | .gangAge entry => Sys2Proof.Machine.execGangAge entry s
  | .gangBlocking entry => Sys2Proof.Machine.execGangBlocking entry s
  | .saveBudgetExpire gang => Sys2Proof.Machine.execSaveBudgetExpire gang s
  | .saveWrite gang => Sys2Proof.Machine.execSaveWrite gang s
  | .gangRestore gang die => Sys2Proof.Machine.execGangRestore gang die s
  | .gangRetire gang => Sys2Proof.Machine.execGangRetire gang s
  | .launchCompletion launch => Sys2Proof.Machine.execLaunchCompletion launch s
  | .bodyPhaseStart launch => Sys2Proof.Machine.execBodyPhaseStart launch s
  | .bodyWaveForm launch die => Sys2Proof.Machine.execBodyWaveForm launch die s
  | .pitchRequest req => Sys2Proof.Machine.execPitchRequest req s
  | .pitchRelease rel => Sys2Proof.Machine.execPitchRelease rel s
  | .sortStart die => Sys2Proof.Machine.execSortStart die s
  | .gdeStart die => Sys2Proof.Machine.execGdeStart die s
  | .copyStart quad => Sys2Proof.Machine.execCopyStart quad s
  | .scheduleEntryStart gang => Sys2Proof.Machine.execScheduleEntryStart gang s
  | .collectiveStart => Sys2Proof.Machine.execCollectiveStart s
  | .engineCompletion cmd => Sys2Proof.Machine.execEngineCompletion cmd s
  | .chainTailWrite c tail => Sys2Proof.Machine.execChainTailWrite c tail s
  | .chainEnable c on => Sys2Proof.Machine.execChainEnable c on s
  | .chainReset c => Sys2Proof.Machine.execChainReset c s
  | .chainLaunch c => Sys2Proof.Machine.execChainLaunch c s
  | .chainSignal c => Sys2Proof.Machine.execChainSignal c s
  | .chainNodedef c => Sys2Proof.Machine.execChainNodedef c s
  | .chainNop c => Sys2Proof.Machine.execChainNop c s
  | .launchPacketSend go => Sys2Proof.Machine.execLaunchPacketSend go s
  | .launchPacketAck => Sys2Proof.Machine.execLaunchPacketAck s
  | .launchPacketReceive pkt => Sys2Proof.Machine.execLaunchPacketReceive pkt s
  | .residencyReportReceive rep => Sys2Proof.Machine.execResidencyReportReceive rep s
  | .pieceArrive piece => Sys2Proof.Machine.execPieceArrive piece s
  | .pieceAck dst step seqNo denied => Sys2Proof.Machine.execPieceAck dst step seqNo denied s
  | .pieceRetransmit dst step seqNo => Sys2Proof.Machine.execPieceRetransmit dst step seqNo s
  | .remoteReadRequest req => Sys2Proof.Machine.execRemoteReadRequest req s
  | .remoteReadReply req data denied => Sys2Proof.Machine.execRemoteReadReply req data denied s
  | .vcEscape glob port crossed => Sys2Proof.Machine.execVcEscape glob port crossed s
  | .stepArrivedSend => Sys2Proof.Machine.execStepArrivedSend s
  | .stepArrivedReceive dev step msg => Sys2Proof.Machine.execStepArrivedReceive dev step msg s
  | .stepLostReceive dev step => Sys2Proof.Machine.execStepLostReceive dev step s
  | .stepOpenReceive step => Sys2Proof.Machine.execStepOpenReceive step s
  | .stepTimeout => Sys2Proof.Machine.execStepTimeout s
  | .stepCommit msg => Sys2Proof.Machine.execStepCommit msg s
  | .stepAbort step => Sys2Proof.Machine.execStepAbort step s
  | .stepOutcomeAck dev step => Sys2Proof.Machine.execStepOutcomeAck dev step s
  | .stepApplyComplete => Sys2Proof.Machine.execStepApplyComplete s
  | .linkLoss glob port => Sys2Proof.Machine.execLinkLoss glob port s
  | .linkLock glob port nbr => Sys2Proof.Machine.execLinkLock glob port nbr s
  | .noRouteTimeout dst => Sys2Proof.Machine.execNoRouteTimeout dst s
  | .drainMarkerReturn cmd => Sys2Proof.Machine.execDrainMarkerReturn cmd s
  | .linkEnableTimeout cmd => Sys2Proof.Machine.execLinkEnableTimeout cmd s
  | .podForm => Sys2Proof.Machine.execPodForm s
  | .podDissolve => Sys2Proof.Machine.execPodDissolve s
  | .tlbInvalidate => Sys2Proof.Machine.execTlbInvalidate s
  | .invalidateComplete => Sys2Proof.Machine.execInvalidateComplete s
  | .lineRepair pa => Sys2Proof.Machine.execLineRepair pa s
  | .serviceWrite v => Sys2Proof.Machine.execServiceWrite v s
  | .thermalResume => Sys2Proof.Machine.execThermalResume s
  | .evstatClear m => Sys2Proof.Machine.execEvstatClear m s
  | .wpclearHandle h => Sys2Proof.Machine.execWpclearHandle h s
  | .wpclearAsid asid => Sys2Proof.Machine.execWpclearAsid asid s
  | .wpclearAll => Sys2Proof.Machine.execWpclearAll s
  | .routeWrite group v => Sys2Proof.Machine.execRouteWrite group v s
  | .checkpointGo => Sys2Proof.Machine.execCheckpointGo s
  | .checkpointDone err => Sys2Proof.Machine.execCheckpointDone err s
  | .msixVectorUnmask vec => Sys2Proof.Machine.execMsixVectorUnmask vec s
  | .registerWrite off v => Sys2Proof.Machine.execRegisterWrite off v s
  | .deviceReset => Sys2Proof.Machine.execDeviceReset s
  | .powerStateEnter => Sys2Proof.Machine.execPowerStateEnter s
  | .powerWake => Sys2Proof.Machine.execPowerWake s
  | .powerExitComplete => Sys2Proof.Machine.execPowerExitComplete s
  | .thermalTrip die => Sys2Proof.Machine.execThermalTrip die s
  | .thermalHoldEnd => Sys2Proof.Machine.execThermalHoldEnd s
  | .unassignedOpcode w => Sys2Proof.Machine.execUnassignedOpcode w s
  | .drainPerformed op => Sys2Proof.Machine.execDrainPerformed op s
  | .stepOutcomeResend step => Sys2Proof.Machine.execStepOutcomeResend step s
  | .arithmeticClockChange mhz => Sys2Proof.Machine.execArithmeticClockChange mhz s

end Sys2Proof.Machine
end

