-- ==== Sys2Proof/Machine/Pipe.lean ====
section
/-!
DEFINITION. The vector pipes (R49, R51, R61, R344): whether a wave's next issue goes on, which wave of a pipe issues, and what a turn of a wave
is.
-/
namespace Sys2Proof.Machine

/-- Run the instruction of a turn; a party that has none does nothing. -/
def runTurn (i : Option Instr) (s : State) : Out :=
  match i with
  | some i => exec i s
  | none => .next s

/-- What comes of the next issue of the wave whose turn it is; one that stands behind a parked atomic waits (R465). -/
noncomputable def State.attempt (s : State) : Out :=
  if s.behindAtomic s.cur then .next s.block else exec s.waveInstr s

/-- Wave `k` has gone on: it has issued, or has begun to wait inside its instruction. -/
def State.wentOn (s t : State) (k : Nat) : Bool := !(t.waveAt k).held || (t.waveAt k).waiting != (s.waveAt k).waiting

/-- Wave `k` has nothing to do before its next issue, and that would go on. -/
noncomputable def State.canGo (s : State) (k : Nat) : Bool :=
  let s := s.turnOf .wave k
  s.wave.status == .live && s.waveEvent.isNone && match s.attempt with
    | .next t => s.wentOn t k
    | _ => true

/-- Wave `k` is ready to issue (R51). -/
noncomputable def State.isReady (s : State) (k : Nat) : Bool := (s.waveAt k).phase == .issue && s.canGo k

/-! ### Round robin (R51) -/

/-- A wave's pipe, counting pipes over the package, and its position there (R20, R21). -/
def Wave.pipe (w : Wave) : Nat := 4 * w.core + field w.waveid.toNat 3 2
def Wave.pos (w : Wave) : Nat := field w.waveid.toNat 1 0

/-- The other waves of a wave's pipe that run. -/
def State.pipeMates (s : State) (k : Nat) : List (Nat × Wave) :=
  s.waves.filter fun w => w.1 != k && w.2.status == .live && w.2.pipe == (s.waveAt k).pipe

/-- A wave stands inside a clause that it has started, and was not held at its last turn. -/
def Wave.midClause (w : Wave) : Bool := w.status == .live && w.phase == .issue && w.idx != 0 && !w.held

/-- How far a position lies behind position `last`, going round. -/
def behindPos (last pos : Nat) : Nat := (pos + 15 - last) % 4

/-- Wave `k`, which is ready, has its pipe: it is inside the clause it started; or the pipe's last wave is not inside its own, and no ready wave
comes before `k` going round from there. -/
noncomputable def State.hasPipe (s : State) (k : Nat) : Bool :=
  let w := s.waveAt k
  let last := s.rr.get 3 w.pipe
  let mates := s.pipeMates k
  mates.isEmpty || (w.pos == last && w.midClause) ||
    (!mates.any (fun m => m.2.pos == last && m.2.midClause) &&
      mates.all fun m => !(decide (behindPos last m.2.pos < behindPos last w.pos) && s.isReady m.1))

/-- The wave whose turn it is has issued: its pipe goes round from it, and what walks returned to it has been used. -/
def State.issued (s t : State) : State :=
  { t.forget (waveWaiter s.cur) with rr := t.rr.set s.wave.pipe s.wave.pos }

/-- The wave's next issue came to `t`: it goes on, or its pipe belongs to another wave, which leaves everything as it is; or it is held, and
traps once it has been blocked for its stall limit (R49). -/
noncomputable def State.issueTo (s t : State) : Out :=
  if !s.wentOn t s.cur then (if s.stalled s.cur then exec .watchdogStall s else .next t)
  else if s.wave.phase = .wait then .next t
  else if s.hasPipe s.cur then .next (s.issued t)
  else .next (s.modWave fun w => { w with blockedAt := none, held := false })

/-- A turn of the wave whose turn it is. -/
noncomputable def State.waveTurn (s : State) : Out :=
  if s.wave.status ≠ .live then .next s
  else match s.waveEvent with
    | some e => exec e s
    | none => match s.attempt with
      | .next t => s.issueTo t
      | o => o

/-- A turn of the sequencer whose turn it is. -/
noncomputable def State.seqTurn (s : State) : Out :=
  match runTurn s.seqInstr s with
  | .next t => .next (s.seqUsed t s.seq)
  | o => o

/-- Waves that were blocked and are ready now are blocked no longer: the cycles until they are chosen do not count (R49). -/
noncomputable def State.unblock (s : State) : State :=
  { s with waves := s.waves.update fun k (w : Wave) => if w.blockedAt.isSome && s.canGo k then { w with blockedAt := none } else w }

/-! ### What memory, the host and the device's environment do -/

/-- A TLB takes a translation that the L2 TLB of its die holds (R239). -/
def State.tlbFill (s : State) (i unit : Nat) : State := match s.tlb[i]? with
  | some e => if e.unit == tlbL2 (tlbDie unit) && unit != e.unit then s.tlbPut { e with unit := unit } else s
  | none => s

/-- A line of memory begins to fail, by an uncorrectable error or as poison (R267). -/
def State.lineFail (s : State) (line : Nat) (code : Code) : State :=
  if code = Code.uncorr ∨ code = Code.poison then { s with bad := s.bad.set line code } else s

/-- A line of a vault begins to fail (R267). -/
def State.vaultFail (s : State) (gang line : Nat) : State :=
  if s.badVault.contains (gang, line) then s else { s with badVault := s.badVault ++ [(gang, line)] }

/-- The host masks an MSI-X vector (R498). -/
def State.maskVector (s : State) (vec : Nat) : State :=
  if vec < 66 && !s.msixMask.contains vec then { s with msixMask := s.msixMask ++ [vec] } else s

end Sys2Proof.Machine
end

