-- ==== Sys2Proof/Machine/Step.lean ====
section
/-!
DEFINITION. One step of the device: the act that comes next (log 1), and what follows every step; and how an instruction is
placed where the next step finds it (log 5).
-/
namespace Sys2Proof.Machine

/-- Do one act. -/
noncomputable def act (a : Act) (s : State) : Host.Outcome State Fault Refusal :=
  match a with
  | .wave k => (s.turnOf .wave k).waveTurn
  | .seq k => (s.turnOf .seq k).seqTurn
  | .col => runTurn (s.turnOf .col 0).colInstrAt (s.turnOf .col 0)
  | .perform op chan => .next (s.performIn op chan)
  | .event e => if Instr.isEvent e then exec e s else .next s
  | .hostWrite pa bs => s.hostWrite pa bs
  | .evict line => .next (s.evict line)
  | .tlbDrop i => .next { s with tlb := s.tlb.eraseIdx i }
  | .roDrop i => .next { s with ro := s.ro.eraseIdx i }
  | .tlbFill i unit => .next (s.tlbFill i unit)
  | .lineFail line code => .next (s.lineFail line code)
  | .vaultFail gang line => .next (s.vaultFail gang line)
  | .bringUp => .next s.nextBringUp
  | .msixMask vec => .next (s.maskVector vec)

/-- What follows an act that gave a next state. -/
noncomputable def after (o : Host.Outcome State Fault Refusal) : Host.Outcome State Fault Refusal :=
  match o with
  | .next s => .next s.tidied.unblock
  | .fault f => .fault f
  | .refused r => .refused r

/-- One step. -/
noncomputable def step (s : State) : Host.Outcome State Fault Refusal := after (act s.nextAct.1 s.nextAct.2)

/-- `s` with an instruction placed where the next step fetches it. -/
noncomputable def State.withFetchWord (s : State) (nbits w : Nat) : State := s.placeWord nbits w

end Sys2Proof.Machine
end

