-- ==== Sys2Proof/Safety.lean ====
section
/-!
DEFINITION. What counts as a safe run: one whose steps all answer a next state. The model stops only with
`Fault.noMemory`, an access to a physical address to which R232 gives no memory.
-/
namespace Sys2Proof.Machine

/-- A step from this state does not stop. -/
def Safe (s : State) : Prop := ∃ t, step s = .next t

/-- A state that `n` steps lead to from `s`. -/
inductive Reaches : State → Nat → State → Prop where
  | refl (s : State) : Reaches s 0 s
  | next (s t u : State) (n : Nat) : step s = .next t → Reaches t n u → Reaches s (n + 1) u

/-- Every state that can be reached from `s` is safe. -/
def SafeRun (s : State) : Prop := ∀ n t, Reaches s n t → Safe t

end Sys2Proof.Machine
end

