-- ==== Sys2Proof/Certificates/Slice0/Obligations.lean ====
section
/-!
DEFINITION. The statements for the provers: what the rules of the manual say that instructions and events do.
-/

/-! ### Vocabulary -/

namespace Sys2Proof.Claim
open Sys2Proof.Machine

/-- The wave whose turn it is stands at an instruction of its clause (R60, R61). -/
def AtInstr (s : State) : Prop := s.wave.status = .live ∧ s.wave.phase = .issue

/-- Scalar registers that the wave owns and that are full (R23, R81, R82). -/
def SFull (w : Wave) (rs : List Nat) : Prop := ∀ n ∈ rs, n < w.sregN ∧ w.sFull n = true

/-- Vector registers that the wave owns and that are full. -/
def VFull (w : Wave) (rs : List Nat) : Prop := ∀ n ∈ rs, n < w.vregN ∧ w.vFull n = true

/-- The state after the wave whose turn it is has done an instruction of `len` words whose other effect on the wave is `f`: the
instruction is counted (R49) and the wave goes on behind it (R38, R61). -/
def done (s : State) (len : Nat) (f : Wave → Wave) : State := s.setWave ((f s.wave).retire len)

/-- Nothing but the wave whose turn it is differs. -/
def OnlyWave (s t : State) : Prop := ∃ w, t = s.setWave w

/-- The registers of two waves agree but for the scalar registers `ss`, the vector registers `vs` and the predicates `ps`. -/
def RegsAgree (w v : Wave) (ss vs ps : List Nat) : Prop :=
  (∀ n, n ∉ ss → v.sreg n = w.sreg n ∧ v.sFull n = w.sFull n) ∧
  (∀ n, n ∉ vs → v.vreg n = w.vreg n ∧ v.vFull n = w.vFull n) ∧
  (∀ n, n ∉ ps → v.pred n = w.pred n)

/-- The system state of two waves agrees: trap state, handler, watchdog limits, `VSTAT`, pending faults (R155, R458, R462). -/
def SystemAgrees (w v : Wave) : Prop :=
  v.trap = w.trap ∧ v.tfev = w.tfev ∧ v.inHandler = w.inHandler ∧ v.budget = w.budget ∧ v.stall = w.stall ∧ v.vstat = w.vstat ∧
    v.pend = w.pend ∧ v.waveid = w.waveid ∧ v.status = w.status

/-- Every byte of memory and of every vault, every other wave, and every sequencer read as before. -/
def RestAgrees (s t : State) : Prop :=
  (∀ a, Memory.get t.mem a = Memory.get s.mem a) ∧ (∀ g, t.gang g = s.gang g) ∧ (∀ k, k ≠ s.cur → t.waveAt k = s.waveAt k) ∧
    t.seqs = s.seqs ∧ t.ops = s.ops ∧ t.hr = s.hr

/-! The scalar types of R69. -/

/-- The width N of a scalar TYPE: 64, 32, 16, 8. -/
def typeBits (t : BitVec 3) : Nat :=
  if t = 0 ∨ t = 1 then 64 else if t = 2 ∨ t = 3 then 32 else if t = 4 ∨ t = 5 then 16 else 8

/-- TYPE 1, 3, 5 and 7 are signed. -/
def isSigned (t : BitVec 3) : Bool := t = 1 ∨ t = 3 ∨ t = 5 ∨ t = 7

/-- Bits [N-1:0] of a register. -/
def low (t : BitVec 3) (x : Word) : BitVec (typeBits t) := x.setWidth (typeBits t)

/-- The value of bits [N-1:0] under the type (R143). -/
def value (t : BitVec 3) (x : Word) : Int := if isSigned t then (low t x).toInt else (low t x).toNat

/-- The N-bit result, sign- or zero-extended to 64 bits (R143). -/
def extended (t : BitVec 3) (x : BitVec (typeBits t)) : Word := if isSigned t then x.signExtend 64 else x.setWidth 64

/-- An exact integer reduced to N bits and extended. -/
def delivered (t : BitVec 3) (x : Int) : Word := extended t (BitVec.ofInt (typeBits t) x)

/-- 1 or 0. -/
def bit (b : Prop) [Decidable b] : Word := if b then 1 else 0

/-- Number of 1 bits among the low `n` bits. -/
def ones (n : Nat) (x : Word) : Nat := ((List.range n).filter fun i => x.getLsbD i).length

/-- The quotient of R145: all N bits set for a divisor 0. -/
def quotient (t : BitVec 3) (x y : Word) : Word :=
  if value t y = 0 then extended t (BitVec.allOnes (typeBits t)) else delivered t ((value t x).tdiv (value t y))

/-- The remainder of R145: x for a divisor 0. -/
def remainder (t : BitVec 3) (x y : Word) : Word :=
  if value t y = 0 then extended t (low t x) else delivered t ((value t x).tmod (value t y))

/-- What a compact scalar instruction of R144 does: its destination, the registers it reads, and the new value of the
destination. -/
def scalarEffect : Instr → Option (BitVec 7 × List (BitVec 7) × (Wave → Word))
  | .sadd d a b t => some (d, [a, b], fun w => delivered t (value t (w.sreg a.toNat) + value t (w.sreg b.toNat)))
  | .ssub d a b t => some (d, [a, b], fun w => delivered t (value t (w.sreg a.toNat) - value t (w.sreg b.toNat)))
  | .smul d a b t => some (d, [a, b], fun w => delivered t (value t (w.sreg a.toNat) * value t (w.sreg b.toNat)))
  | .smulh d a b t => some (d, [a, b], fun w => delivered t (value t (w.sreg a.toNat) * value t (w.sreg b.toNat) / 2 ^ typeBits t))
  | .sdiv d a b t => some (d, [a, b], fun w => quotient t (w.sreg a.toNat) (w.sreg b.toNat))
  | .srem d a b t => some (d, [a, b], fun w => remainder t (w.sreg a.toNat) (w.sreg b.toNat))
  | .smin d a b t => some (d, [a, b], fun w => delivered t (min (value t (w.sreg a.toNat)) (value t (w.sreg b.toNat))))
  | .smax d a b t => some (d, [a, b], fun w => delivered t (max (value t (w.sreg a.toNat)) (value t (w.sreg b.toNat))))
  | .sand d a b t => some (d, [a, b], fun w => extended t (low t (w.sreg a.toNat) &&& low t (w.sreg b.toNat)))
  | .sor d a b t => some (d, [a, b], fun w => extended t (low t (w.sreg a.toNat) ||| low t (w.sreg b.toNat)))
  | .sxor d a b t => some (d, [a, b], fun w => extended t (low t (w.sreg a.toNat) ^^^ low t (w.sreg b.toNat)))
  | .sandn d a b t => some (d, [a, b], fun w => extended t (low t (w.sreg a.toNat) &&& ~~~low t (w.sreg b.toNat)))
  | .sshl d a b t => some (d, [a, b], fun w => extended t (low t (w.sreg a.toNat) <<< ((w.sreg b.toNat).toNat % typeBits t)))
  | .sshr d a b t => some (d, [a, b], fun w => delivered t (value t (w.sreg a.toNat) / 2 ^ ((w.sreg b.toNat).toNat % typeBits t)))
  | .srot d a b t => some (d, [a, b], fun w => extended t ((low t (w.sreg a.toNat)).rotateLeft ((w.sreg b.toNat).toNat % typeBits t)))
  | .sclz d a t => some (d, [a], fun w => BitVec.ofNat 64 (low t (w.sreg a.toNat)).clz.toNat)
  | .seq d a b t => some (d, [a, b], fun w => bit (low t (w.sreg a.toNat) = low t (w.sreg b.toNat)))
  | .sne d a b t => some (d, [a, b], fun w => bit (low t (w.sreg a.toNat) ≠ low t (w.sreg b.toNat)))
  | .slt d a b t => some (d, [a, b], fun w => bit (value t (w.sreg a.toNat) < value t (w.sreg b.toNat)))
  | .sle d a b t => some (d, [a, b], fun w => bit (value t (w.sreg a.toNat) ≤ value t (w.sreg b.toNat)))
  | .ssel d a b t => some (d, [a, b, d], fun w => extended t (low t (if w.sreg d.toNat ≠ 0 then w.sreg a.toNat else w.sreg b.toNat)))
  | .spopc d a t => some (d, [a], fun w => BitVec.ofNat 64 (ones (typeBits t) (w.sreg a.toNat)))
  | .sctz d a t => some (d, [a], fun w => BitVec.ofNat 64 (low t (w.sreg a.toNat)).ctz.toNat)
  | .sbrev d a t => some (d, [a], fun w => extended t (low t (w.sreg a.toNat)).reverse)
  | .smov d a t => some (d, [a], fun w => extended t (low t (w.sreg a.toNat)))
  | _ => none

/-- The field position that S[B] gives to `sbfx` and `sbfi` (R146): bits [5:0], and bits [14:8] but at most N. -/
def fieldLo (p : Word) : Nat := (p.extractLsb' 0 6).toNat
def fieldLen (t : BitVec 3) (p : Word) : Nat := min (p.extractLsb' 8 7).toNat (typeBits t)

/-- The new value of the destination of a bit-field instruction (R146). -/
def fieldEffect : Instr → Option (BitVec 7 × List (BitVec 7) × (Wave → Word))
  | .sbfx d a b t => some (d, [a, b], fun w =>
      let len := fieldLen t (w.sreg b.toNat)
      let f := low t (w.sreg a.toNat) >>> fieldLo (w.sreg b.toNat)
      extended t (if isSigned t then (f.setWidth len).signExtend (typeBits t) else (f.setWidth len).setWidth (typeBits t)))
  | .sbfi d a b t => some (d, [a, b, d], fun w =>
      let m : BitVec (typeBits t) := BitVec.ofNat (typeBits t) (2 ^ fieldLen t (w.sreg b.toNat) - 1) <<< fieldLo (w.sreg b.toNat)
      extended t ((low t (w.sreg d.toNat) &&& ~~~m) ||| ((low t (w.sreg a.toNat) <<< fieldLo (w.sreg b.toNat)) &&& m)))
  | _ => none

/-- What an immediate form of R147 and R148 does: its destination, the registers it reads, its words, and the new value. -/
def immediateEffect : Instr → Option (BitVec 7 × List (BitVec 7) × Nat × (Wave → Word))
  | .saddi d a i => some (d, [a], 1, fun w => w.sreg a.toNat + i.signExtend 64)
  | .smuli d a i => some (d, [a], 1, fun w => w.sreg a.toNat * i.signExtend 64)
  | .sandi d a i => some (d, [a], 1, fun w => w.sreg a.toNat &&& i.signExtend 64)
  | .sori d a i => some (d, [a], 1, fun w => w.sreg a.toNat ||| i.signExtend 64)
  | .sxori d a i => some (d, [a], 1, fun w => w.sreg a.toNat ^^^ i.signExtend 64)
  | .seqi d a i => some (d, [a], 1, fun w => bit (w.sreg a.toNat = i.signExtend 64))
  | .slti d a i => some (d, [a], 1, fun w => bit ((w.sreg a.toNat).toInt < i.toInt))
  | .sltni d a i => some (d, [a], 1, fun w => bit ((w.sreg a.toNat).toNat < (i.signExtend 64).toNat))
  | .smovi d i => some (d, [], 1, fun _ => i.signExtend 64)
  | .saddiLong d a i => some (d, [a], 2, fun w => w.sreg a.toNat + i.signExtend 64)
  | .smuliLong d a i => some (d, [a], 2, fun w => w.sreg a.toNat * i.signExtend 64)
  | .sandiLong d a i => some (d, [a], 2, fun w => w.sreg a.toNat &&& i.signExtend 64)
  | .soriLong d a i => some (d, [a], 2, fun w => w.sreg a.toNat ||| i.signExtend 64)
  | .sxoriLong d a i => some (d, [a], 2, fun w => w.sreg a.toNat ^^^ i.signExtend 64)
  | .seqiLong d a i => some (d, [a], 2, fun w => bit (w.sreg a.toNat = i.signExtend 64))
  | .sltiLong d a i => some (d, [a], 2, fun w => bit ((w.sreg a.toNat).toInt < i.toInt))
  | .sltniLong d a i => some (d, [a], 2, fun w => bit ((w.sreg a.toNat).toNat < (i.signExtend 64).toNat))
  | .smoviLong d i => some (d, [], 2, fun _ => i.signExtend 64)
  | .smovh d i => some (d, [d], 2, fun w => (i.setWidth 64 <<< 32) ||| (w.sreg d.toNat &&& 0xffffffff))
  | _ => none

/-- A shift by an immediate (R147): destination, source, words, amount, and the value. -/
def shiftEffect : Instr → Option (BitVec 7 × BitVec 7 × Nat × Nat × (Word → Word))
  | .sshli d a i => some (d, a, 1, i.toNat, fun x => x <<< i.toNat)
  | .sshri d a i => some (d, a, 1, i.toNat, fun x => x >>> i.toNat)
  | .ssrai d a i => some (d, a, 1, i.toNat, fun x => x.sshiftRight i.toNat)
  | .sshliLong d a i => some (d, a, 2, i.toNat, fun x => x <<< i.toNat)
  | .sshriLong d a i => some (d, a, 2, i.toNat, fun x => x >>> i.toNat)
  | .ssraiLong d a i => some (d, a, 2, i.toNat, fun x => x.sshiftRight i.toNat)
  | _ => none

/-- The address of the first word of the instruction at the wave's place (R149). -/
def instrAddr (w : Wave) : Word := w.pc + 4 + 4 * BitVec.ofNat 64 w.idx

/-- The address of the clause header after the wave's clause. -/
def headerAfter (w : Wave) : Word := w.pc + 4 + 4 * BitVec.ofNat 64 (hdrCount w.hdr)

/-- The instruction of `len` words at the wave's place is the last of its clause (R62). -/
def LastOfClause (w : Wave) (len : Nat) : Prop := hdrCount w.hdr ≤ w.idx + len

/-- The loop stack after a taken branch (R39): entries are popped from the top, the end of the list, while the target lies outside
their range; in a handler the stack is frozen (R459). -/
def unwound (w : Wave) (target : Word) : List LoopEntry :=
  if w.inHandler then w.ls
  else (w.ls.reverse.dropWhile fun e => !(decide (e.start.toNat ≤ target.toNat) && decide (target.toNat ≤ e.fin.toNat))).reverse

/-- A transfer of R150 apart from `call`, `loop` and the ends of a wave: the registers it reads, its words, whether it jumps, whether
it unwinds, and its target. -/
def branchEffect : Instr → Option (List (BitVec 7) × Nat × (Wave → Bool) × Bool × (Wave → Word))
  | .bra o => some ([], 1, fun _ => true, true, fun w => instrAddr w + 4 * o.signExtend 64)
  | .bz a o => some ([a], 1, fun w => w.sreg a.toNat == 0, true, fun w => instrAddr w + 4 * o.signExtend 64)
  | .bnz a o => some ([a], 1, fun w => w.sreg a.toNat != 0, true, fun w => instrAddr w + 4 * o.signExtend 64)
  | .yield o => some ([], 1, fun _ => true, true, fun w => instrAddr w + 4 * o.signExtend 64)
  | .braLong o => some ([], 2, fun _ => true, true, fun w => instrAddr w + 4 * o.signExtend 64)
  | .bzLong a o => some ([a], 2, fun w => w.sreg a.toNat == 0, true, fun w => instrAddr w + 4 * o.signExtend 64)
  | .bnzLong a o => some ([a], 2, fun w => w.sreg a.toNat != 0, true, fun w => instrAddr w + 4 * o.signExtend 64)
  | .yieldLong o => some ([], 2, fun _ => true, true, fun w => instrAddr w + 4 * o.signExtend 64)
  | .ret a => some ([a], 1, fun _ => true, false, fun w => w.sreg a.toNat &&& 0xfffffffffffffffc)
  | .brx a o => some ([a], 1, fun _ => true, true, fun w => (w.sreg a.toNat + 4 * o.signExtend 64) &&& 0xfffffffffffffffc)
  | _ => none

/-- `call` and its long twin: the link register, the words and the target. -/
def callEffect : Instr → Option (BitVec 7 × Nat × (Wave → Word))
  | .call a o => some (a, 1, fun w => instrAddr w + 4 * o.signExtend 64)
  | .callLong a o => some (a, 2, fun w => instrAddr w + 4 * o.signExtend 64)
  | _ => none

/-- `loop` and its long twin: the count register, the words and the end address. -/
def loopEffect : Instr → Option (BitVec 7 × Nat × (Wave → Word))
  | .loop a o => some (a, 1, fun w => instrAddr w + 4 * o.signExtend 64)
  | .loopLong a o => some (a, 2, fun w => instrAddr w + 4 * o.signExtend 64)
  | _ => none

/-- The wave's counted place after a transfer: it fetches a clause at an address next. -/
def fetches (w : Wave) (a : Word) (ls : List LoopEntry) : Wave :=
  { w with
    icount := if w.inHandler then w.icount else w.icount + 1, blockedAt := none, held := false, waiting := none, redo := none
    ls := ls, phase := .fetch, pc := a, idx := 0, resume := .no }

/-- The wave's counted place inside its clause, `n` words on, with a loop stack. -/
def goesOn (w : Wave) (n : Nat) (ls : List LoopEntry) : Wave :=
  { w with
    icount := if w.inHandler then w.icount else w.icount + 1, blockedAt := none, held := false, waiting := none, redo := none
    ls := ls, idx := w.idx + n }

/-- A code lies in one of some ranges. -/
def inRanges (c : Nat) (l : List (Nat × Nat)) : Bool := l.any fun r => decide (r.1 ≤ c ∧ c ≤ r.2)

/-- The codes below 0xf0 that the tables of R89 to R94 assign in a class, long twins and long-only codes among them. -/
def assignedIn (cls c : Nat) : Bool :=
  match cls with
  | 0 => inRanges c [(0x00, 0x1a), (0x20, 0x2b), (0x30, 0x3b), (0xa0, 0xac), (0xb0, 0xb3), (0xb6, 0xb6), (0xba, 0xba)]
  | 1 => inRanges c [(0x00, 0x19), (0x20, 0x3a), (0x60, 0x6f), (0x80, 0x99), (0xa0, 0xba), (0xe0, 0xe0)]
  | 2 => inRanges c [(0x00, 0x06), (0x08, 0x0b), (0x10, 0x1a), (0x20, 0x2a), (0x30, 0x38), (0x40, 0x43), (0x50, 0x53), (0x80, 0x86), (0x88, 0x8b),
      (0x90, 0x9a), (0xa0, 0xaa), (0xb0, 0xb8), (0xc0, 0xc3)]
  | 3 => inRanges c [(0x00, 0x0d), (0x80, 0x81), (0x83, 0x84), (0x8a, 0x8b), (0x8d, 0x8e)]
  | 4 => inRanges c [(0x00, 0x0e), (0x10, 0x13), (0x18, 0x1d), (0x20, 0x28), (0x80, 0x8e), (0x90, 0x93), (0x98, 0x9d), (0xa0, 0xa8)]
  | 5 => inRanges c [(0x00, 0x09), (0x89, 0x89)]
  | _ => false

/-- Every GEN access that a wave has issued is performed at a scope (R157, R162, R255, R270). -/
def GenPerformed (s : State) (k scope : Nat) : Prop := ∀ o ∈ s.ops, o.wave = k → o.path = .gen → o.doneAt scope = true

/-- No other wave of a wave's pipe runs (R20, R51). -/
def AloneInPipe (s : State) (k : Nat) : Prop :=
  ∀ m ∈ s.waves, m.1 ≠ k → m.2.status = .live → ¬ (m.2.core = (s.waveAt k).core ∧ m.2.waveid.toNat / 4 % 4 = (s.waveAt k).waveid.toNat / 4 % 4)

end Sys2Proof.Claim

/-! ### Encoding, decoding, steps, memory, reset -/

open Sys2Proof Sys2Proof.Machine Sys2Proof.Claim

/-- The encoder writes one word or two, as the opcode says (R87), and the decoder reads the instruction back from them, whatever
word follows a one-word form. -/
def Obligations.EncodedInstructionDecodesToItself : Prop :=
  ∀ (i : Instr) (c : Nat), i.cls = some c → i.canonical = true →
    (∃ w, encode i = [w] ∧ opWords w = 1 ∧ ∀ w2, decode c w w2 = i) ∨ (∃ w w2, encode i = [w, w2] ∧ opWords w = 2 ∧ decode c w w2 = i)

/-- Words that the manual writes out, each with the instruction it gives them: one for every class, one-word and two-word forms. -/
def Obligations.SpecWordsDecode : Prop :=
  ∀ w2 : BitVec 32,
    decode 0 0x00060c38 w2 = .sadd 3 3 7 0 ∧ decode 0 0x2b1a0020 w2 = .smovi 13 32 ∧ decode 0 0x33fe0005 w2 = .call 127 5 ∧
    decode 0 0xab060000 0x12345678 = .smoviLong 3 0x12345678 ∧ decode 1 0x24016166 w2 = .vcmpGtF32 1 0x61 0x66 ∧
    decode 1 0x3701000d w2 = .vlsu 1 0 13 ∧
    decode 1 0x80030305 0x00800400 = .vaddLong 3 3 5 ⟨0, 4, 0, 0, 0, 1, 0, false, 0⟩ ∧
    decode 2 0x0a0e0a00 w2 = .sstN32 14 5 0 ∧ decode 2 0x84060600 0x00002400 = .sldN32Long 6 3 0 ⟨0, 0, 0, 0, 0, true, false, 2, false, false⟩ ∧
    decode 2 0x50089000 w2 = .fenceRel 0x08 4 ∧ decode 3 0x00091900 w2 = .mma 4 17 18 false 0 ∧
    decode 3 0x83116000 0x00000007 = .mdrainLong 8 22 false 0 7 ∧ decode 4 0x1804040c w2 = .colRun 4 2 3 ∧
    decode 4 0x810c0c1c 0x00001600 = .srtrunLong 12 6 7 ⟨0, 0, 0, 0, 0, false, true, 3, false⟩ ∧ decode 5 0x00300100 w2 = .mfs 24 0x100

/-- R87, R88, R431: a word whose code no table of its class assigns, an untwinned long code, the one-word code of a long-only form, and a fence, a
ring form, a reuse hint or a branch with a reserved field decode to nothing; for the reserved bits of `mreuse` and `mbra` this is the model's reading of
R424 beside R66 (log 62). The wave that issues such a word takes ILLEGAL, and so does the sequencer. -/
def Sys2Proof.Claim.UnassignedCodeIsIllegal : Prop :=
  (∀ (cls : Nat) (w w2 : BitVec 32), opOf w < 0xf0 →
    (assignedIn cls (opOf w) = false ∨ (cls = 2 ∧ opOf w = 0x50 ∧ bits 11 2 w = 3) ∨ (cls = 3 ∧ opOf w = 0x06 ∧ 2 ≤ (bits 0 2 w).toNat) ∨
      (cls = 3 ∧ opOf w = 0x0c ∧ bits 3 13 w ≠ 0) ∨ (cls = 3 ∧ opOf w = 0x8e ∧ bits 1 15 w ≠ 0)) →
    decode cls w w2 = .unassignedOpcode w) ∧
  ∀ (w : BitVec 32) (s : State),
    (s.party = .wave → AtInstr s → exec (.unassignedOpcode w) s = .next s.illegal) ∧
    (s.party = .seq → s.sq.canIssue = true → exec (.unassignedOpcode w) s = .next (s.seqFault Code.illegal false))

/-- R87, R49: codes 0x00 to 0x7f are one-word forms, 0x80 to 0xef two-word forms, and 0xf0 to 0xff one-word hints in every class. A
hint counts in ICOUNT, and does nothing else, whatever its bits [23:0]; that it does so in a trap handler in class 1 too, beside R198, is the model's
choice (log 107). -/
def Sys2Proof.Claim.HintOnlyAdvances : Prop :=
  (∀ w : BitVec 32, (opOf w < 0x80 → opWords w = 1) ∧ (0x80 ≤ opOf w → opOf w < 0xf0 → opWords w = 2) ∧ (0xf0 ≤ opOf w → opWords w = 1)) ∧
  (∀ (cls : Nat) (w w2 : BitVec 32), 0xf0 ≤ opOf w → decode cls w w2 = .hint (bits 24 4 w)) ∧
  ∀ (k : BitVec 4) (s : State),
    (s.party = .wave → AtInstr s → exec (.hint k) s = .next (done s 1 id)) ∧
    (s.party = .seq → s.sq.canIssue = true → exec (.hint k) s = .next (s.modSeq (·.retire 1)))

/-- R49, R87, R88: a word that no table assigns is ILLEGAL; `hint` completes in every state whose wave or sequencer stands at it, and only advances. The reserved bits of `mreuse` and `mbra` (log 62) and a class-1 hint in a trap handler (log 107) are the model's reading. -/
def Obligations.UnassignedWordTrapsAndHintAdvances : Prop := Sys2Proof.Claim.UnassignedCodeIsIllegal ∧ Sys2Proof.Claim.HintOnlyAdvances

/-- R51, R61, R63: the step of a wave whose turn it is, standing at a word of its clause with nothing that comes before its next issue (a
save that is due, a fault that is pending, a watchdog limit, a parked atomic), is the effect of the instruction that its class's table
gives that word, followed by what follows every step. Where the instruction goes on and the pipe is the wave's, the pipe goes round from it; where the pipe
belongs to another wave, nothing is done, and the wave is not blocked (R49); a wave that is alone in its pipe always has it. `step` takes the turn from the
agenda. -/
def Obligations.StepRunsDecodedInstruction : Prop :=
  ∀ (s : State) (k : Nat) (rest : List Act),
    let t := { s with agenda := rest, party := .wave, cur := k }
    let i := t.resolve (decode (hdrClass t.wave.hdr) t.wave.word (nth 0 t.wave.words (t.wave.idx + 1)))
    s.agenda = .wave k :: rest → AtInstr t → t.mustStop k = false → t.takesFault k = false → t.wave.overBudget = false → t.behindAtomic k = false →
      (opWords t.wave.word = 2 → t.wave.idx + 1 < hdrCount t.wave.hdr) →
    (AloneInPipe t k → t.hasPipe k = true) ∧
    (∀ f, exec i t = .fault f → step s = .fault f) ∧
    ∀ u, exec i t = .next u →
      (t.wentOn u k = true → t.hasPipe k = true →
        step s = after (.next { u.forget (waveWaiter k) with rr := u.rr.set (4 * t.wave.core + t.wave.waveid.toNat / 4 % 4) (t.wave.waveid.toNat % 4) })) ∧
      (t.wentOn u k = true → t.hasPipe k = false → step s = after (.next (t.setWave { t.wave with blockedAt := none, held := false }))) ∧
      (t.wentOn u k = false → t.stalled k = false → step s = after (.next u)) ∧
      (t.wentOn u k = false → t.stalled k = true → step s = after (exec .watchdogStall t))

/-- R51, R64: a pipe issues the words of the clause that its last wave is inside, which is the model's choice (log 1), and else goes round: a wave that is ready keeps out of the pipe every
wave that stands behind it, counting on from the position that issued last. -/
def Sys2Proof.Claim.PipesGoRound : Prop :=
  ∀ (s : State) (k j : Nat) (w v : Wave), s.waves.find k = some w → s.waves.find j = some v → (j, v) ∈ s.waves → j ≠ k → w.status = .live → v.status = .live →
    v.core = w.core → v.waveid.toNat / 4 % 4 = w.waveid.toNat / 4 % 4 → v.waveid.toNat % 4 ≠ w.waveid.toNat % 4 →
    let last := s.rr.get 3 (4 * w.core + w.waveid.toNat / 4 % 4)
    last < 4 →
    (v.waveid.toNat % 4 = last → v.phase = .issue → v.idx ≠ 0 → v.held = false → s.hasPipe k = false) ∧
    (¬ (w.waveid.toNat % 4 = last ∧ w.phase = .issue ∧ w.idx ≠ 0 ∧ w.held = false) → s.isReady j = true →
      (v.waveid.toNat % 4 + 3 - last) % 4 < (w.waveid.toNat % 4 + 3 - last) % 4 → s.hasPipe k = false)

/-- The same for a matrix sequencer: what walks returned to it is used once the step has changed it. -/
def Sys2Proof.Claim.StepRunsMatrixInstruction : Prop :=
  ∀ (s : State) (k : Nat) (rest : List Act),
    let t := { s with agenda := rest, party := .seq, seq := k }
    s.agenda = .seq k :: rest → t.sq.canIssue = true → (opWords (nth 0 t.sq.words t.sq.widx) = 2 → t.sq.widx + 1 < hdrCount t.sq.hdr) →
    ∀ u, exec (decode 3 (nth 0 t.sq.words t.sq.widx) (nth 0 t.sq.words (t.sq.widx + 1))) t = .next u →
      step s = after (.next (if u.seqs.find k = t.seqs.find k then u else u.forget (seqWaiter k)))

/-- And for the collective engine: the step is the effect of the word at the place of its program (R373). -/
def Sys2Proof.Claim.StepRunsCollectiveInstruction : Prop :=
  ∀ (s : State) (rest : List Act) (r : ColRun) (c : Cmd) (rank size chunk : Nat) (ws : List (BitVec 32)) (p : Map Word),
    s.agenda = .col :: rest → s.col = some r → s.cmdAt r.cmd = some c → c.op = .collective rank size chunk ws p →
    step s = after (exec (decode 4 (nth 0 ws r.pos) 0) { s with agenda := rest, party := .col })

/-- What follows a step, in one place: time passes, launches that were fired are submitted, faults of sequencers are delivered; and
an event of the device, or an input, is a step of its own. -/
def Sys2Proof.Claim.StepRunsEvent : Prop :=
  ∀ (s : State) (e : Instr) (rest : List Act), s.agenda = .event e :: rest → encode e = [] →
    step s = after (exec e { s with agenda := rest })

/-- R232, R271, R224: a channel's turn performs what it can of an operation; the host's store puts its bytes into memory, and stops where no memory is; a line
that leaves its slice is flushed, rounded and written back. -/
def Sys2Proof.Claim.StepRunsMemory : Prop :=
  ∀ (s : State) (rest : List Act),
    let t := { s with agenda := rest }
    (∀ op chan, s.agenda = .perform op chan :: rest → step s = after (.next (if t.canPerform op chan = true then t.perform op chan else t))) ∧
    (∀ pa bs, s.agenda = .hostWrite pa bs :: rest →
      ((∀ i, i < bs.length → hasMemory (pa + i) = true) → step s = after (.next (t.physPut pa bs))) ∧
      ((∃ i, i < bs.length ∧ hasMemory (pa + i) = false) → ∃ a, pa ≤ a ∧ a < pa + bs.length ∧ hasMemory a = false ∧ step s = .fault (.noMemory a))) ∧
    (∀ line, s.agenda = .evict line :: rest → step s = after (.next (((t.startFlush line).roundLine line).writeBack line)))

/-- R51, R61, R63, R232, R271, R373, R380: a step whose turn belongs to a sequencer, to the collective engine, to an event, to a channel, to the host's memory or to an L2 slice; and which wave a pipe issues, where that the pipe stays with a wave inside its clause is the model's choice (log 1). -/
def Obligations.StepRunsMatrixInstructionsAndEvents : Prop := Sys2Proof.Claim.StepRunsMatrixInstruction ∧ Sys2Proof.Claim.StepRunsCollectiveInstruction ∧ Sys2Proof.Claim.StepRunsEvent ∧ Sys2Proof.Claim.StepRunsMemory ∧ Sys2Proof.Claim.PipesGoRound

/-- Every step keeps memory in its canonical form. -/
def Obligations.StepKeepsMemoryForm : Prop :=
  ∀ s t : State, Memory.wf s.mem = true → step s = .next t → Memory.wf t.mem = true

/-- Memory after reset has the canonical form, and every byte of it reads as the byte of log 3. -/
def Obligations.ResetMemoryForm : Prop :=
  Memory.wf State.reset.mem = true ∧ ∀ a, Memory.get State.reset.mem a = memDefault

/-- R492, R484, R485, R488, R494, R498: what reset leaves: at its first step the device is in L3, with `CLK` 0. -/
def Obligations.ResetValues : Prop :=
  State.reset.hr.service = 1 ∧ State.reset.hr.ltol = 0 ∧ State.reset.hr.tresume = false ∧ State.reset.hr.evstat = 0 ∧
    State.reset.hr.evmask = 0 ∧ State.reset.hr.pcap = (if Config.isModule then 3000 else 2645) ∧ State.reset.pod = none ∧ State.reset.clk = [0, 0, 0, 0] ∧
    State.reset.gangs = [] ∧ State.reset.launches = [] ∧ State.reset.waves = [] ∧ State.reset.power = .l3 ∧ State.reset.bringUp = 1 ∧ State.reset.thold = false

/-- Reading back what was stored: a byte of memory holds what was last stored to it, and a store leaves every other byte alone. -/
def Sys2Proof.Claim.StoreThenLoadByte : Prop :=
  ∀ (m : List Host.Cell) (a b : Nat) (bs : List Byte), Memory.wf m = true →
    (∀ i, i < bs.length → Memory.get (Memory.write m a bs) (a + i) = nth 0 bs i) ∧
    ((b < a ∨ a + bs.length ≤ b) → Memory.get (Memory.write m a bs) b = Memory.get m b)

/-! ### Scalar class -/

/-- R142 to R145: a compact scalar form that has its registers gives its destination the value of the table, fills it, counts, and
goes on; nothing else of the machine differs. -/
def Sys2Proof.Claim.ScalarFormsGiveTheirResult : Prop :=
  ∀ (i : Instr) (d : BitVec 7) (rs : List (BitVec 7)) (f : Wave → Word) (s : State), scalarEffect i = some (d, rs, f) → AtInstr s →
    SFull s.wave ((d :: rs).map BitVec.toNat) → exec i s = .next (done s 1 fun w => w.setS d.toNat (f w))

/-- R145: the corners of a division. A divisor of 0 gives a quotient with all N bits set and the dividend as the remainder; the most
negative value over −1 gives the most negative value and 0. -/
def Sys2Proof.Claim.DivisionCorners : Prop :=
  ∀ (d a b : BitVec 7) (t : BitVec 3) (s : State), AtInstr s → SFull s.wave [d.toNat, a.toNat, b.toNat] →
    (value t (s.wave.sreg b.toNat) = 0 →
      exec (.sdiv d a b t) s = .next (done s 1 fun w => w.setS d.toNat (extended t (BitVec.allOnes (typeBits t)))) ∧
      exec (.srem d a b t) s = .next (done s 1 fun w => w.setS d.toNat (extended t (low t (s.wave.sreg a.toNat))))) ∧
    (isSigned t = true → value t (s.wave.sreg b.toNat) = -1 → value t (s.wave.sreg a.toNat) = -(2 ^ (typeBits t - 1) : Nat) →
      exec (.sdiv d a b t) s = .next (done s 1 fun w => w.setS d.toNat (extended t (low t (s.wave.sreg a.toNat)))) ∧
      exec (.srem d a b t) s = .next (done s 1 fun w => w.setS d.toNat 0))

/-- R146: `sbfx` extracts the field that S[B] names and extends it under the sign of the type, `sbfi` puts the low bits of S[A] there. -/
def Sys2Proof.Claim.BitFieldsMoveTheirField : Prop :=
  ∀ (i : Instr) (d : BitVec 7) (rs : List (BitVec 7)) (f : Wave → Word) (s : State), fieldEffect i = some (d, rs, f) → AtInstr s →
    SFull s.wave ((d :: rs).map BitVec.toNat) → exec i s = .next (done s 1 fun w => w.setS d.toNat (f w))

/-- R142 to R146: the compact scalar forms, the corners of a division, and the bit fields. -/
def Obligations.ScalarFormsGiveTheirResults : Prop := Sys2Proof.Claim.ScalarFormsGiveTheirResult ∧ Sys2Proof.Claim.DivisionCorners ∧ Sys2Proof.Claim.BitFieldsMoveTheirField

/-- R147, R148: the immediate forms, one word or two. -/
def Sys2Proof.Claim.ImmediateFormsGiveTheirResult : Prop :=
  ∀ (i : Instr) (d : BitVec 7) (rs : List (BitVec 7)) (n : Nat) (f : Wave → Word) (s : State), immediateEffect i = some (d, rs, n, f) →
    AtInstr s → SFull s.wave ((d :: rs).map BitVec.toNat) → exec i s = .next (done s n fun w => w.setS d.toNat (f w))

/-- R147: a shift by an immediate shifts all 64 bits; an amount of 64 or more is ILLEGAL. -/
def Sys2Proof.Claim.ImmediateShifts : Prop :=
  ∀ (i : Instr) (d a : BitVec 7) (n k : Nat) (f : Word → Word) (s : State), shiftEffect i = some (d, a, n, k, f) → AtInstr s →
    (k < 64 → SFull s.wave [d.toNat, a.toNat] → exec i s = .next (done s n fun w => w.setS d.toNat (f (w.sreg a.toNat)))) ∧
    (64 ≤ k → exec i s = .next s.illegal)

/-- R147, R148: the immediate forms and the shifts by an immediate. -/
def Obligations.ImmediateFormsGiveTheirResults : Prop := Sys2Proof.Claim.ImmediateFormsGiveTheirResult ∧ Sys2Proof.Claim.ImmediateShifts

/-- The destination, the registers read and the words of a scalar form that writes one register, shifts by an immediate among them. -/
def Sys2Proof.Claim.scalarDest (i : Instr) : Option (BitVec 7 × List (BitVec 7) × Nat) :=
  match scalarEffect i, fieldEffect i, immediateEffect i, shiftEffect i with
  | some (d, rs, _), _, _, _ => some (d, rs, 1)
  | _, some (d, rs, _), _, _ => some (d, rs, 1)
  | _, _, some (d, rs, n, _), _ => some (d, rs, n)
  | _, _, _, some (d, a, n, _, _) => some (d, [a], n)
  | _, _, _, _ => none

/-- A form shifts by an immediate of 64 or more, which is ILLEGAL (R147). -/
def Sys2Proof.Claim.ShiftsTooFar (i : Instr) : Prop := ∃ d a n k f, shiftEffect i = some (d, a, n, k, f) ∧ 64 ≤ k

/-- The frame of the scalar forms: only the wave differs, and of it only the destination register and its position; every byte of
memory reads as before. -/
def Obligations.ScalarFrame : Prop :=
  ∀ (i : Instr) (d : BitVec 7) (rs : List (BitVec 7)) (n : Nat) (s t : State), scalarDest i = some (d, rs, n) → AtInstr s →
    SFull s.wave ((d :: rs).map BitVec.toNat) → ¬ ShiftsTooFar i → exec i s = .next t →
    OnlyWave s t ∧ RegsAgree s.wave t.wave [d.toNat] [] [] ∧ SystemAgrees s.wave t.wave ∧ RestAgrees s t

/-- R23, R81, R82, R147: a scalar form that names a register beyond the wave's allocation, or shifts by 64 or more, is ILLEGAL; else it waits while a
register that it reads or writes is empty. -/
def Sys2Proof.Claim.ScalarChecks : Prop :=
  ∀ (i : Instr) (d : BitVec 7) (rs : List (BitVec 7)) (n : Nat) (s : State), scalarDest i = some (d, rs, n) → AtInstr s →
    ((∃ r ∈ d :: rs, s.wave.sregN ≤ r.toNat) ∨ ShiftsTooFar i → exec i s = .next s.illegal) ∧
    ((∀ r ∈ d :: rs, r.toNat < s.wave.sregN) → ¬ ShiftsTooFar i → (∃ r ∈ d :: rs, s.wave.sFull r.toNat = false) → exec i s = .next s.block)

/-- R39, R40, R150: a branch that is taken fetches at its target, unwinding the loop stack where the rule says so; one that is not
taken ends its clause. -/
def Obligations.BranchesTransfer : Prop :=
  ∀ (i : Instr) (rs : List (BitVec 7)) (n : Nat) (taken : Wave → Bool) (unwinds : Bool) (target : Wave → Word) (s : State),
    branchEffect i = some (rs, n, taken, unwinds, target) → AtInstr s → LastOfClause s.wave n → SFull s.wave (rs.map BitVec.toNat) →
    exec i s = .next (if taken s.wave then
        s.setWave (fetches s.wave (target s.wave) (if unwinds then unwound s.wave (target s.wave) else s.wave.ls))
      else done s n id)

/-- R40, R150: `call` leaves the address of the next clause header in its link register and jumps; the loop stack stays. -/
def Sys2Proof.Claim.CallLinksAndJumps : Prop :=
  ∀ (i : Instr) (a : BitVec 7) (n : Nat) (target : Wave → Word) (s : State), callEffect i = some (a, n, target) → AtInstr s →
    LastOfClause s.wave n → SFull s.wave [a.toNat] →
    exec i s = .next (s.setWave (fetches (s.wave.setS a.toNat (headerAfter s.wave)) (target s.wave) s.wave.ls))

/-- R34 to R37, R152: `loop` pushes an entry for the clauses up to its end instruction; with four entries it raises LOOP_DEPTH; a count
of 0 goes on behind the end instruction, which it fetches next. -/
def Sys2Proof.Claim.LoopPushesOrSkips : Prop :=
  ∀ (i : Instr) (a : BitVec 7) (n : Nat) (fin : Wave → Word) (s : State), loopEffect i = some (a, n, fin) → AtInstr s →
    LastOfClause s.wave n → SFull s.wave [a.toNat] → s.wave.inHandler = false →
    (4 ≤ s.wave.ls.length → exec i s = .next (s.trap Code.loopDepth 0)) ∧
    (s.wave.ls.length < 4 → s.wave.sreg a.toNat ≠ 0 →
      exec i s = .next (s.setWave (fetches s.wave (headerAfter s.wave)
        (s.wave.ls ++ [⟨headerAfter s.wave, fin s.wave, s.wave.sreg a.toNat⟩])))) ∧
    (s.wave.ls.length < 4 → s.wave.sreg a.toNat = 0 → exec i s = .next (s.setWave { fetches s.wave (fin s.wave) s.wave.ls with resume := .past }))

/-- R36: behind a loop that was not entered, the fetch reads the opcode of the instruction at its end and goes on behind it. That a fault of that word is
one of the fetch is the model's choice (log 88). -/
def Sys2Proof.Claim.SkippedLoopGoesOnBehindItsEnd : Prop :=
  ∀ (s t : State) (x : BitVec 32), s.party = .wave → s.wave.status = .live → s.wave.phase = .fetch → s.wave.resume = .past →
    s.fetchWord s.wave.core s.myGang.asid s.wave.pc.toNat = .ok x t →
    ∃ u, exec .clauseFetch s = .next u ∧
      u.wave = { s.wave with pc := s.wave.pc + 4 * BitVec.ofNat 64 (if 0x80 ≤ x.toNat / 2 ^ 24 ∧ x.toNat / 2 ^ 24 < 0xf0 then 2 else 1), idx := 0, resume := .no }

/-- R34 to R37, R40, R150, R152: `call` and `loop`. -/
def Obligations.CallsAndLoops : Prop := Sys2Proof.Claim.CallLinksAndJumps ∧ Sys2Proof.Claim.LoopPushesOrSkips ∧ Sys2Proof.Claim.SkippedLoopGoesOnBehindItsEnd

/-- Where no pass can close: the loop stack is empty, or the instruction stands inside its clause. -/
def Sys2Proof.Claim.NoPassToClose : Prop :=
  ∀ s : State, AtInstr s →
    (LastOfClause s.wave 1 → s.wave.ls = [] → ∀ i ∈ [Instr.nop, .lpop], exec i s = .next (s.setWave (fetches s.wave (headerAfter s.wave) []))) ∧
    (¬ LastOfClause s.wave 1 → exec .nop s = .next (s.setWave (goesOn s.wave 1 s.wave.ls)) ∧
      exec .lpop s = .next (s.setWave (goesOn s.wave 1 (if s.wave.inHandler = true then s.wave.ls else s.wave.ls.dropLast))))

/-- R38, R152, R153, R459: the last instruction of a clause closes a pass of the loop that ends there: while passes are left the wave goes
back to the loop's start with one pass less, after the last pass the entry goes, and the entry below, where it ends at the same instruction, is closed in
turn; where it does not, or none is left, the wave goes on at the next header. In a handler no pass closes. `nop` does nothing else, and `lpop` takes the
top entry away first, if there is one. Inside a clause both only go on to the next word, `lpop` without that entry. -/
def Obligations.LastInstructionClosesAPass : Prop :=
  NoPassToClose ∧ ∀ (s : State) (rest r : List LoopEntry) (d e : LoopEntry), AtInstr s → LastOfClause s.wave 1 → s.wave.ls = rest ++ [e] →
    let back (i : Instr) (d : LoopEntry) (r : List LoopEntry) : Prop :=
      exec i s = .next (s.setWave (fetches s.wave d.start (r ++ [{ d with count := d.count - 1 }])))
    let onward (i : Instr) (l : List LoopEntry) : Prop := exec i s = .next (s.setWave (fetches s.wave (headerAfter s.wave) l))
    (s.wave.inHandler = false → e.fin = instrAddr s.wave → 2 ≤ e.count.toNat → back .nop e rest) ∧
    (s.wave.inHandler = false → e.fin = instrAddr s.wave → e.count.toNat < 2 →
      (rest = [] → onward .nop []) ∧ (rest = r ++ [d] → d.fin ≠ instrAddr s.wave → onward .nop rest) ∧
      (rest = r ++ [d] → d.fin = instrAddr s.wave → 2 ≤ d.count.toNat → back .nop d r) ∧
      (rest = [d] → d.fin = instrAddr s.wave → d.count.toNat < 2 → onward .nop [])) ∧
    (s.wave.inHandler = true ∨ e.fin ≠ instrAddr s.wave → onward .nop s.wave.ls) ∧
    (s.wave.inHandler = false → (rest = [] → onward .lpop []) ∧ (rest = r ++ [d] → d.fin ≠ instrAddr s.wave → onward .lpop rest) ∧
      (rest = r ++ [d] → d.fin = instrAddr s.wave → 2 ≤ d.count.toNat → back .lpop d r)) ∧
    (s.wave.inHandler = true → onward .lpop s.wave.ls)

/-- R62: an instruction that transfers control and does not end its clause is ILLEGAL. -/
def Sys2Proof.Claim.TransferMustEndItsClause : Prop :=
  ∀ (i : Instr) (n : Nat) (s : State), AtInstr s → ¬ LastOfClause s.wave n →
    ((∃ rs c u f, branchEffect i = some (rs, n, c, u, f)) ∨ (∃ a f, callEffect i = some (a, n, f)) ∨ (∃ a f, loopEffect i = some (a, n, f)) ∨
      (n = 1 ∧ (i = .exit ∨ i = .tail ∨ i = .rft))) →
    exec i s = .next s.illegal

/-- R23, R62, R81, R82: what a scalar form checks before its effect, and where a control transfer may stand. -/
def Obligations.ScalarChecksAndTransferPlace : Prop := Sys2Proof.Claim.ScalarChecks ∧ Sys2Proof.Claim.TransferMustEndItsClause

/-- R43, R44: `exit` ends the wave, whose slot is free once nothing of it is tracked; `tail` ends it so that its slot is free once all
its registers are full. -/
def Obligations.WaveEnds : Prop :=
  ∀ s : State, AtInstr s → LastOfClause s.wave 1 →
    (∃ t, exec .exit s = .next t ∧ (t.waveAt s.cur).status = (if s.tracked s.cur then .ended else .gone) ∧ (t.waveAt s.cur).ls = []) ∧
    (∃ t, exec .tail s = .next t ∧ (t.waveAt s.cur).status = (if s.wave.allFull then .gone else .tailed) ∧ (t.waveAt s.cur).ls = [])

/-! ### System class -/

/-- The special registers that a wave reads without a trap (R154, R155): number and value. -/
def Sys2Proof.Claim.plainSpecials (s : State) : List (Nat × Word) :=
  [(0x000, s.wave.waveid.setWidth 64), (0x001, BitVec.ofNat 64 s.wave.no), (0x002, BitVec.ofNat 64 s.wave.wg),
    (0x003, s.myGang.gangid.setWidth 64), (0x004, BitVec.ofNat 64 (s.wave.core % 144)), (0x005, BitVec.ofNat 64 (s.wave.core % 144 / 4)),
    (0x006, BitVec.ofNat 64 (s.wave.core / 144)), (0x007, s.devid.setWidth 64), (0x008, nth 0 s.clk (s.wave.core / 144)),
    (0x009, if s.pod = none then 0 else s.step.stepno), (0x010, s.wave.icount), (0x011, s.wave.budget.setWidth 64),
    (0x012, s.wave.stall.setWidth 64), (0x018, BitVec.ofNat 64 s.wave.ls.length), (0x030, s.wave.vstat.setWidth 64)]

/-- R154, R155: `mfs` gives its register the value of the special register that it names; ICOUNT as it stands before the `mfs` itself counts, which is the
model's choice (log 35). -/
def Sys2Proof.Claim.ReadSpecialRegister : Prop :=
  ∀ (d : BitVec 7) (n : BitVec 10) (s : State), AtInstr s →
    (∀ v, (n.toNat, v) ∈ plainSpecials s → SFull s.wave [d.toNat] → exec (.mfs d n) s = .next (done s 1 fun w => w.setS d.toNat v)) ∧
    (∀ i, i < 4 → SFull s.wave [d.toNat] →
      (n.toNat = 0x020 + i → exec (.mfs d n) s = .next (done s 1 fun w => w.setS d.toNat (nth ⟨0, 0, 0⟩ w.ls i).start)) ∧
      (n.toNat = 0x024 + i → exec (.mfs d n) s = .next (done s 1 fun w => w.setS d.toNat (nth ⟨0, 0, 0⟩ w.ls i).fin)) ∧
      (n.toNat = 0x028 + i → exec (.mfs d n) s = .next (done s 1 fun w => w.setS d.toNat (nth ⟨0, 0, 0⟩ w.ls i).count)))

/-- R462: the trap state as `mfs` reads it. -/
def Sys2Proof.Claim.ReadTrapState : Prop :=
  ∀ (d : BitVec 7) (n : BitVec 10) (s : State), AtInstr s → SFull s.wave [d.toNat] →
    (∀ v, (n.toNat, v) ∈ [(0x100, s.wave.trap.cause), (0x101, s.wave.trap.pc), (0x102, s.wave.trap.info), (0x103, s.wave.trap.kind),
        (0x104, s.wave.trap.haddr), (0x105, s.wave.trap.hdr.setWidth 64), (0x106, s.wave.trap.next.setWidth 64), (0x107, s.wave.trap.mstat),
        (0x108, s.wave.trap.mpc)] → exec (.mfs d n) s = .next (done s 1 fun w => w.setS d.toNat v)) ∧
    (∀ e, e < 16 → n.toNat = 0x110 + e → exec (.mfs d n) s = .next (done s 1 fun w => w.setS d.toNat ((s.wave.trap.done.get 0 e).setWidth 64))) ∧
    (∀ k, k < 4 → n.toNat = 0x120 + k → exec (.mfs d n) s = .next (done s 1 fun w => w.setS d.toNat (s.wave.tfev.extractLsb' (64 * k) 64))) ∧
    (∀ k i, k < 2 → i < 64 → n.toNat = 0x124 + k → 64 * k + i < s.wave.sregN → 64 * k + i ≠ d.toNat →
      ∃ v, exec (.mfs d n) s = .next (done s 1 fun w => w.setS d.toNat v) ∧ v.getLsbD i = s.wave.sFull (64 * k + i))

/-- R154, R155, R462: what `mfs` reads; ICOUNT before its own count is the model's choice (log 35). -/
def Obligations.SpecialRegistersRead : Prop := Sys2Proof.Claim.ReadSpecialRegister ∧ Sys2Proof.Claim.ReadTrapState

/-- The numbers that R154 and R462 assign. -/
def Sys2Proof.Claim.assigned (n : Nat) : Prop :=
  n ≤ 0x009 ∨ (0x010 ≤ n ∧ n ≤ 0x012) ∨ n = 0x018 ∨ (0x020 ≤ n ∧ n < 0x02c) ∨ n = 0x030 ∨ (0x100 ≤ n ∧ n ≤ 0x108) ∨ (0x110 ≤ n ∧ n ≤ 0x125)

/-- The numbers that a handler may write. -/
def Sys2Proof.Claim.writable (n : Nat) : Prop :=
  n = 0x011 ∨ n = 0x018 ∨ (0x020 ≤ n ∧ n < 0x02c) ∨ n = 0x104 ∨ n = 0x106 ∨ (0x110 ≤ n ∧ n < 0x124)

/-- R154, R155, R462: a number that is not assigned is ILLEGAL for both instructions, and so is `mts` to a read-only register, to a
handler's register elsewhere, and of a depth above 4. -/
def Sys2Proof.Claim.IllegalSpecialAccess : Prop :=
  ∀ (a d : BitVec 7) (n : BitVec 10) (s : State), AtInstr s →
    (¬ assigned n.toNat → exec (.mfs d n) s = .next s.illegal ∧ exec (.mts a n) s = .next s.illegal) ∧
    (n.toNat ≠ 0x030 → (¬ writable n.toNat ∨ s.wave.inHandler = false) → exec (.mts a n) s = .next s.illegal) ∧
    (n.toNat = 0x018 → s.wave.inHandler = true → SFull s.wave [a.toNat] → 4 < (s.wave.sreg a.toNat).toNat % 8 →
      exec (.mts a n) s = .next s.illegal)

/-- R154, R155, R462: what `mts` writes, for each register that can be written; a write of a loop-stack entry at or above LSDEPTH is ignored. -/
def Sys2Proof.Claim.WriteSpecialRegister : Prop :=
  ∀ (a : BitVec 7) (n : BitVec 10) (s : State), AtInstr s → SFull s.wave [a.toNat] →
    let x := s.wave.sreg a.toNat
    let h := s.wave.inHandler = true
    (n = 0x030 → exec (.mts a n) s = .next (done s 1 fun w => { w with vstat := x.setWidth 32 &&& 1 })) ∧
    (h → n = 0x011 → exec (.mts a n) s = .next (done s 1 fun w => { w with budget := x.setWidth 32 })) ∧
    (h → n = 0x018 → x.toNat % 8 ≤ 4 → ∃ l, exec (.mts a n) s = .next (done s 1 fun w => { w with ls := l }) ∧
      (s.wave.ls.length ≤ 4 → l.length = x.toNat % 8) ∧
      ∀ i, i < l.length → nth ⟨0, 0, 0⟩ l i = nth ⟨0, 0, 0⟩ s.wave.ls i) ∧
    (h → ∀ i, i < s.wave.ls.length →
      (n.toNat = 0x020 + i → i < 4 → exec (.mts a n) s = .next (done s 1 fun w => { w with ls := w.ls.set i { nth ⟨0, 0, 0⟩ w.ls i with start := x } })) ∧
      (n.toNat = 0x024 + i → i < 4 → exec (.mts a n) s = .next (done s 1 fun w => { w with ls := w.ls.set i { nth ⟨0, 0, 0⟩ w.ls i with fin := x } })) ∧
      (n.toNat = 0x028 + i → i < 4 → exec (.mts a n) s = .next (done s 1 fun w => { w with ls := w.ls.set i { nth ⟨0, 0, 0⟩ w.ls i with count := x } }))) ∧
    (h → ∀ i, s.wave.ls.length ≤ i → i < 4 → (n.toNat = 0x020 + i ∨ n.toNat = 0x024 + i ∨ n.toNat = 0x028 + i) → exec (.mts a n) s = .next (done s 1 id)) ∧
    (h → n = 0x104 → exec (.mts a n) s = .next (done s 1 fun w => { w with trap := { w.trap with haddr := x, haddrWritten := true } })) ∧
    (h → n = 0x106 → exec (.mts a n) s = .next (done s 1 fun w => { w with trap := { w.trap with next := x.setWidth 4 } })) ∧
    (h → ∀ e, e < 16 → n.toNat = 0x110 + e →
      exec (.mts a n) s = .next (done s 1 fun w => { w with trap := { w.trap with done := w.trap.done.set e (x.setWidth 32) } })) ∧
    (h → ∀ k, k < 4 → n.toNat = 0x120 + k →
      ∃ f : BitVec 256, exec (.mts a n) s = .next (done s 1 fun w => { w with tfev := f }) ∧
        ∀ i, f.getLsbD i = if 64 * k ≤ i ∧ i < 64 * k + 64 then x.getLsbD (i - 64 * k) else s.wave.tfev.getLsbD i)

/-- R154, R155, R462: what `mts` writes, and which numbers are ILLEGAL. -/
def Obligations.SpecialRegistersWritten : Prop := Sys2Proof.Claim.IllegalSpecialAccess ∧ Sys2Proof.Claim.WriteSpecialRegister

/-- R30, R31, R156, R157: `bar` of `.lane` completes at issue; at a wider scope the wave arrives, once its earlier GEN accesses are
performed at the scope (loads too, where R157 names stores, atomics and reductions: the model's reading, log 74), and goes on when the barrier's phase has passed, which its own arrival may bring about. A scope wider
than the kernel records is ILLEGAL. -/
def Obligations.ScopedBarrier : Prop :=
  ∀ (n : BitVec 10) (s : State), AtInstr s → n.toNat < 5 →
    let w := s.wave
    let ph := s.barPhase w.gang w.wg n.toNat
    let arrived := (s.setWave { w with waiting := some (.bar n.toNat ph) }).settle w.gang w.wg n.toNat
    (s.myLaunch.kernel.bscope ≤ n.toNat → exec (.bar n) s = .next s.illegal) ∧
    (n.toNat < s.myLaunch.kernel.bscope →
      (n = 0 → exec (.bar n) s = .next (done s 1 id)) ∧
      (n ≠ 0 → w.waiting = none → GenPerformed s s.cur n.toNat →
        exec (.bar n) s = .next (if arrived.barPhase w.gang w.wg n.toNat = ph then arrived.block else (arrived.retire 1).acquire n.toNat)) ∧
      (n ≠ 0 → w.waiting = none → ¬ GenPerformed s s.cur n.toNat → exec (.bar n) s = .next s.block) ∧
      (n ≠ 0 → ∀ ph', w.waiting = some (.bar n.toNat ph') → exec (.bar n) s = .next (if ph = ph' then s.block else (s.retire 1).acquire n.toNat)))

/-- R31: the barrier of a workgroup passes when all of its waves that have not ended have arrived, and only then. -/
def Obligations.CoreBarrierPasses : Prop :=
  ∀ (s : State) (g wg : Nat), wg < (s.gang g).wgs.length → (∃ k w, (k, w) ∈ s.liveOf g ∧ w.wg = wg) →
    ((∀ k w, (k, w) ∈ s.liveOf g → w.wg = wg → w.waiting = some (.bar 1 (s.barPhase g wg 1))) →
      (s.settle g wg 1).barPhase g wg 1 = s.barPhase g wg 1 + 1) ∧
    ((∃ k w, (k, w) ∈ s.liveOf g ∧ w.wg = wg ∧ w.waiting ≠ some (.bar 1 (s.barPhase g wg 1))) → s.settle g wg 1 = s)

/-- R160, R161: what one arrival does to a numbered barrier, and when a wait with a token is over. -/
def Sys2Proof.Claim.NumberedBarrierArithmetic : Prop :=
  ∀ (b : NBar) (t : BitVec 32),
    (b.count + 1 = b.expect → b.arrive.count = 0 ∧ b.arrive.phase = b.phase + 1) ∧
    (b.count + 1 ≠ b.expect → b.arrive.count = b.count + 1 ∧ b.arrive.phase = b.phase) ∧ b.arrive.expect = b.expect ∧
    (b.passed t = true ↔ 1 ≤ (b.phase - t).toNat ∧ (b.phase - t).toNat ≤ 2 ^ 31) ∧ b.passed b.phase = false ∧
    (b.count + 1 = b.expect → b.arrive.passed b.phase = true)

/-- R161, R162: the numbered-barrier instructions of a wave. A barrier number above 15 is ILLEGAL. -/
def Sys2Proof.Claim.NumberedBarrierInstructions : Prop :=
  ∀ (a d : BitVec 7) (n : BitVec 10) (s : State), AtInstr s →
    let w := s.wave
    let b := s.nbar w.gang w.wg n.toNat
    let after := (s.arrive w.gang w.wg n.toNat (s.openAt s.cur 2)).2
    (16 ≤ n.toNat → ∀ i ∈ [.nbarw d n, .nbarr n, .nbwait a n, .nbinit a n], exec i s = .next s.illegal) ∧
    (n.toNat < 16 → w.wg < s.myGang.wgs.length → (after.nbar w.gang w.wg n.toNat).phase = b.arrive.phase ∧ (after.nbar w.gang w.wg n.toNat).count = b.arrive.count) ∧
    (n.toNat < 16 → SFull w [d.toNat] → exec (.nbarw d n) s = .next (done after 1 fun w => w.setS d.toNat (b.phase.setWidth 64))) ∧
    (n.toNat < 16 → w.waiting = none → exec (.nbarr n) s = .next (if after.nbDone w.gang w.wg n.toNat b.phase then (after.retire 1).acquire 2
      else (after.setWave { after.wave with waiting := some (.nb n.toNat b.phase) }).block)) ∧
    (n.toNat < 16 → ∀ t, w.waiting = some (.nb n.toNat t) →
      exec (.nbarr n) s = .next (if s.nbDone w.gang w.wg n.toNat t then (s.retire 1).acquire 2 else s.block)) ∧
    (n.toNat < 16 → SFull w [a.toNat] → exec (.nbwait a n) s = .next (if s.nbDone w.gang w.wg n.toNat ((w.sreg a.toNat).setWidth 32)
      then (s.retire 1).acquire 2
      else (s.setWave { w with waiting := some (.nbwait n.toNat ((w.sreg a.toNat).setWidth 32)) }).block)) ∧
    (∀ id, id ∈ s.openAt s.cur 2 ↔ ∃ o ∈ s.ops, o.id = id ∧ o.wave = s.cur ∧ o.path = .gen ∧ o.doneAt 2 = false) ∧
    (n.toNat < 16 → SFull w [a.toNat] →
      exec (.nbinit a n) s = .next (if (w.sreg a.toNat).toNat = 0 ∨ 255 < (w.sreg a.toNat).toNat ∨ b.count ≠ 0 ∨ s.nbWaiters w.gang w.wg n.toNat = true
        then s.trap Code.nbarState 0
        else (s.modNbar w.gang w.wg n.toNat fun b => { b with expect := (w.sreg a.toNat).toNat, count := 0 }).retire 1))

/-- R160 to R162: the numbered barriers. -/
def Obligations.NumberedBarriers : Prop := Sys2Proof.Claim.NumberedBarrierArithmetic ∧ Sys2Proof.Claim.NumberedBarrierInstructions

/-! ### Traps -/

/-- The state of a wave whose kernel has a trap entry, once it has taken a trap with a code, TINFO and place (R459, R462). -/
def Sys2Proof.Claim.Trapped (w v : Wave) (entry : Word) (code : Code) (info : Word) (next : Nat) : Prop :=
  v.inHandler = true ∧ v.phase = .fetch ∧ v.pc = entry ∧ v.status = w.status ∧ v.ls = w.ls ∧
    v.trap.cause = BitVec.ofNat 64 (code.toNat + 256 * w.idx) ∧ v.trap.pc = instrAddr w ∧ v.trap.info = info ∧ v.trap.kind = 0 ∧
    v.trap.haddr = w.pc ∧ v.trap.hdr = w.hdr ∧ v.trap.next = BitVec.ofNat 4 next ∧ v.trap.mstat = 0 ∧ v.trap.mpc = 0 ∧
    (∀ n, v.sreg n = w.sreg n ∧ v.sFull n = w.sFull n) ∧ (∀ n, v.vreg n = w.vreg n ∧ v.vFull n = w.vFull n) ∧ (∀ p, v.pred p = w.pred p) ∧
    (∀ k i, k < 4 → i < 64 → v.tfev.getLsbD (64 * k + i) = w.vFull (64 * k + i))

/-- R163, R164, R459, R462: `trap` is complete, so the saved position is behind it; `brk` is not. Both enter the handler of a kernel that has
a trap entry with their code in TINFO. -/
def Sys2Proof.Claim.SoftwareTrapsEnterTheHandler : Prop :=
  ∀ (c : BitVec 10) (s : State) (entry : Word), AtInstr s → s.wave.inHandler = false → s.wave.waiting = none → s.unfinished s.cur = false →
    s.trapEntry s.wave = some entry →
    (∃ t, exec (.trap c) s = .next t ∧ Trapped s.wave t.wave entry Code.software (c.setWidth 64) (s.wave.idx + 1) ∧ t.wave.icount = s.wave.icount + 1) ∧
    (∃ t, exec (.brk c) s = .next t ∧ Trapped s.wave t.wave entry Code.break_ (c.setWidth 64) s.wave.idx ∧ t.wave.icount = s.wave.icount + 1)

/-- R459, R463: what every precise trap of an instruction does in a kernel that has a trap entry. -/
def Sys2Proof.Claim.TrapEntry : Prop :=
  ∀ (code : Code) (info : Word) (s : State) (entry : Word), AtInstr s → s.wave.inHandler = false → s.wave.waiting = none →
    s.unfinished s.cur = false → s.trapEntry s.wave = some entry →
    Trapped s.wave (s.trap code info).wave entry code info s.wave.idx ∧ RestAgrees s (s.trap code info)

/-- R163, R164, R459, R462, R463: `trap`, `brk` and every precise trap of an instruction enter the handler. -/
def Obligations.TrapsEnterTheHandler : Prop := Sys2Proof.Claim.SoftwareTrapsEnterTheHandler ∧ Sys2Proof.Claim.TrapEntry

/-- R452, R460: a trap ends the wave of a kernel that has no trap entry, and so does a trap that an instruction of a handler raises. -/
def Obligations.TrapEndsTheWave : Prop :=
  ∀ (code : Code) (info : Word) (s : State), AtInstr s → s.wave.waiting = none → s.unfinished s.cur = false →
    (s.trapEntry s.wave = none ∨ s.wave.inHandler = true) →
    (((s.trap code info).waveAt s.cur).status = .ended ∨ ((s.trap code info).waveAt s.cur).status = .gone) ∧
      ((s.trap code info).launch s.myGang.launch).nfault ≥ s.myLaunch.nfault + 1

/-- R461: `rft` ends the handler. Where THADDR was written the wave fetches the clause there and starts it at TNEXT. Else, after a trap of a clause that was
still to be fetched, it fetches that clause again; with TNEXT within the saved clause it goes on there, its waits checked again only if the trap found it
waiting; and with TNEXT at or above COUNT the saved clause completes: a pass closes at its last instruction, but where that is a `loop`, and the wave goes
on where R38 says. The vector full/empty bits come from TFEV. The return from MTX_FAULT lets a sequencer in FAULT run on where RES is 1 and stops it
otherwise (R381), and leaves every other one alone. Outside a handler `rft` is ILLEGAL. -/
def Obligations.ReturnFromTrap : Prop :=
  ∀ s : State, AtInstr s → LastOfClause s.wave 1 →
    let w := s.wave
    let r := w.trap
    let k := seqKey w.gang w.wg
    let mtx := r.cause.toNat % 256 = Code.mtxFault.toNat
    let last := lastIndex r.words.length r.words 0
    let fin := r.haddr + 4 + 4 * BitVec.ofNat 64 last
    let on := r.haddr + 4 + 4 * BitVec.ofNat 64 (hdrCount r.hdr)
    let loops := hdrClass r.hdr = 0 ∧ ((nth 0 r.words last).toNat / 2 ^ 24 = 0x36 ∨ (nth 0 r.words last).toNat / 2 ^ 24 = 0xb6)
    (w.inHandler = false → exec .rft s = .next s.illegal) ∧
    (w.inHandler = true →
      ∃ t, exec .rft s = .next t ∧ t.wave.inHandler = false ∧ (∀ n, n < w.vregN → t.wave.vFull n = w.tfev.getLsbD n) ∧
        (∀ n, t.wave.vreg n = w.vreg n) ∧ t.wave.phase = .fetch ∧ t.wave.icount = w.icount ∧ RestAgrees s { t with seqs := s.seqs } ∧
        (¬ mtx ∨ s.seqs.find k = none → t.seqs = s.seqs) ∧
        (mtx → ∀ q, s.seqs.find k = some q →
          (q.status ≠ .fault → t.seqs = s.seqs) ∧
          (q.status = .fault → ∃ v, t.seqs.find k = some v ∧ v.mpc = q.mpc ∧ v.widx = q.widx ∧
            (q.mstat.getLsbD 6 = true → v.status = .run ∧ v.mstat.toNat = q.mstat.toNat % 64 + (if q.mstat.getLsbD 7 then 128 else 0)) ∧
            (q.mstat.getLsbD 6 = false → v.status = .stopped ∧ v.mstat = q.mstat))) ∧
        (r.haddrWritten = true → t.wave.pc = r.haddr ∧ t.wave.resume = .fresh r.next.toNat ∧ t.wave.ls = w.ls) ∧
        (r.haddrWritten = false → r.unfetched = true → t.wave.pc = r.haddr ∧ t.wave.ls = w.ls ∧
          t.wave.resume = (if r.past = true then .past else if r.next = 0 then .no else .fresh r.next.toNat)) ∧
        (r.haddrWritten = false → r.unfetched = false → r.next.toNat < hdrCount r.hdr →
          t.wave.pc = r.haddr ∧ t.wave.hdr = r.hdr ∧ t.wave.ls = w.ls ∧ t.wave.resume = .kept r.next.toNat (r.kind.getLsbD 2)) ∧
        (r.haddrWritten = false → r.unfetched = false → hdrCount r.hdr ≤ r.next.toNat → t.wave.resume = .no ∧
          (loops ∨ w.ls = [] → t.wave.pc = on ∧ t.wave.ls = w.ls) ∧
          ∀ rest e, w.ls = rest ++ [e] → ¬ loops →
            (e.fin ≠ fin → t.wave.pc = on ∧ t.wave.ls = w.ls) ∧
            (e.fin = fin → 2 ≤ e.count.toNat → t.wave.pc = e.start ∧ t.wave.ls = rest ++ [{ e with count := e.count - 1 }]) ∧
            (e.fin = fin → e.count.toNat < 2 → rest = [] → t.wave.pc = on ∧ t.wave.ls = [])))

/-- R166, R167: `phint` only advances while no save of the gang is pending, and in a handler; while one is, it waits for the registers
that it names and then stops the wave behind it. -/
def Obligations.PreemptionHint : Prop :=
  ∀ (nm : BitVec 2) (ap : BitVec 6) (sm : BitVec 16) (vm : BitVec 32) (s : State), AtInstr s → nm ≠ 3 →
    SFull s.wave ((List.range (2 * nm.toNat)).map (2 * ap.toNat + ·)) →
    ((s.myGang.saveAt = none ∨ s.wave.inHandler = true) → exec (.phint nm ap sm vm) s = .next (done s 2 id)) ∧
    (s.myGang.saveAt ≠ none → s.wave.inHandler = false →
      (∀ n, n < s.wave.sregN → sm.getLsbD (n / 8) = true → s.wave.sFull n = true) →
      (∀ n, n < s.wave.vregN → vm.getLsbD (n / 8) = true → s.wave.vFull n = true) →
      ∃ t, exec (.phint nm ap sm vm) s = .next t ∧ t.wave = { s.wave.retire 2 with status := .saved, saveMap := some (sm, vm) } ∧
        (t.gang s.wave.gang).phintRanges.length = s.myGang.phintRanges.length + nm.toNat) ∧
    (s.myGang.saveAt ≠ none → s.wave.inHandler = false →
      (∃ n, (n < s.wave.sregN ∧ sm.getLsbD (n / 8) = true ∧ s.wave.sFull n = false) ∨
        (n < s.wave.vregN ∧ vm.getLsbD (n / 8) = true ∧ s.wave.vFull n = false)) → exec (.phint nm ap sm vm) s = .next s.block)

/-! ### Vector class -/

namespace Sys2Proof.Claim

/-- A vector form: its fields, whether its type is one that it accepts, its destination block, its vector sources with their place and
empty policy, its scalar sources, and the new value of a lane from the sources' lanes, if the lane gets one. -/
structure Form where
  x : VArgs
  legal : Bool
  d : Nat
  vs : List (Nat × Nat × Bool)
  ss : List Nat
  f : List (List Lane) → Nat → Option Lane

/-- The sources A and B. -/
def two (x : VArgs) (a b : Nat) : List (Nat × Nat × Bool) := [(a, 0, x.fe.testBit 0), (b, 1, x.fe.testBit 1)]

/-- The third source: C in the long form; D, under policy 0, in the compact form (R177). -/
def third (x : VArgs) (d : Nat) : Nat × Nat × Bool := match x.c with
  | some c => (c, 2, x.fe.testBit 2)
  | none => (d, 2, false)

/-- Each element of a lane on its own (R172). -/
def each1 (n : Nat) (g : Nat → Nat) (a : Lane) : Lane := BitVec.ofNat 32 (packElems n ((elems n a).map g))
def each2 (n : Nat) (g : Nat → Nat → Nat) (a b : Lane) : Lane := BitVec.ofNat 32 (packElems n (List.zipWith g (elems n a) (elems n b)))
def each3 (n : Nat) (g : Nat → Nat → Nat → Nat) (a b c : Lane) : Lane :=
  BitVec.ofNat 32 (packElems n (List.zipWith (fun h z => h z) (List.zipWith g (elems n a) (elems n b)) (elems n c)))

/-- An integer result: it wraps, or is clamped to the type's range where SAT = 1 (R172). -/
def fitted (x : VArgs) (g : Bool) (n : Nat) (v : Int) : Nat := wrap n (if x.sat then clamp g n v else v)

/-- A + B, or A − B with B negated after MOD (R177). -/
def sum (x : VArgs) (minus : Bool) : ETy → Nat → Nat → Nat
  | .flt f, a, b => f.deliver x.rnd x.sat ((f.modded (x.mod / 4) a).add x.rnd
      (if minus then (f.modded (x.mod % 4) b).neg else f.modded (x.mod % 4) b))
  | .int g n, a, b => fitted x g n (if minus then valueOf g n a + -valueOf g n b else valueOf g n a + valueOf g n b)

/-- The smaller or the larger (R178). -/
def extreme (larger : Bool) : ETy → Nat → Nat → Nat
  | .flt f, a, b => if larger then f.max a b else f.min a b
  | .int g n, a, b => if larger then (if valueOf g n b ≤ valueOf g n a then a else b) else (if valueOf g n a ≤ valueOf g n b then a else b)

/-- MOD on the bits of an operand of a floating type. -/
def moddedBits (m : Nat) : ETy → Nat → Nat
  | .flt f, a => f.modBits m a
  | .int _ _, a => a

/-- A form with the sources A and B and a type. -/
def binary (x : VArgs) (ty : Option ETy) (d a b : Nat) (g : ETy → Nat → Nat → Nat) : Form :=
  let t := ty.getD (.int false 32)
  ⟨x, ty.isSome, d, two x a b, [], fun v l => some (each2 t.width (g t) (val v 0 l) (val v 1 l))⟩

/-- A form with the sources A, B and C and a type. -/
def ternary (x : VArgs) (ty : Option ETy) (d a b : Nat) (g : ETy → Nat → Nat → Nat → Nat) : Form :=
  let t := ty.getD (.int false 32)
  ⟨x, ty.isSome, d, two x a b ++ [third x d], [], fun v l => some (each3 t.width (g t) (val v 0 l) (val v 1 l) (val v 2 l))⟩

/-- A floating form with the source A. -/
def unary (x : VArgs) (set : List Nat) (d a : Nat) (g : FFmt → Nat → Nat) : Form :=
  let ty := typeFor 3 set x.type
  ⟨x, ty.isSome, d, [(a, 0, x.fe.testBit 0)], [], fun v l => match ty with
    | some (.flt f) => some (each1 f.width (g f) (val v 0 l))
    | _ => none⟩

/-- A bitwise form; its type is ignored (R181). -/
def bitwise (x : VArgs) (d a b : Nat) (g : Lane → Lane → Lane) : Form :=
  ⟨x, true, d, two x a b, [], fun v l => some (g (val v 0 l) (val v 1 l))⟩

/-- An integer form (R181). -/
def integer (x : VArgs) (dflt : Nat) (d a b : Nat) (g : Bool → Nat → Nat → Nat → Nat) : Form :=
  binary x (typeFor dflt typesI x.type) d a b fun t a b => match t with
    | .int s n => g s n a b
    | .flt _ => a

/-- A count over the bits of each element (R181). -/
def count (x : VArgs) (d a : Nat) (g : Nat → Nat → Nat) : Form :=
  let ty := typeFor 2 typesI x.type
  let n := (ty.getD (.int false 32)).width
  ⟨x, ty.isSome, d, [(a, 0, x.fe.testBit 0)], [], fun v l => some (each1 n (g n) (val v 0 l))⟩

/-- A move whose source lane S[B] fixes; with no source lane the destination lane keeps its value (R187). -/
def laneMove (x : VArgs) (k : Nat) (d a b : Nat) (src : Nat → Nat → Option Nat) : Form :=
  ⟨x, true, d, [(a, 0, x.fe.testBit 0)], [b], fun v l => (src k l).map fun j => val v 0 j⟩

/-- A value of 32 bits as a 16-bit element (R184); a NaN keeps its payload (R126). -/
def packed (x : VArgs) (m : Nat) (a : Lane) : ETy → Nat
  | .flt f => match fp32.modded m a.toNat with
    | .nan => narrowNan f (fp32.modBits m a.toNat)
    | v => f.deliver x.rnd x.sat v
  | .int g n => fitted x g n (valueOf g 32 a.toNat)

/-- A 16-bit element as a value of 32 bits (R185). -/
def unpacked (x : VArgs) (e : Nat) : ETy → Lane
  | .flt f => BitVec.ofNat 32 (widen16 f (f.modBits (x.mod / 4) e))
  | .int g n => BitVec.ofNat 32 (wrap 32 (valueOf g n e))

def unpack (x : VArgs) (high : Bool) (d a : Nat) : Form :=
  let ty := typeFor 7 typesPack x.type
  ⟨x, ty.isSome, d, [(a, 0, x.fe.testBit 0)], [], fun v l =>
    ty.map (unpacked x (if high then (val v 0 l).toNat / 2 ^ 16 else (val v 0 l).toNat % 2 ^ 16))⟩

def pack (x : VArgs) (d a b : Nat) : Form :=
  let ty := typeFor 7 typesPack x.type
  let t := ty.getD (.int false 16)
  ⟨x, ty.isSome, d, two x a b, [], fun v l => some (BitVec.ofNat 32 (packed x (x.mod / 4) (val v 0 l) t % 2 ^ 16 +
    2 ^ 16 * (packed x (x.mod % 4) (val v 1 l) t % 2 ^ 16)))⟩

/-- `vmul`, and `vfma` with one rounding; C is not modified by MOD (R177). -/
def product (x : VArgs) (d a b : Nat) : Form :=
  binary x (typeFor 3 typesF x.type) d a b fun t p q => match t with
    | .flt f => f.deliver x.rnd x.sat ((f.modded (x.mod / 4) p).mul (f.modded (x.mod % 4) q))
    | .int _ _ => p

def fused (x : VArgs) (d a b : Nat) : Form :=
  ternary x (typeFor 3 typesF x.type) d a b fun t p q r => match t with
    | .flt f => f.deliver x.rnd x.sat (((f.modded (x.mod / 4) p).mul (f.modded (x.mod % 4) q)).add x.rnd (f.decode r))
    | .int _ _ => p

/-- The running sum of the lanes that take part, up to a lane (R188). -/
def scan (x : VArgs) (takes : Nat → Bool) (d a : Nat) : Form :=
  let ty := typeFor 3 typesScan x.type
  let t := ty.getD (.int false 32)
  ⟨x, ty.isSome, d, [(a, 0, x.fe.testBit 0)], [], fun v l => (scanUpto x t takes (nth [] v 0) l).map (BitVec.ofNat 32 ·)⟩

/-- The sum of D and the two products of 16-bit elements, in the order of R137 (R186). -/
def dot2 (x : VArgs) (d a b : Nat) : Form :=
  let ty := typeFor 7 typesDot x.type
  ⟨x, ty.isSome, d, two x a b ++ [(d, 2, false)], [], fun v l => match ty with
    | some (.flt f) => some (dot f.frac x.rnd (f32 (val v 2 l)) (List.zipWith (fun p q =>
        (f.modded (x.mod / 4) p).mul (f.modded (x.mod % 4) q)) (elems 16 (val v 0 l)) (elems 16 (val v 1 l))))
    | _ => none⟩

/-- The forms that run over their block extent and write vector registers (R177 to R188), compact and long. -/
def vectorForm (w : Wave) : Instr → Option Form
  | .vadd d a b => some (binary w.compact (typeFor 3 typesFI w.compact.type) d.toNat a.toNat b.toNat (sum w.compact false))
  | .vaddLong d a b l => some (binary (longArgs l) (typeFor 3 typesFI (longArgs l).type) d.toNat a.toNat b.toNat (sum (longArgs l) false))
  | .vsub d a b => some (binary w.compact (typeFor 3 typesFI w.compact.type) d.toNat a.toNat b.toNat (sum w.compact true))
  | .vsubLong d a b l => some (binary (longArgs l) (typeFor 3 typesFI (longArgs l).type) d.toNat a.toNat b.toNat (sum (longArgs l) true))
  | .vmul d a b => some (product w.compact d.toNat a.toNat b.toNat)
  | .vmulLong d a b l => some (product (longArgs l) d.toNat a.toNat b.toNat)
  | .vfma d a b => some (fused w.compact d.toNat a.toNat b.toNat)
  | .vfmaLong d a b l => some (fused (longArgs l) d.toNat a.toNat b.toNat)
  | .vmin d a b => some (binary w.compact (typeFor 3 typesFI w.compact.type) d.toNat a.toNat b.toNat fun t p q => extreme false t (moddedBits (w.compact.mod / 4) t p) (moddedBits (w.compact.mod % 4) t q))
  | .vminLong d a b l => some (binary (longArgs l) (typeFor 3 typesFI (longArgs l).type) d.toNat a.toNat b.toNat fun t p q => extreme false t (moddedBits ((longArgs l).mod / 4) t p) (moddedBits ((longArgs l).mod % 4) t q))
  | .vmax d a b => some (binary w.compact (typeFor 3 typesFI w.compact.type) d.toNat a.toNat b.toNat fun t p q => extreme true t (moddedBits (w.compact.mod / 4) t p) (moddedBits (w.compact.mod % 4) t q))
  | .vmaxLong d a b l => some (binary (longArgs l) (typeFor 3 typesFI (longArgs l).type) d.toNat a.toNat b.toNat fun t p q => extreme true t (moddedBits ((longArgs l).mod / 4) t p) (moddedBits ((longArgs l).mod % 4) t q))
  | .vaddmin d a b => some (ternary w.compact (typeFor 3 typesFI w.compact.type) d.toNat a.toNat b.toNat fun t p q r => extreme false t (sum w.compact false t p q) r)
  | .vaddminLong d a b l => some (ternary (longArgs l) (typeFor 3 typesFI (longArgs l).type) d.toNat a.toNat b.toNat fun t p q r => extreme false t (sum (longArgs l) false t p q) r)
  | .vaddmax d a b => some (ternary w.compact (typeFor 3 typesFI w.compact.type) d.toNat a.toNat b.toNat fun t p q r => extreme true t (sum w.compact false t p q) r)
  | .vaddmaxLong d a b l => some (ternary (longArgs l) (typeFor 3 typesFI (longArgs l).type) d.toNat a.toNat b.toNat fun t p q r => extreme true t (sum (longArgs l) false t p q) r)
  | .vrcp d a => some (unary w.compact typesF d.toNat a.toNat fun f v => f.deliver w.compact.rnd w.compact.sat (FVal.div (.num false 1 0) (f.modded (w.compact.mod / 4) v)))
  | .vrcpLong d a l => some (unary (longArgs l) typesF d.toNat a.toNat fun f v => f.deliver (longArgs l).rnd (longArgs l).sat (FVal.div (.num false 1 0) (f.modded ((longArgs l).mod / 4) v)))
  | .vsqrt d a => some (unary w.compact typesF d.toNat a.toNat fun f v => f.deliver w.compact.rnd w.compact.sat (f.modded (w.compact.mod / 4) v).sqrt)
  | .vsqrtLong d a l => some (unary (longArgs l) typesF d.toNat a.toNat fun f v => f.deliver (longArgs l).rnd (longArgs l).sat (f.modded ((longArgs l).mod / 4) v).sqrt)
  | .vrsq d a => some (unary w.compact typesF d.toNat a.toNat fun f v => f.deliver w.compact.rnd w.compact.sat (f.modded (w.compact.mod / 4) v).rsqrt)
  | .vrsqLong d a l => some (unary (longArgs l) typesF d.toNat a.toNat fun f v => f.deliver (longArgs l).rnd (longArgs l).sat (f.modded ((longArgs l).mod / 4) v).rsqrt)
  | .vrint d a => some (unary w.compact typesF d.toNat a.toNat fun f v => f.deliver 0 false ((f.modded (w.compact.mod / 4) v).rint w.compact.rnd))
  | .vrintLong d a l => some (unary (longArgs l) typesF d.toNat a.toNat fun f v => f.deliver 0 false ((f.modded ((longArgs l).mod / 4) v).rint (longArgs l).rnd))
  | .vexp2 d a => some (unary w.compact [3] d.toNat a.toNat fun f v => ((vexp2Lane) (BitVec.ofNat 32 (f.modBits (w.compact.mod / 4) v))).toNat)
  | .vexp2Long d a l => some (unary (longArgs l) [3] d.toNat a.toNat fun f v => ((vexp2Lane) (BitVec.ofNat 32 (f.modBits ((longArgs l).mod / 4) v))).toNat)
  | .vlog2 d a => some (unary w.compact [3] d.toNat a.toNat fun f v => ((vlog2Lane) (BitVec.ofNat 32 (f.modBits (w.compact.mod / 4) v))).toNat)
  | .vlog2Long d a l => some (unary (longArgs l) [3] d.toNat a.toNat fun f v => ((vlog2Lane) (BitVec.ofNat 32 (f.modBits ((longArgs l).mod / 4) v))).toNat)
  | .vsin d a => some (unary w.compact [3] d.toNat a.toNat fun f v => ((trigLane 2) (BitVec.ofNat 32 (f.modBits (w.compact.mod / 4) v))).toNat)
  | .vsinLong d a l => some (unary (longArgs l) [3] d.toNat a.toNat fun f v => ((trigLane 2) (BitVec.ofNat 32 (f.modBits ((longArgs l).mod / 4) v))).toNat)
  | .vcos d a => some (unary w.compact [3] d.toNat a.toNat fun f v => ((trigLane 3) (BitVec.ofNat 32 (f.modBits (w.compact.mod / 4) v))).toNat)
  | .vcosLong d a l => some (unary (longArgs l) [3] d.toNat a.toNat fun f v => ((trigLane 3) (BitVec.ofNat 32 (f.modBits ((longArgs l).mod / 4) v))).toNat)
  | .vand d a b => some (bitwise w.compact d.toNat a.toNat b.toNat fun p q => p &&& q)
  | .vandLong d a b l => some (bitwise (longArgs l) d.toNat a.toNat b.toNat fun p q => p &&& q)
  | .vor d a b => some (bitwise w.compact d.toNat a.toNat b.toNat fun p q => p ||| q)
  | .vorLong d a b l => some (bitwise (longArgs l) d.toNat a.toNat b.toNat fun p q => p ||| q)
  | .vxor d a b => some (bitwise w.compact d.toNat a.toNat b.toNat fun p q => p ^^^ q)
  | .vxorLong d a b l => some (bitwise (longArgs l) d.toNat a.toNat b.toNat fun p q => p ^^^ q)
  | .vandn d a b => some (bitwise w.compact d.toNat a.toNat b.toNat fun p q => p &&& ~~~q)
  | .vandnLong d a b l => some (bitwise (longArgs l) d.toNat a.toNat b.toNat fun p q => p &&& ~~~q)
  | .vshl d a b => some (integer w.compact 2 d.toNat a.toNat b.toNat fun _ n p q => p * 2 ^ (q % n) % 2 ^ n)
  | .vshlLong d a b l => some (integer (longArgs l) 2 d.toNat a.toNat b.toNat fun _ n p q => p * 2 ^ (q % n) % 2 ^ n)
  | .vshr d a b => some (integer w.compact 2 d.toNat a.toNat b.toNat fun g n p q => wrap n (valueOf g n p / 2 ^ (q % n)))
  | .vshrLong d a b l => some (integer (longArgs l) 2 d.toNat a.toNat b.toNat fun g n p q => wrap n (valueOf g n p / 2 ^ (q % n)))
  | .vmullo d a b => some (integer w.compact 1 d.toNat a.toNat b.toNat fun g n p q => fitted w.compact g n (valueOf g n p * valueOf g n q))
  | .vmulloLong d a b l => some (integer (longArgs l) 1 d.toNat a.toNat b.toNat fun g n p q => fitted (longArgs l) g n (valueOf g n p * valueOf g n q))
  | .vmulhi d a b => some (integer w.compact 1 d.toNat a.toNat b.toNat fun g n p q => wrap n (valueOf g n p * valueOf g n q / (2 ^ n : Nat)))
  | .vmulhiLong d a b l => some (integer (longArgs l) 1 d.toNat a.toNat b.toNat fun g n p q => wrap n (valueOf g n p * valueOf g n q / (2 ^ n : Nat)))
  | .vpopc d a => some (count w.compact d.toNat a.toNat popCount)
  | .vpopcLong d a l => some (count (longArgs l) d.toNat a.toNat popCount)
  | .vclz d a => some (count w.compact d.toNat a.toNat leadingZeros)
  | .vclzLong d a l => some (count (longArgs l) d.toNat a.toNat leadingZeros)
  | .vpack d a b => some (pack w.compact d.toNat a.toNat b.toNat)
  | .vpackLong d a b l => some (pack (longArgs l) d.toNat a.toNat b.toNat)
  | .vunplo d a => some (unpack w.compact false d.toNat a.toNat)
  | .vunploLong d a l => some (unpack (longArgs l) false d.toNat a.toNat)
  | .vunphi d a => some (unpack w.compact true d.toNat a.toNat)
  | .vunphiLong d a l => some (unpack (longArgs l) true d.toNat a.toNat)
  | .vmov d a => some (⟨w.compact, true, d.toNat, [(a.toNat, 0, w.compact.fe.testBit 0)], [], fun v l => some (val v 0 l)⟩)
  | .vmovLong d a l => some (⟨(longArgs l), true, d.toNat, [(a.toNat, 0, (longArgs l).fe.testBit 0)], [], fun v l => some (val v 0 l)⟩)
  | .vbcst d a b => some (laneMove w.compact (w.sreg b.toNat).toNat d.toNat a.toNat b.toNat fun k _ => some (k % 32))
  | .vbcstLong d a b l => some (laneMove (longArgs l) (w.sreg b.toNat).toNat d.toNat a.toNat b.toNat fun k _ => some (k % 32))
  | .vbfly d a b => some (laneMove w.compact (w.sreg b.toNat).toNat d.toNat a.toNat b.toNat fun k l => some (l ^^^ (k % 32)))
  | .vbflyLong d a b l => some (laneMove (longArgs l) (w.sreg b.toNat).toNat d.toNat a.toNat b.toNat fun k l => some (l ^^^ (k % 32)))
  | .vlsu d a b => some (laneMove w.compact (w.sreg b.toNat).toNat d.toNat a.toNat b.toNat fun k l => if k ≤ l then some (l - k) else none)
  | .vlsuLong d a b l => some (laneMove (longArgs l) (w.sreg b.toNat).toNat d.toNat a.toNat b.toNat fun k l => if k ≤ l then some (l - k) else none)
  | .vlsd d a b => some (laneMove w.compact (w.sreg b.toNat).toNat d.toNat a.toNat b.toNat fun k l => if l + k ≤ 31 then some (l + k) else none)
  | .vlsdLong d a b l => some (laneMove (longArgs l) (w.sreg b.toNat).toNat d.toNat a.toNat b.toNat fun k l => if l + k ≤ 31 then some (l + k) else none)
  | .vshfl d a b => some (⟨w.compact, true, d.toNat, two w.compact a.toNat b.toNat, [], fun v l => some (val v 0 ((val v 1 l).toNat % 32))⟩)
  | .vshflLong d a b l => some (⟨(longArgs l), true, d.toNat, two (longArgs l) a.toNat b.toNat, [], fun v l => some (val v 0 ((val v 1 l).toNat % 32))⟩)
  | .vscan d a => some (scan w.compact (w.takes w.compact.pred) d.toNat a.toNat)
  | .vscanLong d a l => some (scan (longArgs l) (w.takes (longArgs l).pred) d.toNat a.toNat)
  | .vdot2 d a b => some (dot2 w.compact d.toNat a.toNat b.toNat)
  | .vdot2Long d a b l => some (dot2 (longArgs l) d.toNat a.toNat b.toNat)
  | .vlane d => some ⟨w.compact, true, d.toNat, [], [], fun _ l => some (BitVec.ofNat 32 l)⟩
  | .vmovs d a => some ⟨w.compact, true, d.toNat, [], [a.toNat], fun _ _ => some ((w.sreg a.toNat).setWidth 32)⟩
  | .vmovi d imm => some ⟨w.compact, true, d.toNat, [], [], fun _ _ => some (imm.signExtend 32)⟩
  | _ => none

/-- One element of a form's extent: its sources are read, then its destination register is written in the lanes that take part; the
others keep their value (R16, R18, R86, R173). -/
def elementOf (v : Form) (w : Wave) (e : Nat × Nat) : Wave :=
  let reg (n : Nat) : Nat := 16 * (n / 16 + e.1) + (n % 16 + e.2) % 16
  let sources := v.vs.map fun x => w.vreg (reg x.1)
  w.setV (reg v.d) ((List.range 32).map fun l => if (w.pred v.x.pred).getLsbD l then (v.f sources l).getD (w.lane (reg v.d) l) else w.lane (reg v.d) l)

/-- All elements, row by row. -/
def runForm (v : Form) (w : Wave) : Wave :=
  ((List.range v.x.h).flatMap fun r => (List.range v.x.w).map fun c => (r, c)).foldl (elementOf v) w

/-- The registers of a form. -/
def Form.reads (v : Form) : List Nat := v.vs.flatMap fun x => blockRegs v.x.h v.x.w x.1
def Form.writes (v : Form) : List Nat := blockRegs v.x.h v.x.w v.d

/-- A form has what it needs: its wave is not in a trap handler, its type is accepted, and its registers are owned and full. -/
def FormReady (w : Wave) (v : Form) : Prop :=
  w.inHandler = false ∧ v.legal = true ∧ VFull w (v.reads ++ v.writes) ∧ SFull w v.ss

end Sys2Proof.Claim

/-- R16 to R18, R86, R171 to R173, R177 to R188: a vector form that has what it needs runs over its block extent and writes its lanes. What a pack makes
of a NaN is the model's reading (log 72). -/
def Obligations.VectorFormsGiveTheirElements : Prop :=
  ∀ (i : Instr) (v : Form) (s : State), vectorForm s.wave i = some v → AtInstr s → FormReady s.wave v →
    exec i s = .next (done s v.x.len (runForm v))

/-- R16, R18, R80, R86: the frame of the vector forms. Lanes that do not take part and registers outside the destination block keep
their value, the registers of the block are full, and nothing else of the wave but its position differs. -/
def Obligations.VectorFrame : Prop :=
  ∀ (i : Instr) (v : Form) (s t : State), vectorForm s.wave i = some v → AtInstr s → FormReady s.wave v → exec i s = .next t →
    OnlyWave s t ∧ SystemAgrees s.wave t.wave ∧ RestAgrees s t ∧ (∀ n, t.wave.sreg n = s.wave.sreg n ∧ t.wave.sFull n = s.wave.sFull n) ∧
      (∀ p, t.wave.pred p = s.wave.pred p) ∧ (∀ n ∈ v.writes, t.wave.vFull n = true) ∧
      (∀ n, n ∉ v.writes → t.wave.vreg n = s.wave.vreg n ∧ t.wave.vFull n = s.wave.vFull n) ∧
      (∀ n l, l < 32 → (s.wave.pred v.x.pred).getLsbD l = false → t.wave.lane n l = s.wave.lane n l)

/-- R177, R178, R181: the integer forms on 32-bit elements, lane by lane, as bit-vector arithmetic. -/
def Sys2Proof.Claim.Integer32Lanes : Prop :=
  ∀ (d a b : BitVec 8) (l : VL) (s : State), AtInstr s → s.wave.inHandler = false → VFull s.wave [d.toNat, a.toNat, b.toNat] →
    l.exh = 0 → l.exw = 0 → l.sat = false → l.pred = 0 → ∀ k, k < 32 →
    let p := s.wave.lane a.toNat k
    let q := s.wave.lane b.toNat k
    let gives (i : Instr) (x : Lane) : Prop := ∃ t, exec i s = .next t ∧ t.wave.lane d.toNat k = x
    ((l.type = 1 ∨ l.type = 2) → gives (.vaddLong d a b l) (p + q) ∧ gives (.vsubLong d a b l) (p - q) ∧ gives (.vmulloLong d a b l) (p * q) ∧
      gives (.vshlLong d a b l) (p <<< (q.toNat % 32))) ∧
    (l.type = 1 → gives (.vminLong d a b l) (if p.sle q then p else q) ∧ gives (.vmaxLong d a b l) (if q.sle p then p else q) ∧
      gives (.vshrLong d a b l) (p.sshiftRight (q.toNat % 32))) ∧
    (l.type = 2 → gives (.vminLong d a b l) (if p ≤ q then p else q) ∧ gives (.vmaxLong d a b l) (if q ≤ p then p else q) ∧
      gives (.vshrLong d a b l) (p >>> (q.toNat % 32))) ∧
    gives (.vandLong d a b l) (p &&& q) ∧ gives (.vorLong d a b l) (p ||| q) ∧ gives (.vxorLong d a b l) (p ^^^ q) ∧
    gives (.vandnLong d a b l) (p &&& ~~~q)

/-- R126: an FP32 sum, difference or product with a NaN operand is the canonical NaN, and a minimum or maximum with one NaN operand is
the other operand (R178). A pack to BF16 keeps a NaN, with its sign and what of its payload the format holds; the rules
leave open what fraction it has where that is nothing, and the model takes a free value that is not 0 (log 72). -/
def Sys2Proof.Claim.NanRules : Prop :=
  ∀ (d a b : BitVec 8) (s : State), AtInstr s → s.wave.inHandler = false → VFull s.wave [d.toNat, a.toNat, b.toNat] →
    s.wave.compact.h = 1 → s.wave.compact.w = 1 → ∀ k, k < 32 → (s.wave.pred s.wave.compact.pred).getLsbD k = true →
    let p := s.wave.lane a.toNat k
    let q := s.wave.lane b.toNat k
    let gives (i : Instr) (x : Lane) : Prop := ∃ t, exec i s = .next t ∧ t.wave.lane d.toNat k = x
    let nan (x : Lane) : Prop := 0x7f800000 < x.toNat % 2 ^ 31
    (nan p ∨ nan q → gives (.vadd d a b) 0x7fc00000 ∧ gives (.vsub d a b) 0x7fc00000 ∧ gives (.vmul d a b) 0x7fc00000) ∧
    (nan p → ¬ nan q → gives (.vmin d a b) q ∧ gives (.vmax d a b) q) ∧ (¬ nan p → nan q → gives (.vmin d a b) p ∧ gives (.vmax d a b) p) ∧
    (nan p → nan q → gives (.vmin d a b) 0x7fc00000 ∧ gives (.vmax d a b) 0x7fc00000) ∧
    (nan p → p.toNat / 2 ^ 16 % 2 ^ 7 ≠ 0 → ∃ t, exec (.vpack d a b) s = .next t ∧ (t.wave.lane d.toNat k).extractLsb' 0 16 = p.extractLsb' 16 16) ∧
    (nan p → ∃ t, exec (.vpack d a b) s = .next t ∧ 0x7f80 < (t.wave.lane d.toNat k).toNat % 2 ^ 15)

/-- R126, R177, R178, R181: integer lanes as bit-vector arithmetic, and the NaN rules of FP32 lanes; the fraction of some packed NaNs is a free value (log 72). -/
def Obligations.LaneArithmetic : Prop := Sys2Proof.Claim.Integer32Lanes ∧ Sys2Proof.Claim.NanRules

/-! Compares, predicates, votes, register-file moves, conversions -/

namespace Sys2Proof.Claim

/-- A compare: its fields, its type code, its condition on an order, and its operands (R182, R183). -/
def compareForm (w : Wave) : Instr → Option (VArgs × Nat × (Option Ordering → Bool) × BitVec 3 × BitVec 8 × BitVec 8)
  | .vcmpEqF32 d a b => some (w.compact, 3, fun o => o == some .eq, d, a, b)
  | .vcmpEqF32Long d a b l => some (longArgs l, 3, fun o => o == some .eq, d, a, b)
  | .vcmpNeF32 d a b => some (w.compact, 3, fun o => o != some .eq, d, a, b)
  | .vcmpNeF32Long d a b l => some (longArgs l, 3, fun o => o != some .eq, d, a, b)
  | .vcmpLtF32 d a b => some (w.compact, 3, fun o => o == some .lt, d, a, b)
  | .vcmpLtF32Long d a b l => some (longArgs l, 3, fun o => o == some .lt, d, a, b)
  | .vcmpLeF32 d a b => some (w.compact, 3, fun o => o == some .lt || o == some .eq, d, a, b)
  | .vcmpLeF32Long d a b l => some (longArgs l, 3, fun o => o == some .lt || o == some .eq, d, a, b)
  | .vcmpGtF32 d a b => some (w.compact, 3, fun o => o == some .gt, d, a, b)
  | .vcmpGtF32Long d a b l => some (longArgs l, 3, fun o => o == some .gt, d, a, b)
  | .vcmpGeF32 d a b => some (w.compact, 3, fun o => o == some .gt || o == some .eq, d, a, b)
  | .vcmpGeF32Long d a b l => some (longArgs l, 3, fun o => o == some .gt || o == some .eq, d, a, b)
  | .vcmpEqI32 d a b => some (w.compact, 1, fun o => o == some .eq, d, a, b)
  | .vcmpEqI32Long d a b l => some (longArgs l, 1, fun o => o == some .eq, d, a, b)
  | .vcmpNeI32 d a b => some (w.compact, 1, fun o => o != some .eq, d, a, b)
  | .vcmpNeI32Long d a b l => some (longArgs l, 1, fun o => o != some .eq, d, a, b)
  | .vcmpLtI32 d a b => some (w.compact, 1, fun o => o == some .lt, d, a, b)
  | .vcmpLtI32Long d a b l => some (longArgs l, 1, fun o => o == some .lt, d, a, b)
  | .vcmpLeI32 d a b => some (w.compact, 1, fun o => o == some .lt || o == some .eq, d, a, b)
  | .vcmpLeI32Long d a b l => some (longArgs l, 1, fun o => o == some .lt || o == some .eq, d, a, b)
  | .vcmpGtI32 d a b => some (w.compact, 1, fun o => o == some .gt, d, a, b)
  | .vcmpGtI32Long d a b l => some (longArgs l, 1, fun o => o == some .gt, d, a, b)
  | .vcmpGeI32 d a b => some (w.compact, 1, fun o => o == some .gt || o == some .eq, d, a, b)
  | .vcmpGeI32Long d a b l => some (longArgs l, 1, fun o => o == some .gt || o == some .eq, d, a, b)
  | .vcmpLtN32 d a b => some (w.compact, 2, fun o => o == some .lt, d, a, b)
  | .vcmpLtN32Long d a b l => some (longArgs l, 2, fun o => o == some .lt, d, a, b)
  | .vcmpLeN32 d a b => some (w.compact, 2, fun o => o == some .lt || o == some .eq, d, a, b)
  | .vcmpLeN32Long d a b l => some (longArgs l, 2, fun o => o == some .lt || o == some .eq, d, a, b)
  | .vcmpGtN32 d a b => some (w.compact, 2, fun o => o == some .gt, d, a, b)
  | .vcmpGtN32Long d a b l => some (longArgs l, 2, fun o => o == some .gt, d, a, b)
  | .vcmpGeN32 d a b => some (w.compact, 2, fun o => o == some .gt || o == some .eq, d, a, b)
  | .vcmpGeN32Long d a b l => some (longArgs l, 2, fun o => o == some .gt || o == some .eq, d, a, b)
  | _ => none

/-- The order of two lanes: as FP32 values, none with a NaN; or as signed or unsigned integers (R182). -/
def order (code : Nat) (a b : Lane) : Option Ordering :=
  if code = 3 then (fp32.decode a.toNat).cmp (fp32.decode b.toNat)
  else if code = 1 then some (compare a.toInt b.toInt) else some (compare a.toNat b.toNat)

/-- Predicate logic (R192). -/
def logicForm : Instr → Option (BitVec 3 × BitVec 3 × BitVec 3 × (Bool → Bool → Bool))
  | .vpand d a b => some (d, a, b, fun p q => p && q)
  | .vpor d a b => some (d, a, b, fun p q => p || q)
  | .vpxor d a b => some (d, a, b, fun p q => p ^^ q)
  | .vpandn d a b => some (d, a, b, fun p q => p && !q)
  | _ => none

/-- The lanes that take part and whose bit in vp`a` is 1. -/
def chosen (w : Wave) (p a : Nat) : List Nat := (List.range 32).filter fun l => (w.pred p).getLsbD l && (w.pred a).getLsbD l

end Sys2Proof.Claim

/-- R17, R174, R182, R183: a compare writes the bits of its predicate in the lanes that take part; the others keep theirs, and a write to
vp0 is ignored. An unordered pair meets only the condition `ne`. Another type is
ILLEGAL. -/
def Obligations.ComparesWriteTheirPredicate : Prop :=
  ∀ (i : Instr) (x : VArgs) (code : Nat) (c : Option Ordering → Bool) (d : BitVec 3) (a b : BitVec 8) (s : State),
    compareForm s.wave i = some (x, code, c, d, a, b) → AtInstr s → s.wave.inHandler = false →
    (x.type ≠ 0 → x.type ≠ code → exec i s = .next s.illegal) ∧
    ((x.type = 0 ∨ x.type = code) → VFull s.wave [a.toNat, b.toNat] →
      ∃ m : BitVec 32, exec i s = .next (done s x.len fun w => w.setPred d.toNat m) ∧
        ∀ l, l < 32 → m.getLsbD l = if (s.wave.pred x.pred).getLsbD l then c (order code (s.wave.lane a.toNat l) (s.wave.lane b.toNat l))
          else (s.wave.pred d.toNat).getLsbD l)

/-- R17, R174, R192 to R194: predicate logic, and the votes over the lanes that take part. -/
def Sys2Proof.Claim.PredicateLogicAndVotes : Prop :=
  ∀ (s : State), AtInstr s → s.wave.inHandler = false →
    let p := s.wave.compact.pred
    (∀ i d a b f, logicForm i = some (d, a, b, f) →
      ∃ m : BitVec 32, exec i s = .next (done s 1 fun w => w.setPred d.toNat m) ∧
        ∀ l, l < 32 → m.getLsbD l = if (s.wave.pred p).getLsbD l then f ((s.wave.pred a.toNat).getLsbD l) ((s.wave.pred b.toNat).getLsbD l)
          else (s.wave.pred d.toNat).getLsbD l) ∧
    (∀ (d : BitVec 7) (a : BitVec 3), SFull s.wave [d.toNat] →
      exec (.vvany d a) s = .next (done s 1 fun w => w.setS d.toNat (if chosen w p a.toNat = [] then 0 else 1)) ∧
      exec (.vpcnt d a) s = .next (done s 1 fun w => w.setS d.toNat (BitVec.ofNat 64 (chosen w p a.toNat).length)) ∧
      exec (.vvall d a) s = .next (done s 1 fun w => w.setS d.toNat (if chosen w p a.toNat = chosen w p 0 then 1 else 0)))

/-- R16, R174: vp0 reads all ones whatever is written to it. -/
def Sys2Proof.Claim.PredicateZero : Prop :=
  ∀ (w : Wave) (m : BitVec 32), w.pred 0 = 0xffffffff ∧ w.setPred 0 m = w ∧ ∀ p, p ≠ 0 → (w.setPred p m).pred p = m

/-- R16, R17, R174, R192 to R194: predicate logic, votes, and the predicate that is always true. -/
def Obligations.PredicatesAndVotes : Prop := Sys2Proof.Claim.PredicateLogicAndVotes ∧ Sys2Proof.Claim.PredicateZero

/-- R189 to R191: moves between the register files and single lanes. A lane number counts modulo 32, an index beyond the allocation is
ILLEGAL. `vgetl`, `vputl`, `vpmov` and `vpget` run in a trap handler too, where the full/empty bits of vector registers are neither waited on nor
changed (R198). -/
def Obligations.RegisterFileMoves : Prop :=
  ∀ (s : State), AtInstr s →
    (∀ (d b : BitVec 7) (a : BitVec 8), SFull s.wave [d.toNat, b.toNat] → VFull s.wave [a.toNat] →
      exec (.vgetl d a b) s = .next (done s 1 fun w => w.setS d.toNat ((w.lane a.toNat ((w.sreg b.toNat).toNat % 32)).setWidth 64))) ∧
    (∀ (d : BitVec 8) (a b : BitVec 7), s.wave.inHandler = false → SFull s.wave [a.toNat, b.toNat] → VFull s.wave [d.toNat] →
      exec (.vputl d a b) s = .next (done s 1 fun w =>
        w.setV d.toNat ((w.vreg d.toNat).set ((w.sreg b.toNat).toNat % 32) ((w.sreg a.toNat).setWidth 32)))) ∧
    (∀ (d b : BitVec 7) (a : BitVec 8), s.wave.inHandler = true → SFull s.wave [d.toNat, b.toNat] → a.toNat < s.wave.vregN →
      exec (.vgetl d a b) s = .next (done s 1 fun w => w.setS d.toNat ((w.lane a.toNat ((w.sreg b.toNat).toNat % 32)).setWidth 64))) ∧
    (∀ (d : BitVec 8) (a b : BitVec 7), s.wave.inHandler = true → SFull s.wave [a.toNat, b.toNat] → d.toNat < s.wave.vregN →
      exec (.vputl d a b) s = .next (done s 1 fun w =>
        { w with v := w.v.set d.toNat ⟨(w.vreg d.toNat).set ((w.sreg b.toNat).toNat % 32) ((w.sreg a.toNat).setWidth 32), w.vFull d.toNat⟩ })) ∧
    (∀ (d : BitVec 3) (a : BitVec 7), SFull s.wave [a.toNat] →
      exec (.vpmov d a) s = .next (done s 1 fun w => w.setPred d.toNat ((w.sreg a.toNat).setWidth 32))) ∧
    (∀ (d : BitVec 7) (a : BitVec 3), SFull s.wave [d.toNat] →
      exec (.vpget d a) s = .next (done s 1 fun w => w.setS d.toNat ((w.pred a.toNat).setWidth 64))) ∧
    (∀ (d : BitVec 8) (a : BitVec 7), s.wave.inHandler = false → SFull s.wave [a.toNat] → VFull s.wave [d.toNat] →
      ((s.wave.sreg a.toNat).toNat < s.wave.vregN → VFull s.wave [(s.wave.sreg a.toNat).toNat] →
        ∃ t, exec (.vgetr d a) s = .next t ∧ ∀ l, l < 32 → t.wave.lane d.toNat l =
          if (s.wave.pred s.wave.compact.pred).getLsbD l then s.wave.lane (s.wave.sreg a.toNat).toNat l else s.wave.lane d.toNat l) ∧
      (s.wave.vregN ≤ (s.wave.sreg a.toNat).toNat → exec (.vgetr d a) s = .next s.illegal)) ∧
    (∀ (d : BitVec 7) (a : BitVec 8), s.wave.inHandler = false → SFull s.wave [d.toNat] → VFull s.wave [a.toNat] →
      ((s.wave.sreg d.toNat).toNat < s.wave.vregN → VFull s.wave [(s.wave.sreg d.toNat).toNat] →
        ∃ t, exec (.vsetr d a) s = .next t ∧ ∀ l, l < 32 → t.wave.lane (s.wave.sreg d.toNat).toNat l =
          if (s.wave.pred s.wave.compact.pred).getLsbD l then s.wave.lane a.toNat l else s.wave.lane (s.wave.sreg d.toNat).toNat l) ∧
      (s.wave.vregN ≤ (s.wave.sreg d.toNat).toNat → exec (.vsetr d a) s = .next s.illegal))

/-- R195 to R197: `vcvt` between two assigned formats of one width converts each element of its extent on its own; FP32 to INT32 and back
round by RND. -/
def Sys2Proof.Claim.ConversionsOfOneWidth : Prop :=
  ∀ (d a dfmt : BitVec 8) (l : VL) (src dst : ETy) (s : State), eType l.c.toNat = some src → eType dfmt.toNat = some dst →
    src.width = dst.width → AtInstr s → s.wave.inHandler = false →
    let x := longArgs l
    VFull s.wave (blockRegs x.h x.w a.toNat ++ blockRegs x.h x.w d.toNat) →
    ∃ t, exec (.vcvt d a dfmt l) s = .next t ∧ t.wave.icount = s.wave.icount + 1 ∧ (∀ n ∈ blockRegs x.h x.w d.toNat, t.wave.vFull n = true) ∧
      (x.h = 1 → x.w = 1 → ∀ k, k < 32 → t.wave.lane d.toNat k =
        if (s.wave.pred x.pred).getLsbD k then each1 src.width (fun e => match src, dst with
            | .flt f, .int g n => wrap n ((f.modded (x.mod / 4) e).toInt x.rnd g n)
            | .int g n, .flt f => f.deliver x.rnd x.sat (FVal.ofInt (valueOf g n e))
            | .int g n, .int h _ => wrap n (if x.sat then clamp h n (valueOf g n e) else valueOf g n e)
            | .flt f, .flt g => if l.c = dfmt ∧ (f.modded (x.mod / 4) e).negative = false then g.deliver 0 false (f.modded (x.mod / 4) e)
              else if l.c = dfmt ∧ g.sgn = true then g.deliver 0 false (f.modded (x.mod / 4) e)
              else g.deliver x.rnd x.sat (f.modded (x.mod / 4) e)) (s.wave.lane a.toNat k)
        else s.wave.lane d.toNat k)

/-- One element converted to a format of another width (R124, R130, R131, R196); from binary8 to FP32 or BF16 it is exact, whatever SAT says (R133). -/
def Sys2Proof.Claim.resized (x : VArgs) (src dst : ETy) (e : Nat) : Nat := match src, dst with
  | .flt f, .int g n => wrap n ((f.modded (x.mod / 4) e).toInt x.rnd g n)
  | .int g n, .flt f => f.deliver x.rnd x.sat (FVal.ofInt (valueOf g n e))
  | .int g n, .int h k => fitted x h k (valueOf g n e)
  | .flt f, .flt g => g.deliver x.rnd (x.sat && !(f.width == 8 && (g.width == 32 || g.frac == 7))) (f.modded (x.mod / 4) e)

/-- One row of a conversion to a format of another width: its sources are read, then its destinations are written in the lanes that take part (R173,
R196). -/
def Sys2Proof.Claim.resizedRow (x : VArgs) (src dst : ETy) (a d : Nat) (w : Wave) (r : Nat) : Wave :=
  let es := 32 / src.width
  let ed := 32 / dst.width
  let elem (l j : Nat) : Nat := nth 0 (elems src.width (w.lane (blockReg a r (j / es)) l)) (j % es)
  (List.range (max 1 (dst.width / src.width))).foldl (fun v c => v.setV (blockReg d r c) ((List.range 32).map fun l =>
    if (w.pred x.pred).getLsbD l then BitVec.ofNat 32 (packElems dst.width ((List.range ed).map fun j => resized x src dst (elem l (c * ed + j))))
    else v.lane (blockReg d r c) l)) w

/-- R72, R73, R195: the codes that name no format, and `vcvt` from or to one of them, which is ILLEGAL. -/
def Sys2Proof.Claim.ConversionsOfNoFormat : Prop :=
  (∀ c, eType c = none ↔ c = 0 ∨ (0x0a ≤ c ∧ c ≤ 0x3f) ∨ (0x40 ≤ c ∧ c ≤ 0x5f ∧ c % 8 = 0) ∨ 0x60 ≤ c) ∧
  ∀ (d a dfmt : BitVec 8) (l : VL) (s : State), AtInstr s → (eType l.c.toNat = none ∨ eType dfmt.toNat = none) → exec (.vcvt d a dfmt l) s = .next s.illegal

/-- R196: `vcvt` between formats of unequal width. Narrowing, element j of the destination comes from element j mod es of source register j div es of the row;
widening, element j of the source goes to element j mod ed of destination register j div ed. The rows of the extent follow one another. The extent is one
column wide, or the instruction is ILLEGAL. -/
def Sys2Proof.Claim.ConversionsOfUnequalWidth : Prop :=
  ∀ (d a dfmt : BitVec 8) (l : VL) (src dst : ETy) (s : State), eType l.c.toNat = some src → eType dfmt.toNat = some dst →
    src.width ≠ dst.width → AtInstr s → s.wave.inHandler = false →
    let x := longArgs l
    let es := 32 / src.width
    let ed := 32 / dst.width
    (x.w ≠ 1 → exec (.vcvt d a dfmt l) s = .next s.illegal) ∧
    (x.w = 1 → VFull s.wave ((List.range x.h).flatMap fun r => (List.range (max 1 (src.width / dst.width))).map (blockReg a.toNat r) ++
        (List.range (max 1 (dst.width / src.width))).map (blockReg d.toNat r)) →
      exec (.vcvt d a dfmt l) s = .next (done s x.len fun w => (List.range x.h).foldl (resizedRow x src dst a.toNat d.toNat) w)) ∧
    (x.h = 1 → x.w = 1 → dst.width < src.width →
      VFull s.wave (blockReg d.toNat 0 0 :: (List.range (src.width / dst.width)).map (blockReg a.toNat 0)) →
      ∃ t, exec (.vcvt d a dfmt l) s = .next t ∧ t.wave.icount = s.wave.icount + (if s.wave.inHandler then 0 else 1) ∧ ∀ k, k < 32 →
        t.wave.lane d.toNat k = if (s.wave.pred x.pred).getLsbD k then BitVec.ofNat 32 (packElems dst.width ((List.range ed).map fun j =>
            resized x src dst (nth 0 (elems src.width (s.wave.lane (blockReg a.toNat 0 (j / es)) k)) (j % es))))
          else s.wave.lane d.toNat k) ∧
    (x.h = 1 → x.w = 1 → src.width < dst.width →
      VFull s.wave (blockReg a.toNat 0 0 :: (List.range (dst.width / src.width)).map (blockReg d.toNat 0)) →
      ∃ t, exec (.vcvt d a dfmt l) s = .next t ∧ ∀ c k, c < dst.width / src.width → k < 32 →
        t.wave.lane (blockReg d.toNat 0 c) k = if (s.wave.pred x.pred).getLsbD k then BitVec.ofNat 32 (packElems dst.width ((List.range ed).map fun j =>
            resized x src dst (nth 0 (elems src.width (s.wave.lane a.toNat k)) (c * ed + j))))
          else s.wave.lane (blockReg d.toNat 0 c) k)

/-- R195 to R197: `vcvt` between formats of one width and of two, and codes that name no format. -/
def Obligations.ElementConversions : Prop := Sys2Proof.Claim.ConversionsOfOneWidth ∧ Sys2Proof.Claim.ConversionsOfNoFormat ∧ Sys2Proof.Claim.ConversionsOfUnequalWidth

/-- The instructions of the engine class (R346). -/
def Sys2Proof.Claim.engineClass : Instr → Bool
  | .claimDone _ | .stepArrive _ | .stepWait _ => true
  | .wpclr _ _ | .cstage _ _ | .fld _ _ | .arrtgt _ _ | .lnkdrn _ _ | .claimDoneLong _ _ | .stepArriveLong _ _ | .stepWaitLong _ _ => true
  | .kemit _ _ _ | .srtrun _ _ _ | .srtmrg _ _ _ | .srttab _ _ _ | .vblend _ _ _ | .vblendg _ _ _ | .gdeg _ _ _ | .gdes _ _ _ | .claimPost _ _ _
  | .claimTake _ _ _ | .taskPush _ _ _ | .taskSpawn _ _ _ | .wpset _ _ _ | .cpy _ _ _ | .cpym _ _ _ | .cpydrn _ _ _ | .colRun _ _ _ | .fblkw _ _ _
  | .fblkr _ _ _ | .fst _ _ _ | .lnkctlRead _ _ _ | .lnkctlHold _ _ _ | .lnkctlRelease _ _ _ | .lnkctlDisable _ _ _ | .lnkctlEnable _ _ _
  | .wpclrLong _ _ _ | .cstageLong _ _ _ | .fldLong _ _ _ | .arrtgtLong _ _ _ | .lnkdrnLong _ _ _ => true
  | .kemitLong _ _ _ _ | .srtrunLong _ _ _ _ | .srtmrgLong _ _ _ _ | .srttabLong _ _ _ _ | .vblendLong _ _ _ _ | .vblendgLong _ _ _ _
  | .gdegLong _ _ _ _ | .gdesLong _ _ _ _ | .claimPostLong _ _ _ _ | .claimTakeLong _ _ _ _ | .taskPushLong _ _ _ _ | .taskSpawnLong _ _ _ _
  | .wpsetLong _ _ _ _ | .cpyLong _ _ _ _ | .cpymLong _ _ _ _ | .cpydrnLong _ _ _ _ | .colRunLong _ _ _ _ | .fblkwLong _ _ _ _ | .fblkrLong _ _ _ _
  | .fstLong _ _ _ _ | .lnkctlLong _ _ _ _ => true
  | _ => false

/-- R198: in a trap handler every vector form, compare, vote and conversion is ILLEGAL, apart from the four moves that the rule
names, and so is every instruction of the engine class (R346). -/
def Sys2Proof.Claim.VectorIllegalInHandler : Prop :=
  ∀ (i : Instr) (s : State), AtInstr s → s.wave.inHandler = true →
    ((∃ v, vectorForm s.wave i = some v) ∨ (∃ v, compareForm s.wave i = some v) ∨ (∃ v, logicForm i = some v) ∨
      (∃ d a, i = .vvall d a ∨ i = .vvany d a ∨ i = .vpcnt d a) ∨ (∃ d a, i = .vgetr d a) ∨ (∃ d a, i = .vsetr d a) ∨ (∃ d a f l, i = .vcvt d a f l) ∨
      engineClass i = true) →
    exec i s = .next s.illegal

/-- R67, R81, R82: the order of a vector form's checks, which is the model's reading (log 71). A type that it does not accept, or a register beyond the allocation, is ILLEGAL;
else, where every operand has policy 0, it waits while a register that it reads or writes is empty. -/
def Sys2Proof.Claim.VectorChecks : Prop :=
  ∀ (i : Instr) (v : Form) (s : State), vectorForm s.wave i = some v → AtInstr s → s.wave.inHandler = false →
    ((v.legal = false ∨ (∃ n ∈ v.reads ++ v.writes, s.wave.vregN ≤ n) ∨ (∃ n ∈ v.ss, s.wave.sregN ≤ n)) → exec i s = .next s.illegal) ∧
    (v.legal = true → (∀ n ∈ v.reads ++ v.writes, n < s.wave.vregN) → (∀ n ∈ v.ss, n < s.wave.sregN) → v.x.fe = 0 →
      ((∃ n ∈ v.reads ++ v.writes, s.wave.vFull n = false) ∨ (∃ n ∈ v.ss, s.wave.sFull n = false)) → exec i s = .next s.block)


/-- R67, R81, R83, R463: a vector source under policy 1 that has an empty register raises EMPTY, the first such source in the order A, B, C, and its first
empty register; TINFO names it. So does an empty scalar source of a lane move whose FE bit is set. Which register is named, and that EMPTY comes before the
waits for other registers, is the model's reading (logs 21, 71). -/
def Sys2Proof.Claim.EmptyVectorSourceTraps : Prop :=
  ∀ (i : Instr) (v : Form) (s : State), vectorForm s.wave i = some v → AtInstr s → s.wave.inHandler = false → v.legal = true →
    (∀ n ∈ v.reads ++ v.writes, n < s.wave.vregN) → (∀ n ∈ v.ss, n < s.wave.sregN) →
    (∀ (pre post : List (Nat × Nat × Bool)) (base slot n : Nat) (l r : List Nat), v.vs = pre ++ (base, slot, true) :: post →
      (∀ p ∈ pre, p.2.2 = true → ∀ m ∈ blockRegs v.x.h v.x.w p.1, s.wave.vFull m = true) →
      blockRegs v.x.h v.x.w base = l ++ n :: r → (∀ m ∈ l, s.wave.vFull m = true) → s.wave.vFull n = false →
      exec i s = .next (s.trap Code.empty (BitVec.ofNat 64 (n + 256 + 512 * slot)))) ∧
    (∀ d a b l, i = .vbcstLong d a b l ∨ i = .vbflyLong d a b l ∨ i = .vlsuLong d a b l ∨ i = .vlsdLong d a b l → l.fe.getLsbD 1 = true →
      (l.fe.getLsbD 0 = true → ∀ m ∈ blockRegs v.x.h v.x.w a.toNat, s.wave.vFull m = true) → s.wave.sFull b.toNat = false →
      exec i s = .next (s.trap Code.empty (BitVec.ofNat 64 (b.toNat + 512))))

/-- R67, R81 to R83, R198, R346, R463: the checks of a vector form, EMPTY among them, and vector and engine forms in a trap handler. The order of the checks, and which register EMPTY names, are the model's reading (logs 21, 71). -/
def Obligations.VectorFormsThatDoNotRun : Prop := Sys2Proof.Claim.VectorIllegalInHandler ∧ Sys2Proof.Claim.VectorChecks ∧ Sys2Proof.Claim.EmptyVectorSourceTraps

/-! ### Memory class -/

namespace Sys2Proof.Claim

/-- A form of the memory class on virtual memory: its fields, whether they are legal, the scalar and vector registers that it reads or
writes, the rights that it needs, whether every element must be aligned (R244), what it leaves in flight, its element accesses, and its sources in the order
in which they are looked at, each with its place, whether it is a vector block, and its registers (R67, R81). -/
structure MemForm where
  x : MArgs
  legal : Bool
  ss : List Nat
  vs : List Nat
  need : Need
  align : Bool
  op : OpArgs
  rs : List Req
  srcs : List (Nat × Bool × List Nat)

/-- The address of element (r, c), lane l, of a block form (R242): S[A] + 128·OFF9 + 128·(16r + c) + 4l. -/
def blockAt (a : BitVec 7) (off : BitVec 9) : VAddr :=
  ⟨4, fun w r c l => w.sreg a.toNat + 128 * off.signExtend 64 + BitVec.ofNat 64 (128 * (16 * r + c) + 4 * l)⟩

/-- The same of an indexed form: S[A] plus the lane of the index register, times the element's width where SC is 1. -/
def indexAt (a : BitVec 7) (sc : Bool) (xr : BitVec 8) (n : Nat) : VAddr :=
  ⟨n, fun w r c l => w.sreg a.toNat + BitVec.ofNat 64 (if sc then n else 1) * (w.lane (blockReg xr.toNat r c) l).signExtend 64⟩

/-- The element accesses of the lanes that take part, in the order of R248. -/
def elements (w : Wave) (x : MArgs) (va : VAddr) (skip : Nat → Nat → Bool) (act : (r c l : Nat) → ReqAct) : List Req :=
  ((List.range x.h).flatMap fun r => (List.range x.w).map fun c => (r, c)).flatMap fun e =>
    ((List.range 32).filter fun l => w.takes x.pred l && !skip (4 * e.1 + e.2) l).map fun l =>
      ⟨4 * e.1 + e.2, l, (va.at_ w e.1 e.2 l).toNat, va.w, act e.1 e.2 l⟩

/-- The block registers of an operand. -/
def block (x : MArgs) (n : Nat) : List Nat := blockRegs x.h x.w n

def acqOf (x : MArgs) : Option Nat := if x.acq then some x.scope else none
def relOf (x : MArgs) : Option Nat := if x.rel then some x.scope else none

/-- A scalar load of `n` bytes (R247). -/
def scalarLoad (w : Wave) (x : MArgs) (n : Nat) (sgn : Bool) (d a : BitVec 7) (off : BitVec 9) : MemForm :=
  ⟨x, decide (x.scope ≤ 4), [a.toNat, d.toNat], [], .load, x.acq || x.rel,
    { path := .gen, vec := false, tracker := false, atomic := false, fill := .scalar d.toNat n sgn, len := x.len, acq := acqOf x,
      rel := relOf x, rlx := x.rlx },
    [⟨0, 0, (w.sreg a.toNat + BitVec.ofNat 64 n * off.signExtend 64).toNat, n, .read⟩], [(0, false, [a.toNat])]⟩

/-- A scalar store of the low `n` bytes of S[D] (R247). -/
def scalarStore (w : Wave) (x : MArgs) (n : Nat) (d a : BitVec 7) (off : BitVec 9) : MemForm :=
  ⟨x, decide (x.scope ≤ 4), [a.toNat, d.toNat], [], .store, x.acq || x.rel,
    { path := .gen, vec := false, tracker := true, atomic := false, fill := .none, len := x.len, acq := acqOf x, rel := relOf x, rlx := x.rlx },
    [⟨0, 0, (w.sreg a.toNat + BitVec.ofNat 64 n * off.signExtend 64).toNat, n, .write (toBytes n (w.sreg d.toNat).toNat)⟩],
    [(0, false, [a.toNat]), (2, false, [d.toNat])]⟩

/-- A vector load (R248, R249): `ro` is the read-only path. -/
def vectorLoad (w : Wave) (x : MArgs) (legal ro sgn : Bool) (a : BitVec 7) (xs : List Nat) (d : BitVec 8) (va : VAddr) : MemForm :=
  let rs := elements w x va (fun _ _ => false) fun _ _ _ => .read
  ⟨x, legal && decide (x.scope ≤ 4), [a.toNat], xs ++ block x d.toNat, if ro then .roLoad else .load, x.acq || (x.rel && !ro),
    { path := if ro then .ro else .gen, vec := true, tracker := false, atomic := false, fill := vfill x d va.w sgn rs, len := x.len,
      acq := acqOf x, rel := if ro then none else relOf x, rlx := x.rlx }, rs, [(0, false, [a.toNat]), (1, true, xs)]⟩

/-- A vector store (R248). -/
def vectorStore (w : Wave) (x : MArgs) (legal : Bool) (a : BitVec 7) (xs : List Nat) (d : BitVec 8) (va : VAddr) : MemForm :=
  ⟨x, legal && decide (x.scope ≤ 4), [a.toNat], xs ++ block x d.toNat, .store, x.acq || x.rel,
    { path := .gen, vec := true, tracker := true, atomic := false, fill := .none, len := x.len, acq := acqOf x, rel := relOf x, rlx := x.rlx },
    elements w x va (fun _ _ => false) fun r c l => .write (toBytes va.w (w.lane (blockReg d.toNat r c) l).toNat),
    [(0, false, [a.toNat]), (1, true, xs), (2, true, block x d.toNat)]⟩

/-- Width and sign of an element by its FMT8 (R242, R248). -/
def fmtWidth (x : MArgs) : Nat := ((moveFmt x.fmt).getD (4, false)).1
def fmtSign (x : MArgs) : Bool := ((moveFmt x.fmt).getD (4, false)).2

/-- A vector atomic with return (R253, R254, R257): lanes that an earlier issue has done are left out. -/
def vectorAtomic (w : Wave) (x : MArgs) (legal cas : Bool) (d : BitVec 8) (a : BitVec 7) (sc : Bool) (xr : BitVec 8)
    (op : (reg l : Nat) → Rmw) : MemForm :=
  let rs := elements w x (indexAt a sc xr 4) w.doneLane fun r c l => .rmw (op (blockReg d.toNat r c) l) ((w.lane (blockReg d.toNat r c) l).setWidth 64)
  ⟨x, legal && decide (x.scope ≤ 4) && (!cas || (block x d.toNat).all fun r => r % 16 != 15), [a.toNat],
    block x xr.toNat ++ block x d.toNat ++ (if cas then (block x d.toNat).map (· + 1) else []), .atomic, true,
    { path := .gen, vec := true, tracker := false, atomic := true, fill := vfill x d 4 false rs, len := x.len, acq := acqOf x,
      rel := relOf x, rlx := x.rlx }, rs,
    [(0, false, [a.toNat]), (1, true, block x xr.toNat), (2, true, block x d.toNat)] ++
      (if cas then [(2, true, (block x d.toNat).map (· + 1))] else [])⟩

/-- A scalar atomic on a word of 8 bytes, or of 4 under FMT8 1 and 2 (R256). -/
def scalarAtomic (w : Wave) (x : MArgs) (cas : Bool) (d a : BitVec 7) (off : BitVec 9) : MemForm :=
  let n := if x.fmt = 0 then 8 else 4
  ⟨x, decide (x.scope ≤ 4) && decide (x.fmt ≤ 2) && !(cas && d == 127), [a.toNat, d.toNat] ++ (if cas then [d.toNat + 1] else []), [], .atomic, true,
    { path := .gen, vec := false, tracker := false, atomic := true, fill := .scalar d.toNat n (x.fmt == 1), len := x.len, acq := acqOf x,
      rel := relOf x, rlx := x.rlx },
    if w.doneLane 0 0 then [] else [⟨0, 0, (w.sreg a.toNat + BitVec.ofNat 64 n * off.signExtend 64).toNat, n,
      .rmw (if cas then .cas (w.sreg (d.toNat + 1)) else .add) (w.sreg d.toNat)⟩],
    [(0, false, [a.toNat]), (2, false, [d.toNat])] ++ (if cas then [(2, false, [d.toNat + 1])] else [])⟩

/-- A reduction (R258). -/
def reduction (w : Wave) (x : MArgs) (legal : Bool) (n : Nat) (op : Rmw) (d : BitVec 8) (a : BitVec 7) (sc : Bool) (xr : BitVec 8) : MemForm :=
  ⟨x, legal && decide (x.scope ≤ 4), [a.toNat], block x xr.toNat ++ block x d.toNat, .atomic, true,
    { path := .gen, vec := true, tracker := true, atomic := false, fill := .none, len := x.len, acq := acqOf x, rel := relOf x, rlx := x.rlx },
    elements w x (indexAt a sc xr n) (fun _ _ => false) fun r c l => .rmw op ((w.lane (blockReg d.toNat r c) l).setWidth 64),
    [(0, false, [a.toNat]), (1, true, block x xr.toNat), (2, true, block x d.toNat)]⟩

/-- `vredfadd` by its FMT8: reduce mode for FP32, an FP32 shadow for BF16 and binary8 (R226, R229, R258). -/
def floatSum (w : Wave) (x : MArgs) (d : BitVec 8) (a : BitVec 7) (sc : Bool) (xr : BitVec 8) : MemForm :=
  if x.fmt = 0 ∨ x.fmt = 3 then reduction w x true 4 .redFadd d a sc xr
  else if x.fmt = 7 then reduction w x true 2 (.shadow (BitVec.ofNat 8 x.fmt)) d a sc xr
  else reduction w x (decide (0x40 ≤ x.fmt) && (eType x.fmt).isSome) 1 (.shadow (BitVec.ofNat 8 x.fmt)) d a sc xr

/-- `sseqadd`: a release at `.pkg` whatever its fields (R260). -/
def counterAdd (s : State) (x : MArgs) (d a : BitVec 7) (off : BitVec 9) : MemForm :=
  let va := (s.wave.sreg a.toNat + 8 * off.signExtend 64).toNat
  ⟨x, true, [a.toNat, d.toNat], [], .counter, true,
    { path := .gen, vec := false, tracker := true, atomic := false, fill := .none, len := x.len, acq := none, rel := some 4, rlx := false,
      seqctr := match s.trans s.myGang.asid va with
        | .ok p n => some (ptePa p n va)
        | _ => none }, [⟨0, 0, va, 8, .rmw .seqAdd (s.wave.sreg d.toNat)⟩], [(0, false, [a.toNat]), (2, false, [d.toNat])]⟩

def intCode (x : MArgs) : Bool := decide (x.fmt ≤ 2)
def floatCode (x : MArgs) : Bool := x.fmt == 0 || x.fmt == 3
def least (x : MArgs) : Rmw := if x.fmt = 2 then .minU else .minS
def most (x : MArgs) : Rmw := if x.fmt = 2 then .maxU else .maxS

/-- The forms of the memory class on virtual memory, compact and long (R91, R247 to R260). -/
def memForm (s : State) : Instr → Option MemForm
  | .sldN8 d a off => some (scalarLoad s.wave s.wave.memCompact 1 false d a off)
  | .sldN8Long d a off l => some (scalarLoad s.wave (memLong l) 1 false d a off)
  | .sldI8 d a off => some (scalarLoad s.wave s.wave.memCompact 1 true d a off)
  | .sldI8Long d a off l => some (scalarLoad s.wave (memLong l) 1 true d a off)
  | .sldN16 d a off => some (scalarLoad s.wave s.wave.memCompact 2 false d a off)
  | .sldN16Long d a off l => some (scalarLoad s.wave (memLong l) 2 false d a off)
  | .sldI16 d a off => some (scalarLoad s.wave s.wave.memCompact 2 true d a off)
  | .sldI16Long d a off l => some (scalarLoad s.wave (memLong l) 2 true d a off)
  | .sldN32 d a off => some (scalarLoad s.wave s.wave.memCompact 4 false d a off)
  | .sldN32Long d a off l => some (scalarLoad s.wave (memLong l) 4 false d a off)
  | .sldI32 d a off => some (scalarLoad s.wave s.wave.memCompact 4 true d a off)
  | .sldI32Long d a off l => some (scalarLoad s.wave (memLong l) 4 true d a off)
  | .sldN64 d a off => some (scalarLoad s.wave s.wave.memCompact 8 false d a off)
  | .sldN64Long d a off l => some (scalarLoad s.wave (memLong l) 8 false d a off)
  | .sstN8 d a off => some (scalarStore s.wave s.wave.memCompact 1 d a off)
  | .sstN8Long d a off l => some (scalarStore s.wave (memLong l) 1 d a off)
  | .sstN16 d a off => some (scalarStore s.wave s.wave.memCompact 2 d a off)
  | .sstN16Long d a off l => some (scalarStore s.wave (memLong l) 2 d a off)
  | .sstN32 d a off => some (scalarStore s.wave s.wave.memCompact 4 d a off)
  | .sstN32Long d a off l => some (scalarStore s.wave (memLong l) 4 d a off)
  | .sstN64 d a off => some (scalarStore s.wave s.wave.memCompact 8 d a off)
  | .sstN64Long d a off l => some (scalarStore s.wave (memLong l) 8 d a off)
  | .vld d a off => some (vectorLoad s.wave s.wave.memCompact true false false a [] d (blockAt a off))
  | .vldLong d a off l => some (vectorLoad s.wave (memLong l) true false false a [] d (blockAt a off))
  | .vst d a off => some (vectorStore s.wave s.wave.memCompact true a [] d (blockAt a off))
  | .vstLong d a off l => some (vectorStore s.wave (memLong l) true a [] d (blockAt a off))
  | .vldx d a sc x => some (vectorLoad s.wave s.wave.memCompact (moveFmt s.wave.memCompact.fmt).isSome false (fmtSign s.wave.memCompact) a (block s.wave.memCompact x.toNat) d (indexAt a sc x (fmtWidth s.wave.memCompact)))
  | .vldxLong d a sc x l => some (vectorLoad s.wave (memLong l) (moveFmt (memLong l).fmt).isSome false (fmtSign (memLong l)) a (block (memLong l) x.toNat) d (indexAt a sc x (fmtWidth (memLong l))))
  | .vstx d a sc x => some (vectorStore s.wave s.wave.memCompact (moveFmt s.wave.memCompact.fmt).isSome a (block s.wave.memCompact x.toNat) d (indexAt a sc x (fmtWidth s.wave.memCompact)))
  | .vstxLong d a sc x l => some (vectorStore s.wave (memLong l) (moveFmt (memLong l).fmt).isSome a (block (memLong l) x.toNat) d (indexAt a sc x (fmtWidth (memLong l))))
  | .vldro d a off => some (vectorLoad s.wave s.wave.memCompact true true false a [] d (blockAt a off))
  | .vldroLong d a off l => some (vectorLoad s.wave (memLong l) true true false a [] d (blockAt a off))
  | .vldrox d a sc x => some (vectorLoad s.wave s.wave.memCompact (moveFmt s.wave.memCompact.fmt).isSome true (fmtSign s.wave.memCompact) a (block s.wave.memCompact x.toNat) d (indexAt a sc x (fmtWidth s.wave.memCompact)))
  | .vldroxLong d a sc x l => some (vectorLoad s.wave (memLong l) (moveFmt (memLong l).fmt).isSome true (fmtSign (memLong l)) a (block (memLong l) x.toNat) d (indexAt a sc x (fmtWidth (memLong l))))
  | .vaadd d a sc x => some (vectorAtomic s.wave s.wave.memCompact (intCode s.wave.memCompact) false d a sc x fun _ _ => .add)
  | .vaaddLong d a sc x l => some (vectorAtomic s.wave (memLong l) (intCode (memLong l)) false d a sc x fun _ _ => .add)
  | .vaand d a sc x => some (vectorAtomic s.wave s.wave.memCompact (intCode s.wave.memCompact) false d a sc x fun _ _ => .and)
  | .vaandLong d a sc x l => some (vectorAtomic s.wave (memLong l) (intCode (memLong l)) false d a sc x fun _ _ => .and)
  | .vaor d a sc x => some (vectorAtomic s.wave s.wave.memCompact (intCode s.wave.memCompact) false d a sc x fun _ _ => .or)
  | .vaorLong d a sc x l => some (vectorAtomic s.wave (memLong l) (intCode (memLong l)) false d a sc x fun _ _ => .or)
  | .vaxor d a sc x => some (vectorAtomic s.wave s.wave.memCompact (intCode s.wave.memCompact) false d a sc x fun _ _ => .xor)
  | .vaxorLong d a sc x l => some (vectorAtomic s.wave (memLong l) (intCode (memLong l)) false d a sc x fun _ _ => .xor)
  | .vaxchg d a sc x => some (vectorAtomic s.wave s.wave.memCompact (intCode s.wave.memCompact) false d a sc x fun _ _ => .xchg)
  | .vaxchgLong d a sc x l => some (vectorAtomic s.wave (memLong l) (intCode (memLong l)) false d a sc x fun _ _ => .xchg)
  | .vamin d a sc x => some (vectorAtomic s.wave s.wave.memCompact (intCode s.wave.memCompact) false d a sc x fun _ _ => least s.wave.memCompact)
  | .vaminLong d a sc x l => some (vectorAtomic s.wave (memLong l) (intCode (memLong l)) false d a sc x fun _ _ => least (memLong l))
  | .vamax d a sc x => some (vectorAtomic s.wave s.wave.memCompact (intCode s.wave.memCompact) false d a sc x fun _ _ => most s.wave.memCompact)
  | .vamaxLong d a sc x l => some (vectorAtomic s.wave (memLong l) (intCode (memLong l)) false d a sc x fun _ _ => most (memLong l))
  | .vacas d a sc x => some (vectorAtomic s.wave s.wave.memCompact (intCode s.wave.memCompact) true d a sc x fun reg l => .cas ((s.wave.lane (reg + 1) l).setWidth 64))
  | .vacasLong d a sc x l => some (vectorAtomic s.wave (memLong l) (intCode (memLong l)) true d a sc x fun reg l => .cas ((s.wave.lane (reg + 1) l).setWidth 64))
  | .vafadd d a sc x => some (vectorAtomic s.wave s.wave.memCompact (floatCode s.wave.memCompact) false d a sc x fun _ _ => .fadd)
  | .vafaddLong d a sc x l => some (vectorAtomic s.wave (memLong l) (floatCode (memLong l)) false d a sc x fun _ _ => .fadd)
  | .vafmin d a sc x => some (vectorAtomic s.wave s.wave.memCompact (floatCode s.wave.memCompact) false d a sc x fun _ _ => .fmin)
  | .vafminLong d a sc x l => some (vectorAtomic s.wave (memLong l) (floatCode (memLong l)) false d a sc x fun _ _ => .fmin)
  | .vafmax d a sc x => some (vectorAtomic s.wave s.wave.memCompact (floatCode s.wave.memCompact) false d a sc x fun _ _ => .fmax)
  | .vafmaxLong d a sc x l => some (vectorAtomic s.wave (memLong l) (floatCode (memLong l)) false d a sc x fun _ _ => .fmax)
  | .vredadd d a sc x => some (reduction s.wave s.wave.memCompact (intCode s.wave.memCompact) 4 .add d a sc x)
  | .vredaddLong d a sc x l => some (reduction s.wave (memLong l) (intCode (memLong l)) 4 .add d a sc x)
  | .vredmin d a sc x => some (reduction s.wave s.wave.memCompact (intCode s.wave.memCompact) 4 (least s.wave.memCompact) d a sc x)
  | .vredminLong d a sc x l => some (reduction s.wave (memLong l) (intCode (memLong l)) 4 (least (memLong l)) d a sc x)
  | .vredmax d a sc x => some (reduction s.wave s.wave.memCompact (intCode s.wave.memCompact) 4 (most s.wave.memCompact) d a sc x)
  | .vredmaxLong d a sc x l => some (reduction s.wave (memLong l) (intCode (memLong l)) 4 (most (memLong l)) d a sc x)
  | .vredand d a sc x => some (reduction s.wave s.wave.memCompact (intCode s.wave.memCompact) 4 .and d a sc x)
  | .vredandLong d a sc x l => some (reduction s.wave (memLong l) (intCode (memLong l)) 4 .and d a sc x)
  | .vredor d a sc x => some (reduction s.wave s.wave.memCompact (intCode s.wave.memCompact) 4 .or d a sc x)
  | .vredorLong d a sc x l => some (reduction s.wave (memLong l) (intCode (memLong l)) 4 .or d a sc x)
  | .vredxor d a sc x => some (reduction s.wave s.wave.memCompact (intCode s.wave.memCompact) 4 .xor d a sc x)
  | .vredxorLong d a sc x l => some (reduction s.wave (memLong l) (intCode (memLong l)) 4 .xor d a sc x)
  | .vredfmin d a sc x => some (reduction s.wave s.wave.memCompact (floatCode s.wave.memCompact) 4 .fmin d a sc x)
  | .vredfminLong d a sc x l => some (reduction s.wave (memLong l) (floatCode (memLong l)) 4 .fmin d a sc x)
  | .vredfmax d a sc x => some (reduction s.wave s.wave.memCompact (floatCode s.wave.memCompact) 4 .fmax d a sc x)
  | .vredfmaxLong d a sc x l => some (reduction s.wave (memLong l) (floatCode (memLong l)) 4 .fmax d a sc x)
  | .vredfadd d a sc x => some (floatSum s.wave s.wave.memCompact d a sc x)
  | .vredfaddLong d a sc x l => some (floatSum s.wave (memLong l) d a sc x)
  | .sseqadd d a off => some (counterAdd s s.wave.memCompact d a off)
  | .sseqaddLong d a off l => some (counterAdd s (memLong l) d a off)
  | .saadd d a off => some (scalarAtomic s.wave s.wave.memCompact false d a off)
  | .saaddLong d a off l => some (scalarAtomic s.wave (memLong l) false d a off)
  | .sacas d a off => some (scalarAtomic s.wave s.wave.memCompact true d a off)
  | .sacasLong d a off l => some (scalarAtomic s.wave (memLong l) true d a off)
  | _ => none

/-- A form of the memory class has its registers and its fields are legal; no acquire of the wave is open (R255). -/
def MemReady (s : State) (m : MemForm) : Prop :=
  m.legal = true ∧ SFull s.wave m.ss ∧ VFull s.wave m.vs ∧ s.wave.acqs = [] ∧ s.wave.waiting = none

/-- The ranges of bytes that a form touches pass their checks (R209 to R211, R237, R244): translations are held and give the rights. -/
def Passes (s : State) (m : MemForm) : Prop :=
  s.checkRanges s.myGang.asid m.need (m.rs.map fun r => (r.va, r.w, if m.align then r.w else 1)) = .ok

/-- Where a form loads, no line of the issuing core's L1 holds one of its bytes; what a line that is there does is said of `LoadServedByL1`. -/
def L1Misses (s : State) (m : MemForm) : Prop :=
  m.need = .load → ∀ a ∈ (s.split s.myGang.asid m.rs).1, ∀ pa, a.at_ = .phys pa → ∀ l ∈ s.l1, l.core = s.wave.core → l.line ≠ pa / 128

/-- The wave behind the issue of a form that it does not wait for. -/
def behind (w : Wave) (m : MemForm) (id : Nat) : Wave :=
  let w := w.emptyFor m.op.fill
  Wave.retire { w with acqs := match m.op.acq with
    | none => w.acqs
    | some sc => w.acqs ++ [(id, sc)] } m.op.len

end Sys2Proof.Claim

/-- R42, R80, R243, R245, R247 to R260: a form of the memory class whose checks pass and whose bytes are local leaves in flight an
operation with one access for each aligned element and one for each byte of an unaligned one, whatever lines the core's L1 holds of what it stores; its
registers empty and the wave goes on, after an atomic with return it waits. No byte of memory or of a vault changes at issue. -/
def Sys2Proof.Claim.MemoryFormsIssue : Prop :=
  ∀ (i : Instr) (m : MemForm) (s : State), memForm s i = some m → AtInstr s → MemReady s m → Passes s m → L1Misses s m → m.rs ≠ [] →
    (s.split s.myGang.asid m.rs).2 = [] → (m.op.tracker = true → s.trackerRoom s.wave.core = true) →
    (m.op.tracker = false → m.x.rel = true → s.genDone s.cur m.x.scope = true) →
    ∃ (t : State) (o : MemOp), exec i s = .next t ∧ t.ops = s.ops ++ [o] ∧ o.id = s.nextId ∧ o.wave = s.cur ∧ o.core = s.wave.core ∧
      o.gang = s.wave.gang ∧ o.pc = instrAddr s.wave ∧ o.acc = (s.split s.myGang.asid m.rs).1 ∧ o.res = [] ∧ o.fill = m.op.fill ∧ o.path = m.op.path ∧
      o.tracker = m.op.tracker ∧ o.atomic = m.op.atomic ∧ o.rel = m.op.rel ∧ o.acq = m.op.acq ∧ o.reads = [] ∧ o.pieces = [] ∧
      (m.op.atomic = false → t.wave = behind s.wave m s.nextId) ∧
      (m.op.atomic = true → t.wave.waiting = some (.atomic s.nextId) ∧ t.wave.idx = s.wave.idx ∧ t.wave.phase = .issue ∧ t.wave.icount = s.wave.icount) ∧
      (∀ a, Memory.get t.mem a = Memory.get s.mem a) ∧ (∀ g, t.gang g = s.gang g) ∧ (∀ k, k ≠ s.cur → t.waveAt k = s.waveAt k)

/-- R18, R255: with no lane taking part a form only advances; its registers stay full and nothing is sent. One that acquires leaves its acquire standing for the
next form of the memory class. -/
def Sys2Proof.Claim.MemoryFormWithNoLane : Prop :=
  ∀ (i : Instr) (m : MemForm) (s : State), memForm s i = some m → AtInstr s → MemReady s m → m.rs = [] →
    exec i s = .next (match m.op.acq with
      | none => done s m.op.len id
      | some sc => done { s with nextId := s.nextId + 1 } m.op.len fun w => { w with acqs := w.acqs ++ [(s.nextId, sc)] })

/-- R67, R81, R83, R463: a source of a form of the memory class under policy 1 that has an empty register raises EMPTY, before the form waits for anything
(the model's reading, log 21): the first such source in the order A, B, C, D, and its first empty register; TINFO names it. Nothing is sent. Under policy 0 the wave waits. -/
def Sys2Proof.Claim.EmptyMemorySourceTraps : Prop :=
  ∀ (i : Instr) (m : MemForm) (s : State), memForm s i = some m → AtInstr s → m.legal = true → s.wave.waiting = none →
    (∀ n ∈ m.ss, n < s.wave.sregN) → (∀ n ∈ m.vs, n < s.wave.vregN) →
    let full (vec : Bool) (n : Nat) : Bool := if vec then s.wave.vFull n else s.wave.sFull n
    (∀ (pre post : List (Nat × Bool × List Nat)) (slot n : Nat) (vec : Bool) (l r : List Nat), m.srcs = pre ++ (slot, vec, l ++ n :: r) :: post →
      m.x.fe.testBit slot = true → (∀ p ∈ pre, m.x.fe.testBit p.1 = true → ∀ k ∈ p.2.2, full p.2.1 k = true) → (∀ k ∈ l, full vec k = true) →
      full vec n = false →
      let info : Word := BitVec.ofNat 64 (n + (if vec then 256 else 0) + 512 * slot)
      exec i s = .next (s.trap Code.empty info) ∨ ∃ ro, exec i s = .next ({ s with ro := ro }.trap Code.empty info)) ∧
    (m.x.fe = 0 → ((∃ n ∈ m.ss, s.wave.sFull n = false) ∨ (∃ n ∈ m.vs, s.wave.vFull n = false)) →
      exec i s = .next s.block ∨ ∃ ro, exec i s = .next { s with ro := ro }.block)

/-- R245: what the accesses of a form are. An aligned element of a local page is one access at the physical address that the page
gives, with the element's width, in the order of the elements. -/
def Sys2Proof.Claim.AlignedElementIsOneAccess : Prop :=
  ∀ (s : State) (asid : BitVec 16) (r : Req) (rs : List Req) (pte : Word) (span : Nat), r.va % r.w = 0 → s.trans asid r.va = .ok pte span →
    pteRmt pte = false →
    (s.split asid [r]).1 = [⟨.phys (ptePa pte span r.va), r.va, pteExpz pte, pteMt pte == 0, r.kind 0 r.w 0, none⟩] ∧ (s.split asid [r]).2 = [] ∧
      (s.split asid (rs ++ [r])).1.length = (s.split asid rs).1.length + 1

/-- R244: an atomic, a reduction, a counter add, and a load or store that acquires or releases, at an address that is not a multiple of its
width raises ALIGN where no other fault is met; nothing is sent. -/
def Sys2Proof.Claim.MisalignedAccessTraps : Prop :=
  ∀ (i : Instr) (m : MemForm) (s : State) (r : Req), memForm s i = some m → AtInstr s → MemReady s m → m.rs = [r] → m.align = true →
    r.va % r.w ≠ 0 → s.checkRanges s.myGang.asid m.need [(r.va, r.w, 1)] = .ok →
    exec i s = .next (s.trap Code.align (faultInfo r.va m.need.writes)) ∨
      ∃ ro, exec i s = .next ({ s with ro := ro }.trap Code.align (faultInfo r.va m.need.writes))

/-- R237, R349, R400, R401, R442, R452: an access to a page without the rights that it needs raises PERM_FAULT; `col.send` learns of a local page that it may
not write elsewhere. On an RMT page, only plain loads and stores, `col.send` and the transfers of the fabric go on, and only to a member of the pod; the
fabric's own transfers need an RMT page, an atomic a page that is not MT 1, an engine one in HBM4. That a counter add goes on with W alone, and on
MT 1 pages, is the model's reading (log 89). -/
def Sys2Proof.Claim.ForbiddenPageTraps : Prop :=
  ∀ (s : State) (asid : BitVec 16) (k : Need) (va : Nat) (pte : Word) (span : Nat), s.trans asid va = .ok pte span →
    ((k.reads = true ∧ pteR pte = false) ∨ (k.writes = true ∧ pteW pte = false ∧ (k ≠ .colSend ∨ pteRmt pte = true)) →
      s.pageRes asid k va = .fault Code.permFault none) ∧
    ((k.reads = true → pteR pte = true) → (k.writes = true → pteW pte = true) →
      (pteRmt pte = true → k ∉ [.load, .store, .colSend, .rmtRead, .rmtWrite] → s.pageRes asid k va = .fault Code.permFault none) ∧
      (pteRmt pte = true → k ∈ [.load, .store, .colSend, .rmtRead, .rmtWrite] →
        (s.isMember (pteDev pte) = true → s.pageRes asid k va = .remote pte span) ∧
        (s.isMember (pteDev pte) = false → ∃ info, s.pageRes asid k va = .fault Code.fabNotMember (some info) ∧ info.toNat % 2 ^ 16 = (pteDev pte).toNat)) ∧
      (pteRmt pte = false → k ∈ [.rmtRead, .rmtWrite] → s.pageRes asid k va = .fault Code.permFault none) ∧
      (pteRmt pte = false → k = .atomic → pteMt pte = 1 → s.pageRes asid k va = .fault Code.permFault none) ∧
      (pteRmt pte = false → k ∈ [.engRead, .engWrite, .engBoth] → hostBase ≤ ptePa pte span va → s.pageRes asid k va = .fault Code.permFault none) ∧
      (pteRmt pte = false → k ∈ [.load, .roLoad, .store, .counter, .blockRead, .colSend] ∨ (k = .atomic ∧ pteMt pte ≠ 1) ∨
          (k ∈ [.engRead, .engWrite, .engBoth] ∧ ptePa pte span va < hostBase) → s.pageRes asid k va = .here pte span))

/-- R237, R244, R245, R349, R400, R401: aligned, misaligned and forbidden addresses. The rights that a counter add needs, and what an MT 1 page refuses it, are log 89, the model's reading. -/
def Obligations.AddressesOfAnAccess : Prop := Sys2Proof.Claim.AlignedElementIsOneAccess ∧ Sys2Proof.Claim.MisalignedAccessTraps ∧ Sys2Proof.Claim.ForbiddenPageTraps

/-- R42, R255, R396, R401, R404, R405, R409, R411 to R413: a load or store of one element that lies in one 64-byte block of a remote page. A store becomes one
piece, numbered next toward its target (the count of pieces by which duplicates are told is the model's, log 66), which carries its bytes; it goes to the network while the target's allowance lasts and into a spill slot beyond it,
and with no slot left the instruction traps. A load becomes one read request for its bytes. Both wait while an outcome is pending, and the wave goes on behind
them. -/
def Sys2Proof.Claim.RemoteFormsIssue : Prop :=
  ∀ (i : Instr) (m : MemForm) (s : State) (r : Req) (pte : Word) (span : Nat), memForm s i = some m → AtInstr s → MemReady s m → Passes s m →
    (m.need = .load ∨ m.need = .store) → m.rs = [r] → 0 < r.w → s.trans s.myGang.asid r.va = .ok pte span → pteRmt pte = true →
    (ptePa pte span r.va) % 64 + r.w ≤ 64 → r.va % 2 ^ 18 + r.w ≤ 2 ^ 18 → (m.x.rel = true → s.genDone s.cur m.x.scope = true) →
    (m.op.tracker = true → s.trackerRoom s.wave.core = true) →
    let pa := ptePa pte span r.va
    let dev := pteDev pte
    let n := s.seqNos.get 0 dev.toNat + 1
    let bytes := (List.range r.w).map fun j => (pa + j, nth 0 (match r.act with
      | .write bs => bs
      | _ => []) j)
    let piece : Piece := ⟨s.devid, dev, s.step.stepno, n, pa / 64 * 64, bytes, none, waveWaiter s.cur⟩
    (s.outcomePending = true → exec i s = .next s.block) ∧
    (s.outcomePending = false → m.op.tracker = true →
      (0 < s.allowLeft dev → ∃ t o, exec i s = .next t ∧ t.ops = s.ops ++ [o] ∧ o.acc = [] ∧ o.pieces = [(dev, n)] ∧ o.tracker = true ∧
        t.netOut = s.netOut ++ [.piece piece] ∧ t.seqNos.get 0 dev.toNat = n ∧ t.allowance.get 0 dev.toNat = s.allowance.get 0 dev.toNat + 1 ∧
        t.wave = behind s.wave m s.nextId ∧ ∀ a, Memory.get t.mem a = Memory.get s.mem a) ∧
      (s.allowLeft dev = 0 → 0 < s.spillFree → ∃ t o x, exec i s = .next t ∧ t.ops = s.ops ++ [o] ∧ o.acc = [] ∧ o.pieces = [] ∧
        t.sent = s.sent ++ [x] ∧ x.piece = piece ∧ x.spilled = true ∧ t.seqNos.get 0 dev.toNat = n ∧
        t.allowance = s.allowance ∧ (∀ p, Packet.piece p ∈ t.netOut → Packet.piece p ∈ s.netOut) ∧ t.wave = behind s.wave m s.nextId) ∧
      (s.allowLeft dev = 0 → s.spillFree = 0 → exec i s = .next (s.trap Code.stepSpillFull (dev.setWidth 64)))) ∧
    (s.outcomePending = false → m.op.tracker = false → ∃ t o q, exec i s = .next t ∧ t.ops = s.ops ++ [o] ∧ o.acc = [] ∧ o.reads = [q.id] ∧
      o.fill = m.op.fill ∧ t.netOut = s.netOut ++ [.readReq q] ∧ q.src = s.devid ∧ q.dst = dev ∧ q.pa = pa ∧ q.len = r.w ∧ q.step = s.step.stepno ∧
      t.reads = s.reads ++ [(q, (List.range r.w).map fun j => (pa + j, j))] ∧ (∀ a, Memory.get t.mem a = Memory.get s.mem a))

/-- R221, R246, R277: a load of one aligned element whose line the core's L1 holds takes its bytes from there and needs no access, or, where the L1 has given
the line up, drops it and goes to the home slice; a line that an earlier access of the core has still to reach is not used, nor a byte that a `kemit` of the wave
may still store a record over, nor any line by a load that acquires at `.quad` or wider. -/
def Sys2Proof.Claim.LoadServedByL1 : Prop :=
  ∀ (i : Instr) (m : MemForm) (s : State) (r : Req) (pte : Word) (span : Nat) (l : Line), memForm s i = some m → AtInstr s → MemReady s m → Passes s m →
    m.need = .load → m.rs = [r] → r.w ∣ 128 → r.va % r.w = 0 → s.trans s.myGang.asid r.va = .ok pte span → pteRmt pte = false → pteMt pte = 0 →
    (m.x.rel = true → s.genDone s.cur m.x.scope = true) →
    let pa := ptePa pte span r.va
    s.l1.find? (fun x => x.core == s.wave.core && x.line == pa / 128) = some l →
    ∃ t o, exec i s = .next t ∧ t.ops = s.ops ++ [o] ∧ o.fill = m.op.fill ∧ t.wave = behind s.wave m s.nextId ∧
      (((∃ sc, m.op.acq = some sc ∧ 2 ≤ sc) ∨ (∃ o ∈ s.ops, o.core = s.wave.core ∧ ∃ a ∈ o.acc, ∃ p dst n, a.at_ = .phys p ∧ a.kind = .read dst n ∧ p / 128 = pa / 128) ∨
          s.emitOver s.cur s.nextId pa = true) →
        o.acc = (s.split s.myGang.asid [r]).1 ∧ t.l1 = s.l1) ∧
      ((∀ sc, m.op.acq = some sc → sc < 2) → (∀ o ∈ s.ops, o.core = s.wave.core → ∀ a ∈ o.acc, ∀ p, a.at_ = .phys p → p / 128 ≠ pa / 128) →
          s.emitOver s.cur s.nextId pa = false →
        (o.acc = [] ∧ t.l1 = s.l1 ∧ ∀ k, k < r.w → o.res.find k = some (nth 0 l.bytes (pa % 128 + k))) ∨
        (o.acc = (s.split s.myGang.asid [r]).1 ∧ t.l1 = s.l1.filter fun x => !(x.core == s.wave.core && x.line == pa / 128)))

/-- R252: `vsts` stores each lane twice, at row i of the tile at T, the 4 KiB below its address, and transposed 4 KiB above; a row address
that is not a multiple of 128, or a row beyond 31, raises ALIGN. -/
def Sys2Proof.Claim.StashStoreIssues : Prop :=
  ∀ (d : BitVec 8) (a : BitVec 7) (off : BitVec 9) (l : ML) (s : State), AtInstr s → s.wave.acqs = [] → s.wave.waiting = none →
    let one (i : Instr) (x : MArgs) : Prop :=
      let b := (s.wave.sreg a.toNat + 128 * off.signExtend 64).toNat
      let t := b / 4096 * 4096
      let row := b % 4096 / 128
      SFull s.wave [a.toNat] → VFull s.wave (block x d.toNat) → x.scope ≤ 4 →
      (b % 128 ≠ 0 → exec i s = .next (s.trap Code.align (faultInfo b true))) ∧
      (b % 128 = 0 → 32 ≤ row + 16 * (x.h - 1) + (x.w - 1) → ∃ at_, exec i s = .next (s.trap Code.align (faultInfo at_ true))) ∧
      (b % 128 = 0 → x.h = 1 → x.w = 1 → x.rel = false → x.acq = false → s.trackerRoom s.wave.core = true →
        (∃ k, k < 32 ∧ s.wave.takes x.pred k = true) →
        (∀ n, n < 8192 → ∃ pte span, s.trans s.myGang.asid (t + n) = .ok pte span ∧ pteW pte = true ∧ pteRmt pte = false) →
        s.checkRanges s.myGang.asid .store [(t, 8192, 1)] = .ok →
        ∃ u o, exec i s = .next u ∧ u.ops = s.ops ++ [o] ∧ u.wave = s.wave.retire x.len ∧ o.tracker = true ∧
          ∀ k, k < 32 → s.wave.takes x.pred k = true →
            (∃ c ∈ o.acc, c.va = t + 128 * row + 4 * k ∧ c.kind = .write (toBytes 4 (s.wave.lane d.toNat k).toNat)) ∧
            (∃ c ∈ o.acc, c.va = t + 4096 + 128 * k + 4 * row ∧ c.kind = .write (toBytes 4 (s.wave.lane d.toNat k).toNat)))
    one (.vsts d a off) s.wave.memCompact ∧ one (.vstsLong d a off l) (memLong l)

/-- R18, R42, R67, R80, R81, R221, R243, R245 to R260, R277, R396, R404, R409, R411 to R413: the issue of a form of the memory class, with and without lanes, on local and on remote pages, from the L1, and with an empty source; and the two copies that `vsts` stores. That EMPTY comes before every other wait is log 21, and the numbers by which duplicate pieces are told log 66: the model's choices. -/
def Obligations.MemoryFormsLeaveTheirOperation : Prop := Sys2Proof.Claim.MemoryFormsIssue ∧ Sys2Proof.Claim.MemoryFormWithNoLane ∧ Sys2Proof.Claim.EmptyMemorySourceTraps ∧ Sys2Proof.Claim.RemoteFormsIssue ∧ Sys2Proof.Claim.LoadServedByL1 ∧ Sys2Proof.Claim.StashStoreIssues

namespace Sys2Proof.Claim

/-- A gang whose allocation an access to a lateral vault address of gang `g` may reach (R215): of the same launch, with the number that the address names, on the
same die, resident, with an allocation. -/
def Reaches (s : State) (g : Nat) (a : Word) (x : Nat × Gang) : Prop :=
  x.2.launch = (s.gang g).launch ∧ x.2.gangid.toNat = (a.extractLsb' 24 32).toNat ∧ x.2.die = (s.gang g).die ∧
    (x.2.status = .resident ∨ x.2.status = .saving) ∧ x.2.vaultSize ≠ 0

/-- The word offset of a vault address (R213). -/
def vaultOff (a : Word) : Nat := a.toNat % 2 ^ 24 / 4 * 4

end Sys2Proof.Claim

/-- R213 to R216: where a vault address lies. An address of the gang's own space is the word at its offset modulo its allocation; a lateral one lies in the
allocation of the gang it names, under the grants of the launch; anything else is ungranted. -/
def Sys2Proof.Claim.VaultAddresses : Prop :=
  ∀ (s : State) (g : Nat) (write : Bool) (a : Word),
    (a.getLsbD 63 = false → (s.gang g).vaultSize ≠ 0 → s.vaultAt g write a = .vault g (vaultOff a % (s.gang g).vaultSize)) ∧
    ((s.gang g).vaultSize = 0 → s.vaultAt g write a = .ungranted) ∧
    (a.getLsbD 63 = true → (s.launch (s.gang g).launch).grants.testBit (if write then 1 else 0) = false → s.vaultAt g write a = .ungranted) ∧
    (a.getLsbD 63 = true → (∀ x ∈ s.gangs, ¬ Reaches s g a x) → s.vaultAt g write a = .ungranted) ∧
    (∀ x ∈ s.gangs, a.getLsbD 63 = true → (s.gang g).vaultSize ≠ 0 → (s.launch (s.gang g).launch).grants.testBit (if write then 1 else 0) = true → Reaches s g a x →
      (∀ y ∈ s.gangs, Reaches s g a y → y = x) → s.vaultAt g write a = .vault x.1 (vaultOff a % x.2.vaultSize))

/-- R213 to R217, R251, R255: the vault forms. Each element is one access, at the place that its address names; an ungranted one sets `VSTAT` bit 0 and raises
no trap. A load's registers empty, a store takes a tracker entry; with no lane a form only advances. -/
def Sys2Proof.Claim.VaultFormsIssue : Prop :=
  ∀ (d : BitVec 8) (a : BitVec 7) (off : BitVec 9) (sc : Bool) (xr : BitVec 8) (l : ML) (s : State), AtInstr s → s.wave.acqs = [] →
    s.wave.waiting = none → s.trackerRoom s.wave.core = true →
    let one (i : Instr) (x : MArgs) (store : Bool) (xs : List Nat) (va : VAddr) : Prop :=
      let rs := elements s.wave x va (fun _ _ => false) fun r c k => if store then .write (toBytes 4 (s.wave.lane (blockReg d.toNat r c) k).toNat) else .read
      let place (r : Req) : Place := s.vaultAt s.wave.gang store (BitVec.ofNat 64 r.va)
      SFull s.wave [a.toNat] → VFull s.wave (xs ++ block x d.toNat) → x.scope ≤ 4 → (store = false → x.rel = true → s.genDone s.cur x.scope = true) →
      (rs = [] → exec i s = .next (match acqOf x with
        | none => done s x.len id
        | some sc => done { s with nextId := s.nextId + 1 } x.len fun w => { w with acqs := w.acqs ++ [(s.nextId, sc)] })) ∧
      (rs ≠ [] → ∃ t o, exec i s = .next t ∧ t.ops = s.ops ++ [o] ∧ o.tracker = store ∧ o.acc.length = rs.length ∧
        (∀ k, k < rs.length → ∀ r, rs[k]? = some r → ∃ c, o.acc[k]? = some c ∧ c.at_ = place r ∧
          c.kind = (match r.act with
            | .write bs => .write bs
            | _ => .read (4 * k) 4)) ∧
        o.acq = acqOf x ∧ (store = true → o.rel = relOf x ∧ o.fill = .none) ∧ (store = false → o.fill = vfill x d 4 false rs) ∧
        t.wave = (let w := s.wave
          let w := if rs.any (fun r => place r == .ungranted) then { w with vstat := w.vstat ||| 1 } else w
          let w := w.emptyFor o.fill
          Wave.retire { w with acqs := match acqOf x with
            | none => w.acqs
            | some sc => w.acqs ++ [(s.nextId, sc)] } x.len) ∧ (∀ g, t.gang g = s.gang g))
    one (.vldv d a off) s.wave.memCompact false [] (blockAt a off) ∧ one (.vldvLong d a off l) (memLong l) false [] (blockAt a off) ∧
    one (.vstv d a off) s.wave.memCompact true [] (blockAt a off) ∧ one (.vstvLong d a off l) (memLong l) true [] (blockAt a off) ∧
    one (.vldvx d a sc xr) s.wave.memCompact false (block s.wave.memCompact xr.toNat) (indexAt a sc xr 4) ∧
    one (.vldvxLong d a sc xr l) (memLong l) false (block (memLong l) xr.toNat) (indexAt a sc xr 4) ∧
    one (.vstvx d a sc xr) s.wave.memCompact true (block s.wave.memCompact xr.toNat) (indexAt a sc xr 4) ∧
    one (.vstvxLong d a sc xr l) (memLong l) true (block (memLong l) xr.toNat) (indexAt a sc xr 4)

/-! Performing accesses, and the ends of operations -/

namespace Sys2Proof.Claim

/-- Nothing is under way that a program's store could spoil: no running sort or gather (R298, R361), and no reserving loop (R314). -/
def NothingToSpoil (s : State) : Prop :=
  (∀ c ∈ s.cmds, c.status ≠ .running) ∧ ∀ x ∈ s.launches, x.2.kernel.mode ≠ 1

/-- The channel of a physical address. -/
def chanOf (pa : Nat) : Nat := Acc.chan ⟨.phys pa, 0, false, false, .read 0 0, none⟩

/-- An operation in flight whose accesses all stand in one channel, which can perform them now, none of them parked; no line fails. -/
def MayReach (s : State) (o : MemOp) (pa : Nat) : Prop :=
  s.opAt o.id = some o ∧ (∀ q ∈ s.ops, q.id = o.id → q = o) ∧ (∀ a ∈ o.acc, a.at_ = .phys pa ∧ a.parked = none) ∧
    s.canPerform o.id (chanOf pa) = true ∧ s.bad = [] ∧ NothingToSpoil s

/-- Nothing at the line of a physical address waits to be combined with it. -/
def PlainLine (s : State) (pa : Nat) : Prop :=
  (∀ r ∈ s.reduce, r.line ≠ pa / 128) ∧ (∀ r ∈ s.flushQ, r.line ≠ pa / 128) ∧ (∀ r ∈ s.shadow, r.line ≠ pa / 128)

/-- Both, and no watchpoint is armed. -/
def MayPerform (s : State) (o : MemOp) (pa : Nat) : Prop := MayReach s o pa ∧ PlainLine s pa ∧ s.watch = []

end Sys2Proof.Claim

/-- R224, R254, R271: when the home slice performs the store of an operation, exactly its bytes of memory change. -/
def Sys2Proof.Claim.StoreReachesMemory : Prop :=
  ∀ (s : State) (o : MemOp) (pa va : Nat) (cached : Bool) (bs : List Byte), o.acc = [⟨.phys pa, va, false, cached, .write bs, none⟩] → MayPerform s o pa →
    Memory.wf s.mem = true → pa % 128 + bs.length ≤ 128 →
    ∃ t, act (.perform o.id (chanOf pa)) s = .next t ∧ (∀ k, k < bs.length → Memory.get t.mem (pa + k) = nth 0 bs k) ∧
      (∀ a, (a < pa ∨ pa + bs.length ≤ a) → Memory.get t.mem a = Memory.get s.mem a) ∧
      (∃ q ∈ t.ops, q.id = o.id ∧ q.acc = []) ∧ (∀ g, t.gang g = s.gang g) ∧ (∀ k, t.waveAt k = s.waveAt k)

/-- R254, R271: when it performs a load, the operation gets the bytes that memory holds, and memory does not change. -/
def Sys2Proof.Claim.LoadReadsMemory : Prop :=
  ∀ (s : State) (o : MemOp) (pa va dst n : Nat) (cached : Bool), o.acc = [⟨.phys pa, va, false, cached, .read dst n, none⟩] → MayPerform s o pa →
    o.path = .gen →
    ∃ t, act (.perform o.id (chanOf pa)) s = .next t ∧ (∀ a, Memory.get t.mem a = Memory.get s.mem a) ∧
      ∃ q ∈ t.ops, q.id = o.id ∧ q.acc = [] ∧ q.fill = o.fill ∧ ∀ k, k < n → q.res.find (dst + k) = some (Memory.get s.mem (pa + k))

/-- R224, R254, R271: memory holds what was last stored, through its byte operations and through the home slice. -/
def Obligations.MemoryReadsBackStores : Prop := Sys2Proof.Claim.StoreThenLoadByte ∧ Sys2Proof.Claim.StoreReachesMemory ∧ Sys2Proof.Claim.LoadReadsMemory

/-- R253, R254, R256, R258: an atomic or an integer reduction reads its word, stores what its table gives, and returns the old word;
between the read and the store nothing else comes. -/
def Sys2Proof.Claim.AtomicIsIndivisible : Prop :=
  ∀ (s : State) (o : MemOp) (pa va n dst : Nat) (cached : Bool) (op : Rmw) (x : Word), o.acc = [⟨.phys pa, va, false, cached, .rmw op x n dst, none⟩] →
    MayPerform s o pa → (n = 4 ∨ n = 8) → pa % n = 0 → op ≠ .redFadd → (∀ f, op ≠ .shadow f) →
    (op = .seqAdd → n = 8) → Memory.wf s.mem = true →
    let old := fromBytes (Memory.read s.mem pa n)
    ∃ t, act (.perform o.id (chanOf pa)) s = .next t ∧
      fromBytes (Memory.read t.mem pa n) = op.apply n (BitVec.ofNat 64 old) x ∧
      (∀ a, (a < pa ∨ pa + n ≤ a) → Memory.get t.mem a = Memory.get s.mem a) ∧
      ∃ q ∈ t.ops, q.id = o.id ∧ q.acc = [] ∧ ∀ k, k < n → q.res.find (dst + k) = some (Memory.get s.mem (pa + k))

/-- R253, R256, R258, R260: what an atomic stores, for words of 32 and 64 bits, as bit-vector arithmetic; the floating forms are the FP32 addition and the
minimum and maximum of R178, whose NaN rules and ties are written out. -/
def Sys2Proof.Claim.AtomicResults : Prop :=
  (∀ m x y : Word, Rmw.add.apply 8 m x = (m + x).toNat ∧ Rmw.and.apply 8 m x = (m &&& x).toNat ∧ Rmw.or.apply 8 m x = (m ||| x).toNat ∧
    Rmw.xor.apply 8 m x = (m ^^^ x).toNat ∧ Rmw.xchg.apply 8 m x = x.toNat ∧ (Rmw.cas y).apply 8 m x = (if m = x then y else m).toNat ∧
    Rmw.minU.apply 8 m x = (if m ≤ x then m else x).toNat ∧ Rmw.maxU.apply 8 m x = (if m ≤ x then x else m).toNat ∧
    Rmw.minS.apply 8 m x = (if m.sle x then m else x).toNat ∧ Rmw.maxS.apply 8 m x = (if m.sle x then x else m).toNat ∧
    Rmw.seqAdd.apply 8 m x = min (m.toNat + x.toNat) (2 ^ 64 - 1)) ∧
  (∀ (m x : Word) (y : Word), let p : Lane := m.setWidth 32; let q : Lane := x.setWidth 32
    Rmw.add.apply 4 m x = (p + q).toNat ∧ Rmw.and.apply 4 m x = (p &&& q).toNat ∧ Rmw.or.apply 4 m x = (p ||| q).toNat ∧
    Rmw.xor.apply 4 m x = (p ^^^ q).toNat ∧ Rmw.xchg.apply 4 m x = q.toNat ∧ (Rmw.cas y).apply 4 m x = (if p = q then y.setWidth 32 else p).toNat ∧
    Rmw.minS.apply 4 m x = (if p.sle q then p else q).toNat ∧ Rmw.maxS.apply 4 m x = (if p.sle q then q else p).toNat ∧
    Rmw.minU.apply 4 m x = (if p ≤ q then p else q).toNat ∧ Rmw.maxU.apply 4 m x = (if p ≤ q then q else p).toNat ∧
    Rmw.fadd.apply 4 m x = (f32add p q).toNat ∧
    let nan (z : Lane) : Prop := (z &&& 0x7fffffff) > 0x7f800000
    let zero (z : Lane) : Prop := (z &&& 0x7fffffff) = 0
    let below (u v : Lane) : Prop := ((fp32.decode u.toNat).cmp (fp32.decode v.toNat) == some .lt) = true
    (nan p → nan q → Rmw.fmin.apply 4 m x = 0x7fc00000 ∧ Rmw.fmax.apply 4 m x = 0x7fc00000) ∧
    (nan p → ¬ nan q → Rmw.fmin.apply 4 m x = q.toNat ∧ Rmw.fmax.apply 4 m x = q.toNat) ∧
    (¬ nan p → nan q → Rmw.fmin.apply 4 m x = p.toNat ∧ Rmw.fmax.apply 4 m x = p.toNat) ∧
    (¬ nan p → ¬ nan q → below p q → Rmw.fmin.apply 4 m x = p.toNat ∧ Rmw.fmax.apply 4 m x = q.toNat) ∧
    (¬ nan p → ¬ nan q → below q p → Rmw.fmin.apply 4 m x = q.toNat ∧ Rmw.fmax.apply 4 m x = p.toNat) ∧
    (zero p → zero q → Rmw.fmin.apply 4 m x = (p ||| q).toNat ∧ Rmw.fmax.apply 4 m x = (p &&& q).toNat))

/-- R226: an FP32 add reduction at its home slice. The first addition to a word of a REDUCE line stands as it is, each later one is an FP32 addition; a line that
is not open, on a die that has room for it, opens with that word alone, and leaves the L2 for HBM4 first. Memory does not change, and the operation is
performed. -/
def Sys2Proof.Claim.FloatSumsAtTheHomeSlice : Prop :=
  ∀ (s : State) (o : MemOp) (pa va dst n : Nat) (expz cached : Bool) (x : Word), o.acc = [⟨.phys pa, va, expz, cached, .rmw .redFadd x n dst, none⟩] →
    MayReach s o pa → s.watch = [] → (∀ h ∈ s.shadow, h.line ≠ pa / 128) →
    let k := pa % 128 / 4
    let on (u : State) := u.reduce.filter fun r => r.line == pa / 128
    let y : Lane := x.setWidth 32
    (∀ r, on s = [r] → ∃ t q, act (.perform o.id (chanOf pa)) s = .next t ∧ on t = [q] ∧
      q.sums.find k = some (match r.sums.find k with
        | none => y
        | some p => f32add p y) ∧
      (∀ j, j ≠ k → q.sums.find j = r.sums.find j) ∧ o.wave ∈ q.waves ∧ o.launch ∈ q.launches ∧ t.mem = s.mem ∧ ∃ p ∈ t.ops, p.id = o.id ∧ p.acc = []) ∧
    (on s = [] → s.reduceVictim (pa / 128) = none → ∃ t q, act (.perform o.id (chanOf pa)) s = .next t ∧ on t = [q] ∧ q.sums.find k = some y ∧
      (∀ j, j ≠ k → q.sums.find j = none) ∧ q.waves = [o.wave] ∧ (∀ d ∈ t.dirty, d.line ≠ pa / 128) ∧ t.mem = s.mem ∧ ∃ p ∈ t.ops, p.id = o.id ∧ p.acc = [])

/-- R227, R228: the memory controller applies a flush: every word that was touched takes one FP32 addition of its sum, and no other byte changes; a line that fails
is marked poisoned and recorded, and takes none. -/
def Sys2Proof.Claim.FlushAddsItsSums : Prop :=
  ∀ (s : State) (r : ReduceLine), s.flushQ.find? (fun q => q.line == r.line) = some r → s.watch = [] → Memory.wf s.mem = true →
    (r.sums.map (·.1)).Nodup → (∀ w ∈ r.sums, w.1 < 32) →
    let word (u : State) (w : Nat) : Lane := BitVec.ofNat 32 (fromBytes (Memory.read u.mem (128 * r.line + 4 * w) 4))
    (s.bad.find r.line = none → ∃ t, exec (.reduceFlushApply r.line) s = .next t ∧ t.flushQ = s.flushQ.erase r ∧
      (∀ w, w < 32 → word t w = match r.sums.find w with
        | some p => f32add (word s w) p
        | none => word s w) ∧
      (∀ a, (a < 128 * r.line ∨ 128 * r.line + 128 ≤ a) → Memory.get t.mem a = Memory.get s.mem a)) ∧
    (∀ code, s.bad.find r.line = some code → s.hr.service = 0 → ∃ t, exec (.reduceFlushApply r.line) s = .next t ∧ t.flushQ = s.flushQ.erase r ∧
      t.mem = s.mem ∧ t.bad.find r.line = some Code.poison ∧ t.hr.memerrpa = BitVec.ofNat 64 (128 * r.line) ∧ t.hr.memerrn = s.hr.memerrn + 1 ∧
      t.hr.evstat.getLsbD 11 = true)

/-- R141, R229, R230: an add reduction to a BF16 or binary8 element. It opens an FP32 shadow of its line, every element widened exactly, or finds one of its format,
and adds to its element there; memory does not change. A shadow of another format is rounded into memory first, each element to its storage format. -/
def Sys2Proof.Claim.ShadowsAtTheHomeSlice : Prop :=
  ∀ (s : State) (o : MemOp) (pa va dst n : Nat) (cached : Bool) (fmt : BitVec 8) (x : Word),
    o.acc = [⟨.phys pa, va, false, cached, .rmw (.shadow fmt) x n dst, none⟩] → MayReach s o pa → s.watch = [] → Memory.wf s.mem = true →
    (∀ r ∈ s.reduce, r.line ≠ pa / 128) → (∀ r ∈ s.flushQ, r.line ≠ pa / 128) →
    let f := shadowFmt fmt
    let w := f.width / 8
    let i := pa % 128 / w
    let on (u : State) := u.shadow.filter fun h => h.line == pa / 128
    let code (u : State) (g : FFmt) (j : Nat) : Nat := fromBytes (Memory.read u.mem (128 * (pa / 128) + g.width / 8 * j) (g.width / 8))
    (on s = [] → ∃ t h, act (.perform o.id (chanOf pa)) s = .next t ∧ on t = [h] ∧ h.fmt = fmt ∧ t.mem = s.mem ∧ h.elems.length = 128 / w ∧
      ∀ j, j < 128 / w → nth 0 h.elems j = (let y := toF32 0 (f.decode (code s f j))
        if j = i then f32add y (x.setWidth 32) else y)) ∧
    (∀ h, on s = [h] → h.fmt = fmt → i < h.elems.length → ∃ t q, act (.perform o.id (chanOf pa)) s = .next t ∧ on t = [q] ∧ t.mem = s.mem ∧
      q.elems.length = h.elems.length ∧ ∀ j, nth 0 q.elems j = if j = i then f32add (nth 0 h.elems j) (x.setWidth 32) else nth 0 h.elems j) ∧
    (∀ h, on s = [h] → h.fmt ≠ fmt → let g := shadowFmt h.fmt
      h.elems.length = 128 / (g.width / 8) → ∃ t q, act (.perform o.id (chanOf pa)) s = .next t ∧ on t = [q] ∧ q.fmt = fmt ∧
        (∀ j, j < h.elems.length → code t g j = g.deliver 0 false (f32 (nth 0 h.elems j))) ∧
        (∀ a, (a < 128 * (pa / 128) ∨ 128 * (pa / 128) + 128 ≤ a) → Memory.get t.mem a = Memory.get s.mem a))

/-- R141, R226 to R230: FP32 sums, their flush, and the FP32 shadows of narrow elements. -/
def Obligations.FloatReductionsAtTheHomeSlice : Prop := Sys2Proof.Claim.FloatSumsAtTheHomeSlice ∧ Sys2Proof.Claim.FlushAddsItsSums ∧ Sys2Proof.Claim.ShadowsAtTheHomeSlice

/-- R260, R327, R328: a counter add is over: each launch that waits on that counter reads it again, and no other counter; with all of its counters at their
thresholds it is ready. -/
def Sys2Proof.Claim.CounterAddsMakeReady : Prop :=
  ∀ (s : State) (o : MemOp) (pa l : Nat) (x : Launch), s.opAt o.id = some o → o.tracker = true → o.atomic = false → o.complete = true → o.seqctr = some pa →
    o.bad = none → o.expzFull = false → o.denied = false → s.launches = [(l, x)] → x.status = .waiting → x.seen.length = x.ready.length →
    let at_ (r : Word × Word) : Bool := match s.transNow x.asid r.1.toNat with
      | .ok (p, n) => ptePa p n r.1.toNat == pa
      | .error _ => false
    let seen := (List.zip x.ready x.seen).map fun r => if at_ r.1 then decide (r.1.2.toNat ≤ fromBytes (Memory.read s.mem pa 8)) else r.2
    ∃ t, exec (.trackerAck o.id) s = .next t ∧ (∀ q ∈ t.ops, q.id ≠ o.id) ∧
      (x.ready.any at_ = true → (t.launch l).seen = seen ∧ (seen.all id = true → (t.launch l).status ≠ .waiting) ∧
        (seen.all id = false → (t.launch l).status = .waiting)) ∧
      (x.ready.any at_ = false → t.launch l = x)

/-- R335, R336: a store of an aligned word under one watchpoint. It fires where the new word matches and lies in its range, once for an operation: its launch record
is to be submitted, behind what its wave issued before; with ONESHOT it disarms; with 16 submissions queued it sets OVERFLOW and its event instead. -/
def Sys2Proof.Claim.WatchpointsFire : Prop :=
  ∀ (s : State) (o : MemOp) (pa va h : Nat) (cached : Bool) (v : Word) (w : Watch),
    o.acc = [⟨.phys pa, va, false, cached, .write (toBytes 8 v.toNat), none⟩] → MayReach s o pa → PlainLine s pa → s.watch = [(h, w)] →
    Memory.wf s.mem = true → pa % 8 = 0 →
    let hit := w.armed = true ∧ w.pa ≤ pa ∧ pa + 8 ≤ w.pa + w.len ∧ (v &&& w.m) = (w.v &&& w.m) ∧ h ∉ o.fired
    ∃ t, act (.perform o.id (chanOf pa)) s = .next t ∧ (∀ k, k < 8 → Memory.get t.mem (pa + k) = nth 0 (toBytes 8 v.toNat) k) ∧
      (¬ hit → t.watch = s.watch ∧ t.fires = s.fires) ∧
      (hit → w.queued < 16 → t.watch = [(h, { w with armed := !w.oneshot, queued := w.queued + 1 })] ∧
        ∃ behind, t.fires = s.fires ++ [⟨some h, w.lrec, w.asid, behind⟩] ∧
          ∀ q ∈ s.ops, q.wave = o.wave → q.path = .gen → q.id < o.id → q.doneAt 4 = false → q.id ∈ behind) ∧
      (hit → 16 ≤ w.queued → t.fires = s.fires ∧ t.watch = [(h, { w with armed := !w.oneshot, overflow := true })] ∧
        (w.overflow = false → t.hr.evstat.getLsbD 7 = true)) ∧
      ∃ q ∈ t.ops, q.id = o.id ∧ q.acc = [] ∧ (hit → h ∈ q.fired)

/-- R253, R254, R256, R258, R260, R328, R335, R336: an atomic at its home slice, what each one stores, a counter add and the launches that wait on it, and the watchpoint that a store fires. -/
def Obligations.AtomicsAreIndivisible : Prop := Sys2Proof.Claim.AtomicIsIndivisible ∧ Sys2Proof.Claim.AtomicResults ∧ Sys2Proof.Claim.CounterAddsMakeReady ∧ Sys2Proof.Claim.WatchpointsFire

/-- R214, R216, R217: a vault word is read and written where it lies; an ungranted one reads zero and takes no write. -/
def Sys2Proof.Claim.VaultAccessesPerform : Prop :=
  ∀ (s : State) (o : MemOp) (c : Acc), o.acc = [c] → c.parked = none → s.opAt o.id = some o → (∀ q ∈ s.ops, q.id = o.id → q = o) →
    s.canPerform o.id c.chan = true → s.badVault = [] → (∀ q ∈ s.cmds, q.status ≠ .running) →
    (∀ g off bs, c.at_ = .vault g off → c.kind = .write bs → Memory.wf (s.gang g).vault = true → ∃ t, act (.perform o.id c.chan) s = .next t ∧
      (∀ k, k < bs.length → Memory.get (t.gang g).vault (off + k) = nth 0 bs k) ∧
      (∀ a, (a < off ∨ off + bs.length ≤ a) → Memory.get (t.gang g).vault a = Memory.get (s.gang g).vault a) ∧
      (∀ j, j ≠ g → t.gang j = s.gang j) ∧ t.mem = s.mem) ∧
    (∀ g off dst n, c.at_ = .vault g off → c.kind = .read dst n → ∃ t, act (.perform o.id c.chan) s = .next t ∧ t.mem = s.mem ∧ (∀ j, t.gang j = s.gang j) ∧
      ∃ q ∈ t.ops, q.id = o.id ∧ q.acc = [] ∧ ∀ k, k < n → q.res.find (dst + k) = some (Memory.get (s.gang g).vault (off + k))) ∧
    (c.at_ = .ungranted → ∃ t, act (.perform o.id c.chan) s = .next t ∧ t.mem = s.mem ∧ (∀ j, t.gang j = s.gang j) ∧
      ∃ q ∈ t.ops, q.id = o.id ∧ q.acc = [] ∧ ∀ dst n, c.kind = .read dst n → ∀ k, k < n → q.res.find (dst + k) = some 0)

/-- R213 to R217, R251: the vault forms, where their addresses lie, and the words they read and write. -/
def Obligations.VaultForms : Prop := Sys2Proof.Claim.VaultFormsIssue ∧ Sys2Proof.Claim.VaultAddresses ∧ Sys2Proof.Claim.VaultAccessesPerform

/-- R80, R243, R247: when the data of a scalar load has come, its register holds the bytes, extended under the type's sign, and is full;
the operation is over. -/
def Sys2Proof.Claim.ScalarDataArrives : Prop :=
  ∀ (s : State) (o : MemOp) (d n : Nat) (sgn : Bool), s.opAt o.id = some o → o.fill = .scalar d n sgn → o.tracker = false → o.atomic = false →
    (s.waves.find o.wave).isSome = true → (s.gang o.gang).status = .resident → (s.waveAt o.wave).status = .live → o.bad = none → o.expzFull = false → o.denied = false →
    (∀ k, k < n → (o.res.find k).isSome = true) →
    ∃ t, exec (.loadDataArrive o.id) s = .next t ∧ (∀ q ∈ t.ops, q.id ≠ o.id) ∧ (t.waveAt o.wave).sFull d = true ∧
      (t.waveAt o.wave).sreg d = (let v := fromBytes ((List.range n).map fun k => (o.res.find k).getD 0)
        if sgn then BitVec.ofInt 64 (signed (8 * n) v) else BitVec.ofNat 64 (v % 2 ^ (8 * n))) ∧
      (∀ a, Memory.get t.mem a = Memory.get s.mem a)

/-- R243, R248: when the data of a vector load's last register has come, its lanes hold their elements and the others their value. -/
def Sys2Proof.Claim.VectorDataArrives : Prop :=
  ∀ (s : State) (o : MemOp) (e d : Nat) (lanes : List (Nat × Nat × Nat × Nat × Bool)), s.opAt o.id = some o → o.fill = .vector [(e, d)] lanes →
    o.tracker = false → o.atomic = false → o.acc = [] → o.reads = [] → o.pieces = [] → o.bad = none → o.expzFull = false → o.denied = false →
    (s.waves.find o.wave).isSome = true → (s.gang o.gang).status = .resident → (s.waveAt o.wave).status = .live →
    (∀ x ∈ lanes, x.1 = e ∧ ∀ k, k < x.2.2.2.1 → (o.res.find (x.2.2.1 + k)).isSome = true) →
    ∃ t, exec (.loadDataArrive o.id) s = .next t ∧ (∀ q ∈ t.ops, q.id ≠ o.id) ∧ (t.waveAt o.wave).vFull d = true ∧
      (∀ k, k < 32 → (∀ x ∈ lanes, x.2.1 ≠ k) → (t.waveAt o.wave).lane d k = (s.waveAt o.wave).lane d k) ∧
      (∀ k off n sgn, k < 32 → lanes.find? (fun x => x.2.1 == k) = some (e, k, off, n, sgn) →
        (t.waveAt o.wave).lane d k = (o.value off n sgn).setWidth 32)

/-- R42, R43: an acknowledged operation of the tracker leaves it, and the slot of an ended wave is free once nothing of it is tracked. -/
def Sys2Proof.Claim.TrackerEntryDrains : Prop :=
  ∀ (s : State) (o : MemOp), s.opAt o.id = some o → o.tracker = true → o.atomic = false → o.complete = true → o.seqctr = none → o.bad = none →
    o.expzFull = false → o.denied = false →
    ∃ t, exec (.trackerAck o.id) s = .next t ∧ (∀ q ∈ t.ops, q.id ≠ o.id) ∧ (∀ q ∈ s.ops, q.id ≠ o.id → q ∈ t.ops) ∧
      ((s.waveAt o.wave).status = .ended → t.tracked o.wave = false → (t.waveAt o.wave).status = .gone) ∧
      (∀ a, Memory.get t.mem a = Memory.get s.mem a)

/-- R257: an atomic with return is over when its values have come: they are in its registers, and the wave that waits for it goes on. -/
def Sys2Proof.Claim.AtomicReturns : Prop :=
  ∀ (s : State) (o : MemOp) (d n : Nat) (sgn : Bool), s.opAt o.id = some o → o.atomic = true → o.acc = [] → o.fill = .scalar d n sgn → o.bad = none →
    o.expzFull = false → o.denied = false → (s.waves.find o.wave).isSome = true → (s.gang o.gang).status = .resident → s.unfinished o.wave = false →
    (s.waveAt o.wave).status = .live → (s.waveAt o.wave).waiting = some (.atomic o.id) → (∀ k, k < n → (o.res.find k).isSome = true) →
    ∃ t, exec (.atomicResultReturn o.id) s = .next t ∧ (∀ q ∈ t.ops, q.id ≠ o.id) ∧ (t.waveAt o.wave).waiting = none ∧
      (t.waveAt o.wave).sreg d = o.value 0 n sgn ∧ (t.waveAt o.wave).sFull d = true ∧
      ((s.waveAt o.wave).inHandler = false → (t.waveAt o.wave).icount = (s.waveAt o.wave).icount + 1)

/-- R257, R459, R462: the same of a vector atomic of one register: the lanes that took part hold their old words, the others keep their value, and the wave goes on.
Where a lane has met a failing line, the wave traps at the instruction: the performed lanes hold their values, the others their operands, and the done mask
names the performed ones, those of an earlier issue among them. -/
def Sys2Proof.Claim.VectorAtomicReturns : Prop :=
  ∀ (s : State) (o : MemOp) (e d : Nat) (lanes : List (Nat × Nat × Nat × Nat × Bool)), s.opAt o.id = some o → o.atomic = true → o.acc = [] →
    o.fill = .vector [(e, d)] lanes → o.expzFull = false → o.denied = false → (s.waves.find o.wave).isSome = true →
    (s.gang o.gang).status = .resident → s.unfinished o.wave = false → (s.waveAt o.wave).status = .live → (s.waveAt o.wave).waiting = some (.atomic o.id) →
    (∀ x ∈ lanes, x.1 = e) →
    let came (x : Nat × Nat × Nat × Nat × Bool) : Prop := ∀ k, k < x.2.2.2.1 → (o.res.find (x.2.2.1 + k)).isSome = true
    ∃ t, exec (.atomicResultReturn o.id) s = .next t ∧ (∀ q ∈ t.ops, q.id ≠ o.id) ∧ (t.waveAt o.wave).waiting = none ∧
      (∀ k, k < 32 → (∀ x ∈ lanes, x.2.1 = k → ¬ came x) → (t.waveAt o.wave).lane d k = (s.waveAt o.wave).lane d k) ∧
      (∀ k off n sgn, k < 32 → lanes.filter (fun x => x.2.1 == k) = [(e, k, off, n, sgn)] → came (e, k, off, n, sgn) →
        (t.waveAt o.wave).lane d k = (o.value off n sgn).setWidth 32) ∧
      (o.bad = none → (t.waveAt o.wave).vFull d = true ∧ ((s.waveAt o.wave).inHandler = false → (t.waveAt o.wave).icount = (s.waveAt o.wave).icount + 1)) ∧
      (∀ code pa, o.bad = some (code, pa) → (s.waveAt o.wave).inHandler = false → (s.trapEntry (s.waveAt o.wave)).isSome = true →
        (t.waveAt o.wave).inHandler = true ∧ (t.waveAt o.wave).trap.cause.toNat % 256 = code.toNat ∧ (t.waveAt o.wave).trap.info = BitVec.ofNat 64 pa ∧
        (t.waveAt o.wave).trap.kind.getLsbD 1 = true ∧
        ∀ k, k < 32 → ((((t.waveAt o.wave).trap.done.get 0 e).getLsbD k = true) ↔
          ((((s.waveAt o.wave).redo.getD []).get 0 e).getLsbD k = true ∨ ∃ x ∈ lanes, x.2.1 = k ∧ came x)))

/-- R42, R43, R80, R243, R247, R248, R257: what arrives behind an issue. -/
def Obligations.ReturnedDataArrives : Prop := Sys2Proof.Claim.ScalarDataArrives ∧ Sys2Proof.Claim.VectorDataArrives ∧ Sys2Proof.Claim.TrackerEntryDrains ∧ Sys2Proof.Claim.AtomicReturns ∧ Sys2Proof.Claim.VectorAtomicReturns

/-- R250, R262 to R264, R277: fences, `roinv` and the prefetches. A fence whose operations are performed advances, one that waits for them
stays at its place and does not count as stalled (R49), and one that acquires
empties the core's L1 at `.quad` and wider; `roinv` drops the core's read-only cache; a prefetch changes no register and no byte. -/
def Sys2Proof.Claim.FencesAndPrefetches : Prop :=
  ∀ (paths : BitVec 8) (scope : BitVec 3) (a : BitVec 7) (off : BitVec 9) (s : State), AtInstr s → s.wave.acqs = [] → s.wave.waiting = none →
    let l1 (sc : Nat) : List Line := if 2 ≤ sc then s.l1.filter (fun x => x.core != s.wave.core) else s.l1
    let ro : List Line := if fencePath paths 1 then s.ro.filter (fun x => x.core != s.wave.core) else s.ro
    (4 < scope.toNat → ∀ i ∈ [.fence paths scope, .fenceAcq paths scope, .fenceRel paths scope], exec i s = .next s.illegal) ∧
    (scope.toNat < 4 → s.fenceFull paths scope.toNat = true →
      exec (.fence paths scope) s = .next (done { s with l1 := l1 scope.toNat, ro := ro } 1 id) ∧
      exec (.fenceRel paths scope) s = .next (done s 1 id)) ∧
    (scope = 4 → s.fenceFull paths 4 = true → s.reduce = [] → s.flushQ = [] →
      exec (.fence paths scope) s = .next (done { s with l1 := l1 4, ro := ro } 1 id) ∧ exec (.fenceRel paths scope) s = .next (done s 1 id)) ∧
    (scope.toNat ≤ 4 → s.fenceReads paths = true → exec (.fenceAcq paths scope) s = .next (done { s with l1 := l1 scope.toNat, ro := ro } 1 id)) ∧
    (scope.toNat ≤ 4 → s.fenceReads paths = false → exec (.fenceAcq paths scope) s = .next s.hold) ∧
    (scope.toNat ≤ 4 → s.fenceFull paths scope.toNat = false → exec (.fence paths scope) s = .next s.hold ∧ exec (.fenceRel paths scope) s = .next s.hold) ∧
    exec .roinv s = .next (done { s with ro := s.ro.filter fun x => x.core != s.wave.core } 1 id) ∧
    (SFull s.wave [a.toNat] → s.reduce = [] → s.flushQ = [] → s.shadow = [] → ∀ i ∈ [.vpref a off, .spref a off],
      ∃ l, exec i s = .next (done { s with l1 := l } 1 id))

/-- R216, R261: `sarwait` waits until the arrival word, one of two vault words of its gang, is at least S[D]; its end is an acquire at `.pkg`. A gang with no
allocation reads zero there, and `VSTAT` bit 0 is set. The ACQ, REL and SCOPE of the long form are ignored: the model's choice (log 90). -/
def Sys2Proof.Claim.ArrivalWait : Prop :=
  ∀ (d a : BitVec 7) (off : BitVec 9) (l : ML) (s : State), AtInstr s → s.wave.acqs = [] → s.wave.waiting = none → SFull s.wave [a.toNat, d.toNat] →
    let n := s.myGang.vaultSize
    let at_ := (s.wave.sreg a.toNat + 8 * off.signExtend 64).toNat % 2 ^ 24 / 4 * 4
    let word : Nat := if n = 0 then 0 else fromBytes (Memory.read s.myGang.vault (at_ % n) 4 ++ Memory.read s.myGang.vault ((at_ + 4) % n) 4)
    let u := if n = 0 then s.setWave { s.wave with vstat := s.wave.vstat ||| 1 } else s
    let completed (k : Nat) := done { u with l1 := s.l1.filter fun x => x.core != s.wave.core } k id
    (∀ b ∈ s.badVault, b.1 ≠ s.wave.gang) →
    ((s.wave.sreg d.toNat).toNat ≤ word → exec (.sarwait d a off) s = .next (completed 1) ∧ exec (.sarwaitLong d a off l) s = .next (completed 2)) ∧
    (word < (s.wave.sreg d.toNat).toNat → exec (.sarwait d a off) s = .next u.block ∧ exec (.sarwaitLong d a off l) s = .next u.block)

/-- R250, R261 to R264, R277: fences, `roinv`, the prefetches and `sarwait`. That the long form of `sarwait` ignores its ACQ, REL and SCOPE is log 90, the model's choice. -/
def Obligations.FencesPrefetchesAndArrivalWaits : Prop := Sys2Proof.Claim.FencesAndPrefetches ∧ Sys2Proof.Claim.ArrivalWait

/-! ### Matrix class -/

namespace Sys2Proof.Claim

/-- The sequencer whose turn it is stands at an instruction of its clause (R380, R381). -/
def SeqAtInstr (s : State) : Prop := (s.sq.status = .run ∨ s.sq.status = .wait) ∧ s.sq.phase = .issue

/-- The tile predicate field of an MT form and its words (R77, R391). -/
def tileForm : Instr → Option (Bool × BitVec 4 × Nat)
  | .mma _ _ _ qn q => some (qn, q, 1)
  | .mmaLong _ _ _ qn q _ => some (qn, q, 2)
  | .mdual _ _ _ qn q => some (qn, q, 1)
  | .mdualLong _ _ _ qn q _ => some (qn, q, 2)
  | .mclr _ qn q => some (qn, q, 1)
  | .mdrain _ _ qn q => some (qn, q, 1)
  | .mdrainLong _ _ qn q _ => some (qn, q, 2)
  | .mstash _ _ qn q => some (qn, q, 1)
  | .mstashLong _ _ qn q _ => some (qn, q, 2)
  | .mmaxr _ qn q => some (qn, q, 1)
  | _ => none

/-- Tile predicate `n`: `tq0` reads 1 (R77). -/
def tileBit (q : Seqr) (n : BitVec 4) : Bool := if n = 0 then true else q.tq.getLsbD n.toNat

/-- The sequencer behind an instruction of `len` words: MSTAT 0, no operand kept for the instruction, and at the next word, or at the
next clause or the start of a loop pass (R379, R381, R432). -/
def seqDone (s : State) (len : Nat) (f : Seqr → Seqr) : State := s.modSeq fun q => (f q).retire len

/-- The same of an MT form, which uses up the reuse hint (R392). -/
def tileOver (s : State) (len : Nat) (f : Seqr → Seqr) : State := s.modSeq fun q => { (f q).retire len with reuse := 0 }

/-- The unit at MROW of an MT form is done: the next unit stands at MROW, and behind unit 31 the instruction is over (R387). -/
def unitOver (s : State) (len : Nat) (part : Bool) (f : Seqr → Seqr) : State :=
  if s.sq.mrow < 31 then
    s.modSeq fun q => { f q with mstat := BitVec.ofNat 64 (s.sq.mrow + 1 + if part then 128 else 0) }
  else tileOver s len f

/-- Rows `a` to `a + n − 1` of an operand can be read now: nothing is reused, the operand is aligned, its translations are held and give the
rights, and no drain is under way (R380, R383, R392). -/
def RowsReadable (s : State) (code : BitVec 5) (f : MFmt) (len a n : Nat) : Prop :=
  s.sq.reuse = 0 ∧ s.sq.misaligned code = false ∧ s.checkAll s.sq.asid (s.sq.rowRanges code f len a n) = .ok ∧ s.drains = []

/-- Those rows, in order, and the state behind their reading. -/
def readRows (s : State) (code : BitVec 5) (f : MFmt) (len a n : Nat) : List Byte × State :=
  (upto a n).foldl (fun (x : List Byte × State) r => (x.1 ++ (x.2.readRow code f len r).1, (x.2.readRow code f len r).2)) ([], s)

/-- The sequencer has kept what it read (R392). -/
def kept (s : State) (k : Nat) (code : BitVec 5) (f : MFmt) (len a : Nat) (bs : List Byte) (t : State) : State :=
  t.modSeq fun q => q.keep k (s.sq.holdKey code f len) (f.rowSize len) a bs

end Sys2Proof.Claim

/-- R77, R391: an MT form whose tile predicate is false is over at once; nothing else happens, whatever its fields. -/
def Sys2Proof.Claim.FalseTilePredicateSkips : Prop :=
  ∀ (i : Instr) (qn : Bool) (n : BitVec 4) (len : Nat) (s : State), tileForm i = some (qn, n, len) → SeqAtInstr s → tileBit s.sq n = qn →
    exec i s = .next (tileOver s len id)

/-- R369, R383, R384, R426, R427: what a unit of `mma` and what `mdual` write: each element of a tile is one fused sum of products, and no
other element changes. A ring's row lies in the vault, at BASE plus the head's 32 rows. -/
def Obligations.MatrixElements : Prop :=
  (∀ (q : Seqr) (t i j : Nat) (za : Bool) (xb yb : List Byte), i < 32 → j < 32 →
    (q.mmaUnit t i za xb yb).elem t i j =
      dot (mmaKind q.fmtx.fmt8 q.fmty.fmt8) 0 (if za then .num false 0 0 else f32 (q.elem t i j)) (products (q.fmtx.rowOf 128 xb 0) (q.fmty.rowOf 128 yb j)) ∧
    (∀ u a b, a < 32 → b < 32 → (u ≠ t ∨ a ≠ i) → (q.mmaUnit t i za xb yb).elem u a b = q.elem u a b)) ∧
  (∀ (q : Seqr) (t len i j k : Nat) (xb yb gb : List Byte), i < 32 → j < 32 → k < 32 →
    (q.mdualFirst (t + 1) len yb gb).elem (t + 1) i j = dot (mdualKind q.fmtx.fmt8) 0 (f32 (q.elem (t + 1) i j))
      (products ((List.range 32).map fun r => nth .nan (q.fmtx.rowOf len yb r) i) ((List.range 32).map fun r => nth .nan (q.fmtx.rowOf len gb r) j)) ∧
    (∀ u a b, a < 32 → b < 32 → u ≠ t + 1 → (q.mdualFirst (t + 1) len yb gb).elem u a b = q.elem u a b) ∧
    (q.mdualUnit t len k xb gb).elem t i k =
      dot (mdualKind q.fmtx.fmt8) 0 (f32 (q.elem t i k)) (products (q.fmtx.rowOf len gb i) (q.fmtx.rowOf len xb 0)) ∧
    (∀ u a b, a < 32 → b < 32 → (u ≠ t ∨ b ≠ k) → (q.mdualUnit t len k xb gb).elem u a b = q.elem u a b)) ∧
  (∀ (s : State) (code : BitVec 5) (f : MFmt) (len r : Nat), code.toNat < 16 → f.nScales = 0 → len % 4 = 0 → len ≤ 4096 → s.badVault = [] → (s.gang s.sq.gang).vaultSize ≠ 0 →
    let g := s.sq.ringAt code.toNat
    s.readRow code f len r = ((List.range (len / 4)).flatMap fun w =>
      Memory.read (s.gang s.sq.gang).vault (((g.base + 32 * g.stride * g.head + g.stride * r) % 2 ^ 24 + 4 * w) % 2 ^ 24 / 4 * 4 % (s.gang s.sq.gang).vaultSize) 4, s))

/-- R386, R387, R426 to R428: an MT form that multiplies takes its whole operands first, then completes one unit after another, in order. That the IMM32
bits which no rule gives a meaning are ILLEGAL where they are not 0 is the model's reading (log 62). -/
def Sys2Proof.Claim.MatrixUnitsRun : Prop :=
  ∀ (t : BitVec 7) (x y : BitVec 5) (qn : Bool) (n : BitVec 4) (imm : BitVec 32) (s : State), SeqAtInstr s → tileBit s.sq n = !qn →
    exec (.mclr t qn n) s = .next (tileOver s 1 fun q => { q with tiles := q.tiles.set t.toNat [] }) ∧
    (s.sq.srcOk x = true → s.sq.srcOk y = true →
      let mma (i : Instr) (len : Nat) (za : Bool) : Prop :=
        fmtBytes s.sq.fmtx.fmt8 = fmtBytes s.sq.fmty.fmt8 →
        (s.sq.work = [] → RowsReadable s y s.sq.fmty 128 0 32 →
          let r := readRows s y s.sq.fmty 128 0 32
          exec i s = .next ((kept s 1 y s.sq.fmty 128 0 r.1 r.2).modSeq fun q => { q with work := [(1, r.1)] })) ∧
        (∀ yb, s.sq.work = [(1, yb)] → RowsReadable s x s.sq.fmtx 128 s.sq.mrow 1 →
          let r := readRows s x s.sq.fmtx 128 s.sq.mrow 1
          exec i s = .next (unitOver (kept s 0 x s.sq.fmtx 128 s.sq.mrow r.1 r.2) len false fun q => q.mmaUnit t.toNat s.sq.mrow za r.1 yb))
      let mdual (i : Instr) (len : Nat) (g : BitVec 5) : Prop :=
        let row := 32 * fmtBytes s.sq.fmtx.fmt8
        t ≠ 127 → s.sq.srcOk g = true → (s.sq.fmtx.fmt8 = 0x03 ∨ s.sq.fmtx.fmt8 = 0x07) → s.sq.fmty.fmt8 = s.sq.fmtx.fmt8 →
        (s.sq.work = [] → s.sq.part = false → RowsReadable s g s.sq.fmtx row 0 32 →
          let r := readRows s g s.sq.fmtx row 0 32
          let s' := kept s 2 g s.sq.fmtx row 0 r.1 r.2
          RowsReadable s' y s.sq.fmtx row 0 32 →
          let p := readRows s' y s.sq.fmtx row 0 32
          exec i s = .next ((kept s' 1 y s.sq.fmtx row 0 p.1 p.2).modSeq fun q =>
            { q.mdualFirst (t.toNat + 1) row p.1 r.1 with mstat := BitVec.ofNat 64 (s.sq.mrow + 128), work := [(1, p.1), (2, r.1)] })) ∧
        (∀ yb gb, s.sq.work = [(1, yb), (2, gb)] → RowsReadable s x s.sq.fmtx row s.sq.mrow 1 →
          let r := readRows s x s.sq.fmtx row s.sq.mrow 1
          exec i s = .next (unitOver (kept s 0 x s.sq.fmtx row s.sq.mrow r.1 r.2) len true fun q => q.mdualUnit t.toNat row s.sq.mrow r.1 gb))
      mma (.mma t x y qn n) 1 false ∧ mma (.mmaLong t x y qn n 0) 2 false ∧ mma (.mmaLong t x y qn n 1) 2 true ∧
        mdual (.mdual t x y qn n) 1 0 ∧ (imm.toNat < 32 → mdual (.mdualLong t x y qn n imm) 2 (imm.setWidth 5))) ∧
    (1 < imm.toNat → exec (.mmaLong t x y qn n imm) s = .next (s.seqFault Code.illegal false)) ∧
    (31 < imm.toNat ∨ t = 127 → exec (.mdualLong t x y qn n imm) s = .next (s.seqFault Code.illegal false))

/-- R77, R386, R387, R391, R426 to R428: the MT forms that multiply, unit by unit, and one that its tile predicate skips. That reserved IMM32 bits of the long forms are ILLEGAL is log 62, the model's reading. -/
def Obligations.MatrixUnitsRunInOrder : Prop := Sys2Proof.Claim.FalseTilePredicateSkips ∧ Sys2Proof.Claim.MatrixUnitsRun

/-- R389, R390, R393, R429, R430: a drain, a stash or `mmaxr` writes one row, or the word, through a drain that is under way from then on;
MAXMAG and NAN take in the row; and when the drain is performed its bytes stand in memory. -/
def Obligations.MatrixDrains : Prop :=
  (∀ (t : BitVec 7) (x : BitVec 5) (qn : Bool) (n : BitVec 4) (conv : BitVec 32) (s : State), SeqAtInstr s → tileBit s.sq n = !qn → convOk conv = true →
    let row := (List.range 32).map fun j => s.sq.elem t.toNat s.sq.mrow j
    let d (writes : List Acc) : State := { s with
      nextId := s.nextId + 1
      drains := s.drains ++ [Drain.mk s.nextId s.seq s.sq.gang s.sq.wg (s.gang s.sq.gang).launch s.sq.mpc writes [] s.sq.inst s.sq.fired] }
    let drain (i : Instr) (len : Nat) (conv : BitVec 32) : Prop :=
      let bs := row.flatMap (mtxElem conv)
      let l := s.sq.rowLoc x s.sq.mrow
      s.sq.srcOk x = true → s.sq.misaligned x = false →
      s.checkAll s.sq.asid (if l.vault then [] else [⟨.engWrite, l.addr.toNat, bs.length, 1⟩]) = .ok →
      exec i s = .next (unitOver (d (s.seqAccs s.sq.gang l bs)) len false fun q => q.capture row)
    let stash (i : Instr) (len : Nat) (conv : BitVec 32) : Prop :=
      let base := (s.sq.mdAt (x.toNat - 16)).base
      let w := fmtBytes (conv.setWidth 8)
      let parts : List (Word × List Byte) := (base + BitVec.ofNat 64 (32 * w * s.sq.mrow), row.flatMap (mtxElem conv)) ::
        (List.range 32).map fun j => (base + BitVec.ofNat 64 (1024 * w + 32 * w * j + w * s.sq.mrow), mtxElem conv (s.sq.elem t.toNat s.sq.mrow j))
      16 ≤ x.toNat → base.toNat % 128 = 0 → s.checkAll s.sq.asid (parts.map fun p => ⟨.engWrite, p.1.toNat, p.2.length, 1⟩) = .ok →
      exec i s = .next (unitOver (d (parts.flatMap fun p => s.seqAccs s.sq.gang ⟨false, p.1⟩ p.2)) len false fun q => q.capture row)
    drain (.mdrain t x qn n) 1 0 ∧ drain (.mdrainLong t x qn n conv) 2 conv ∧ stash (.mstash t x qn n) 1 0 ∧ stash (.mstashLong t x qn n conv) 2 conv ∧
    (let base := (s.sq.mdAt (x.toNat - 16)).base;
      16 ≤ x.toNat → base.toNat % 8 = 0 → s.checkAll s.sq.asid [⟨.engWrite, base.toNat, 8, 1⟩] = .ok →
      exec (.mmaxr x qn n) s = .next (tileOver (d (s.seqAccs s.sq.gang ⟨false, base⟩ (toBytes 8 (s.sq.maxmag.toNat + if s.sq.nan then 2 ^ 32 else 0)))) 1
        fun q => { q with maxmag := 0, nan := false }))) ∧
  (∀ (q : Seqr) (xs : List Lane),
    ((q.capture xs).nan = true ↔ q.nan = true ∨ ∃ x ∈ xs, 0x7f800000 < (x &&& 0x7fffffff).toNat) ∧
    (∀ x ∈ xs, (x &&& 0x7fffffff).toNat ≤ 0x7f800000 → (x &&& 0x7fffffff).toNat ≤ (q.capture xs).maxmag.toNat) ∧
    ((q.capture xs).maxmag = q.maxmag ∨ ∃ x ∈ xs, (q.capture xs).maxmag = x &&& 0x7fffffff)) ∧
  (∀ (s : State) (d : Drain) (pa va : Nat) (c : Bool) (bs : List Byte), s.drains = [d] → d.writes = [⟨.phys pa, va, false, c, .write bs, none⟩] → s.bad = [] → NothingToSpoil s →
    s.watch = [] → s.reduce = [] → s.flushQ = [] → s.shadow = [] → Memory.wf s.mem = true →
    ∃ t, exec (.drainPerformed d.id) s = .next t ∧ t.drains = [] ∧ (∀ k, k < bs.length → Memory.get t.mem (pa + k) = nth 0 bs k) ∧
      (∀ a, (a < pa ∨ pa + bs.length ≤ a) → Memory.get t.mem a = Memory.get s.mem a) ∧ (∀ g, t.gang g = s.gang g) ∧
      (∀ k, t.seqs.find k = if k = d.seq then (s.seqs.find k).map fun q => { q with fired := if q.inst = d.inst then d.fired else q.fired } else s.seqs.find k))

namespace Sys2Proof.Claim

/-- Bytes of virtual memory that the sequencer can read now (R383, R431). -/
def SeqReadable (s : State) (a : Word) (n align : Nat) : Prop := s.checkAll s.sq.asid [⟨.engRead, a.toNat, n, align⟩] = .ok ∧ s.drains = []

/-- Those bytes, and the state behind their reading. -/
def seqBytes (s : State) (a : Word) (n : Nat) : List Byte × State :=
  ((s.loadPipe.read s.sq.gang ⟨false, a⟩ n).1, (s.loadPipe.read s.sq.gang ⟨false, a⟩ n).2.s)

/-- The state behind an arrival of the sequencer at a numbered barrier, and its token (R263, R382). -/
def seqArrived (s : State) (n : Nat) : State :=
  let t := (s.arrive s.sq.gang s.sq.wg n []).2
  ({ t with drains := t.drains.map fun (d : Drain) =>
      if d.seq == s.seq then { d with released := d.released ++ [(n, (s.nbar s.sq.gang s.sq.wg n).phase)] } else d }).modSeq fun q =>
    { q with tokens := q.tokens.set n (s.nbar s.sq.gang s.sq.wg n).phase }

end Sys2Proof.Claim

/-- R36, R39, R263, R369, R379, R382 to R385, R391, R392, R431, R432: the MK forms. That the IMM32 of `mfmt` and `mdesc` is
sign-extended is the model's reading (log 29). -/
def Obligations.MatrixControl : Prop :=
  ∀ (n : BitVec 8) (m imm16 : BitVec 16) (sel : BitVec 3) (inv : Bool) (imm : BitVec 32) (s : State), SeqAtInstr s →
    let q := s.sq
    let md := q.mdAt n.toNat
    let target := q.mpc + 4 + 4 * BitVec.ofNat 64 q.widx + 4 * imm.signExtend 64
    let next := q.mpc + 4 + 4 * BitVec.ofNat 64 (hdrCount q.hdr)
    let last : Prop := hdrCount q.hdr ≤ q.widx + 2
    let goes (q : Seqr) (a : Word) (l : List LoopEntry) : Seqr := { q with phase := .fetch, mpc := a, widx := 0, words := [], loop := l }
    (exec .mnop s = .next (seqDone s 1 id)) ∧
    (exec (.mreuse sel) s = .next (seqDone s 1 fun q => { q with reuse := sel })) ∧
    ((∀ d ∈ s.drains, d.seq ≠ s.seq) → exec .mend s = .next (s.modSeq fun q => { q with status := .ended })) ∧
    ((∃ d ∈ s.drains, d.seq = s.seq) → exec .mend s = .next s) ∧
    (16 ≤ n.toNat → ∀ i ∈ [.mringConfig n, .mringAdvance n, .mtqset n imm16, .mwait n, .marrive n, .mfmt n, .mfmtLong n imm, .mdesc n imm, .mbra n inv imm],
      exec i s = .next (s.seqFault Code.illegal false)) ∧
    (¬ last → exec (.mloop m imm) s = .next (s.seqFault Code.illegal false) ∧ exec (.mbra n inv imm) s = .next (s.seqFault Code.illegal false)) ∧
    (last → q.loop.length = 4 → exec (.mloop m imm) s = .next (s.seqFault Code.illegal false)) ∧
    (last → q.loop.length < 4 → m ≠ 0 → exec (.mloop m imm) s = .next (s.modSeq fun q => goes q next (q.loop ++ [⟨next, target, m.setWidth 64⟩]))) ∧
    (last → q.loop.length < 4 → ∀ x t, s.fetchWord q.core q.asid target.toNat = .ok x t →
      exec (.mloop 0 imm) s = .next (t.modSeq fun q => goes q (target + 4 * BitVec.ofNat 64 (opWords x)) q.loop)) ∧
    (n.toNat < 16 →
      (1 ≤ md.cfg.toNat % 32 ∧ md.cfg.toNat % 32 ≤ 16 → exec (.mringConfig n) s = .next (seqDone s 1 fun q =>
        { q with rings := q.rings.set n.toNat ⟨md.base.toNat % 2 ^ 24, md.stride.toNat, md.cfg.toNat % 32, 0, md.cfg.toNat / 256 % 16, md.cfg.getLsbD 12⟩ })) ∧
      ((md.cfg.toNat % 32 = 0 ∨ 16 < md.cfg.toNat % 32) → exec (.mringConfig n) s = .next (s.seqFault Code.illegal false)) ∧
      (∀ r, q.rings.find n.toNat = some r → r.nstage ≠ 0 →
        let t := s.modSeq fun q => { q with rings := q.rings.set n.toNat { r with head := (r.head + 1) % r.nstage } }
        exec (.mringAdvance n) s = .next (seqDone (if r.freeen then seqArrived t r.freeb else t) 1 id)) ∧
      (imm16.toNat < 64 → imm16.getLsbD 1 = false → ∃ b : BitVec 16, exec (.mtqset n imm16) s = .next (seqDone s 1 fun q => { q with tq := b }) ∧
        (n = 0 → b = q.tq) ∧ (n ≠ 0 → ∀ k, k < 16 → b.getLsbD k = if k = n.toNat then imm16.getLsbD 0 else q.tq.getLsbD k)) ∧
      (imm16.toNat < 64 → imm16.getLsbD 1 = true →
        let a := (q.mdAt (imm16.toNat / 4 % 16)).base;
        SeqReadable s a 4 1 → ∃ b : BitVec 16, exec (.mtqset n imm16) s = .next (seqDone (seqBytes s a 4).2 1 fun q => { q with tq := b }) ∧
          (n ≠ 0 → ∀ k, k < 16 → b.getLsbD k = if k = n.toNat then decide (fromBytes (seqBytes s a 4).1 ≠ 0) else (seqBytes s a 4).2.sq.tq.getLsbD k)) ∧
      (exec (.marrive n) s = .next (seqDone (seqArrived s n.toNat) 1 id)) ∧
      (q.status = .run ∨ q.rearm = true →
        let t := seqArrived (s.modSeq fun q => { q with rearm := false }) n.toNat
        exec (.mwait n) s = .next (if t.nbDone q.gang q.wg n.toNat (s.nbar q.gang q.wg n.toNat).phase then seqDone t 1 id
          else (t.modSeq fun q => { q with status := .wait }).abandon q.gang q.wg)) ∧
      (q.status = .wait → q.rearm = false → s.nbDone q.gang q.wg n.toNat (q.tokens.get 0 n.toNat) = true → exec (.mwait n) s = .next (seqDone s 1 id)) ∧
      (let fmt (i : Instr) (len : Nat) (a : Word) : Prop :=
          SeqReadable s a 32 8 →
          let r := seqBytes s a 32
          let half (o : Nat) : MFmt := ⟨nth 0 r.1 o, 16 * 2 ^ ((nth 0 r.1 (o + 1)).toNat % 4), (nth 0 r.1 (o + 2)).getLsbD 0,
            BitVec.ofNat 64 (fromBytes ((r.1.drop (o + 8)).take 8))⟩
          mfmtOk (nth 0 r.1 0) = true → mfmtOk (nth 0 r.1 16) = true → r.1.length = 32 →
          exec i s = .next (seqDone r.2 len fun q => { q with fmtx := half 0, fmty := half 16 });
        fmt (.mfmt n) 1 md.base ∧ fmt (.mfmtLong n imm) 2 (md.base + imm.signExtend 64)) ∧
      (let a := q.args + imm.signExtend 64;
        SeqReadable s a 16 8 →
        let r := seqBytes s a 16
        exec (.mdesc n imm) s = .next (seqDone r.2 2 fun q => { q with md := q.md.set n.toNat ⟨BitVec.ofNat 64 (fromBytes (r.1.take 8)),
          BitVec.ofNat 32 (fromBytes ((r.1.drop 8).take 4)), BitVec.ofNat 32 (fromBytes (r.1.drop 12))⟩ })) ∧
      (last → (if n = 0 then true else q.tq.getLsbD n.toNat) = inv → exec (.mbra n inv imm) s = .next (seqDone s 2 id)) ∧
      (last → (if n = 0 then true else q.tq.getLsbD n.toNat) = !inv → exec (.mbra n inv imm) s = .next (s.modSeq fun q => goes q target
        (q.loop.reverse.dropWhile fun e => !(decide (e.start.toNat ≤ target.toNat) && decide (target.toNat ≤ e.fin.toNat))).reverse)))

/-! ### Engine class -/

namespace Sys2Proof.Claim

/-- A completion word (R347): STATUS, ENG, FLAGS and COUNT. -/
def compWord (eng status flags count : Nat) : Word := BitVec.ofNat 64 (status + 256 * eng + 4096 * flags + 65536 * (count % 2 ^ 32))

/-- An engine form can issue: outside a trap handler, with a scope that is assigned, its scalar registers owned and full, no acquire of the
wave open, and its release over (R198, R279, R346). -/
def EngReady (s : State) (x : EArgs) (rs : List Nat) : Prop :=
  AtInstr s ∧ s.wave.inHandler = false ∧ x.scope ≤ 4 ∧ SFull s.wave rs ∧ s.wave.acqs = [] ∧ s.wave.waiting = none ∧
    (x.rel = true → s.genDone s.cur x.scope = true)

/-- The state behind a form that completes at once (R279, R347): its register holds the word, and an acquire at `.quad` or wider empties
the core's L1. -/
def answered (t : State) (x : EArgs) (d : Nat) (word : Word) : State :=
  let u := t.setWave ((t.wave.setS d word).retire x.len)
  if x.acq = true ∧ 2 ≤ x.scope then { u with l1 := u.l1.filter fun y => y.core != t.wave.core } else u

/-- The wave behind a command that was accepted: its register is empty, and an acquire is noted (R279, R347). -/
def accepted (w : Wave) (x : EArgs) (d id : Nat) : Wave :=
  Wave.retire (if x.acq then { w.emptyS d with acqs := w.acqs ++ [(id, x.scope)] } else w.emptyS d) x.len

/-- A command of a block that an engine form reads (R349): its fields, registers, engine and queue, whether the queue has room, the block, and
what the fields of a block ask for. -/
structure CmdForm where
  x : EArgs
  d : Nat
  srcs : List Nat
  eng : Nat
  unit : Nat
  room : Bool
  len : Nat
  plan : List Byte → Plan

/-- A command for a sort or gather-dedup engine of the wave's die (R350, R353, R358): at most 16 or 32 wait there. -/
def dieForm (s : State) (x : EArgs) (eng cap : Nat) (d a b : BitVec 7) (len : Nat) (plan : List Byte → Plan) : CmdForm :=
  ⟨x, d.toNat, [a.toNat, b.toNat], eng, s.wave.core / 144,
    decide ((s.cmds.filter fun c => c.eng == eng && c.unit == s.wave.core / 144 && c.status == .queued).length < cap), len, plan⟩

/-- A command for the copy engine of the wave's quad (R433, R436): 64 shared entries, and one of the wave's own. -/
def copyForm (s : State) (x : EArgs) (park : Bool) (d a b : BitVec 7) : CmdForm :=
  ⟨x, d.toNat, [a.toNat, b.toNat], 3, s.wave.core / 4,
    decide ((s.cmds.filter fun c => c.eng == 3 && c.unit == s.wave.core / 4 && c.status == .queued && c.dreg.isSome && !c.reserved).length < 64) ||
      !s.cmds.any (fun c => c.eng == 3 && c.wave == s.cur && c.status == .queued && c.reserved), 32,
    copyPlan park (s.wave.sreg b.toNat) s.myLaunch.kernel.wg⟩

/-- Bits [31:0] of a scalar register. -/
def low32 (s : State) (b : BitVec 7) : Nat := (s.wave.sreg b.toNat).toNat % 2 ^ 32

def cmdForm (s : State) : Instr → Option CmdForm
  | .srtrun d a b => some (dieForm s s.wave.engCompact 1 16 d a b 32 (sortPlan (low32 s b)))
  | .srtrunLong d a b l => some (dieForm s (engLong l) 1 16 d a b 32 (sortPlan (low32 s b)))
  | .srtmrg d a b => some (dieForm s s.wave.engCompact 1 16 d a b (16 + 16 * min (low32 s b) 16) (mergePlan (low32 s b)))
  | .srtmrgLong d a b l => some (dieForm s (engLong l) 1 16 d a b (16 + 16 * min (low32 s b) 16) (mergePlan (low32 s b)))
  | .srttab d a b => some (dieForm s s.wave.engCompact 1 16 d a b 32 (tablePlan (low32 s b)))
  | .srttabLong d a b l => some (dieForm s (engLong l) 1 16 d a b 32 (tablePlan (low32 s b)))
  | .gdeg d a b => some (dieForm s s.wave.engCompact 2 32 d a b 48 (gdePlan false (low32 s b)))
  | .gdegLong d a b l => some (dieForm s (engLong l) 2 32 d a b 48 (gdePlan false (low32 s b)))
  | .gdes d a b => some (dieForm s s.wave.engCompact 2 32 d a b 48 (gdePlan true (low32 s b)))
  | .gdesLong d a b l => some (dieForm s (engLong l) 2 32 d a b 48 (gdePlan true (low32 s b)))
  | .cpy d a b => some (copyForm s s.wave.engCompact false d a b)
  | .cpyLong d a b l => some (copyForm s (engLong l) false d a b)
  | .cpym d a b => some (copyForm s s.wave.engCompact true d a b)
  | .cpymLong d a b l => some (copyForm s (engLong l) true d a b)
  | _ => none

/-- A command is in flight behind an issue that read from memory to `t` and led to `u`. -/
def Accepted (s t u : State) (x : EArgs) (d eng unit : Nat) (op : CmdOp) (st : CStatus) (c : Cmd) : Prop :=
  u.cmds = s.cmds ++ [c] ∧ c.id = s.nextId ∧ c.status = st ∧ c.dreg = some d ∧ c.op = op ∧ c.eng = eng ∧ c.unit = unit ∧ c.wave = s.cur ∧
    c.gang = s.wave.gang ∧ c.core = s.wave.core ∧ c.pc = instrAddr s.wave ∧ c.tracker = true ∧ u.wave = accepted s.wave x d s.nextId ∧ u.mem = t.mem ∧
    (∀ k, k ≠ s.cur → u.waveAt k = s.waveAt k)

/-- The block at S[A] of an engine form passes its checks and is read with bytes `g` (R349, step 1). -/
def ReadsBlock (s : State) (va len align : Nat) (g : Got) : Prop :=
  s.checkAll s.myGang.asid [⟨.blockRead, va, len, align⟩] = .ok ∧ s.genRead va len = some g ∧ g.bad = none

end Sys2Proof.Claim

/-- R285, R347 to R350, R353, R358, R362, R433, R436, R438: the forms that give a command to an engine. A command whose fields are in range, whose
regions pass and for which there is room waits in its engine's queue; one that is refused, or has nothing to do, completes at once. The STATUS of one whose
block lies in a failing line is the model's reading (log 100). -/
def Sys2Proof.Claim.CommandsAreAccepted : Prop :=
  (∀ (i : Instr) (f : CmdForm) (s : State) (g : Got) (rs : List Range) (op : CmdOp), cmdForm s i = some f → EngReady s f.x (f.d :: f.srcs) →
    ReadsBlock s (s.wave.sreg (nth 0 f.srcs 0)).toNat f.len 8 g → f.plan g.bytes = .run rs op → s.checkAll s.myGang.asid rs = .ok → f.room = true →
    s.trackerRoom s.wave.core = true → ∃ t c, exec i s = .next t ∧ Accepted s g.s t f.x f.d f.eng f.unit op .queued c) ∧
  (∀ (i : Instr) (f : CmdForm) (s : State) (g : Got) (st n : Nat), cmdForm s i = some f → EngReady s f.x (f.d :: f.srcs) →
    ReadsBlock s (s.wave.sreg (nth 0 f.srcs 0)).toNat f.len 8 g → f.plan g.bytes = .answer st n →
    ∃ count, (st = 0 → count = n) ∧ exec i s = .next (answered g.s f.x f.d (compWord f.eng st 0 count))) ∧
  (∀ (s : State) (va n : Nat) (g : Got), s.genRead va n = some g →
    g.s.waves = s.waves ∧ g.s.gangs = s.gangs ∧ g.s.cmds = s.cmds ∧ g.s.ops = s.ops ∧ g.s.nextId = s.nextId ∧ g.s.seqs = s.seqs ∧ g.s.step = s.step ∧
      g.s.pod = s.pod ∧ g.s.bins = s.bins ∧ g.s.nodes = s.nodes ∧ g.s.clk = s.clk) ∧
  (∀ (i : Instr) (f : CmdForm) (s : State) (g : Got) (c : Code) (pa : Nat), cmdForm s i = some f → EngReady s f.x (f.d :: f.srcs) →
    let va := (s.wave.sreg (nth 0 f.srcs 0)).toNat
    s.checkAll s.myGang.asid [⟨.blockRead, va, f.len, 8⟩] = .ok → s.genRead va f.len = some g → g.bad = some (c, pa) →
    ∃ count, exec i s = .next (answered (g.s.impFault s.cur s.wave.waveid s.wave.gang c (instrAddr s.wave)) f.x f.d (compWord f.eng 3 0 count))) ∧
  (∀ (d a b : BitVec 7) (l : EL) (s : State) (i : Instr) (x : EArgs),
    (i, x) ∈ [(.cpydrn d a b, s.wave.engCompact), (.cpydrnLong d a b l, engLong l)] → EngReady s x [d.toNat, a.toNat, b.toNat] →
    (copyForm s x false d a b).room = true → s.trackerRoom s.wave.core = true →
    ∃ t c, exec i s = .next t ∧ Accepted s s t x d.toNat 3 (s.wave.core / 4)
      (.drain ((s.wave.sreg a.toNat).toNat % 2 ^ 24) ((s.wave.sreg b.toNat).toNat % 64)) .queued c) ∧
  (∀ (d : BitVec 7) (l : EL) (s : State) (i : Instr) (x : EArgs),
    (i, x) ∈ [(.claimDone d, s.wave.engCompact), (.claimDoneLong d l, engLong l)] → EngReady s x [d.toNat] → s.trackerRoom s.wave.core = true →
    ∃ t c, exec i s = .next t ∧ Accepted s s t x d.toNat 6 0 .claimDone .queued c) ∧
  (∀ (d a b : BitVec 7) (l : EL) (s : State) (i : Instr) (x : EArgs),
    (i, x) ∈ [(.claimPost d a b, s.wave.engCompact), (.claimPostLong d a b l, engLong l)] → EngReady s x [d.toNat, a.toNat, b.toNat] →
    let base := (s.wave.sreg b.toNat).toNat % 256
    let n := (s.wave.sreg b.toNat).toNat / 256 % 16
    (s.myLaunch.kernel.mode ≠ 1 ∨ s.wave.bodyNo ≠ none → exec i s = .next s.illegal) ∧
    (s.myLaunch.kernel.mode = 1 → s.wave.bodyNo = none → (n = 0 ∨ 8 < n) → exec i s = .next s.illegal) ∧
    (s.myLaunch.kernel.mode = 1 → s.wave.bodyNo = none → 1 ≤ n → n ≤ 8 → VFull s.wave (upto base (5 + n)) →
      s.checkAll s.myGang.asid (((List.range 32).filter (s.wave.takes x.pred)).flatMap fun k => (List.range n).map fun j =>
        ⟨.engWrite, (s.wave.sreg a.toNat + (s.wave.lane (base + 5 + j) k).setWidth 64).toNat, 1, 1⟩) = .ok → s.trackerRoom s.wave.core = true →
      ∃ t c, exec i s = .next t ∧ Accepted s s t x d.toNat 6 0 (.claimPost (((List.range 32).filter (s.wave.takes x.pred)).map fun k =>
        ((s.wave.lane base k).toNat, [s.wave.lane (base + 1) k, s.wave.lane (base + 2) k, s.wave.lane (base + 3) k, s.wave.lane (base + 4) k],
          dedup ((List.range n).map fun j => s.pitchOf (s.wave.sreg a.toNat + (s.wave.lane (base + 5 + j) k).setWidth 64).toNat)))) .queued c))

/-- R67, R81, R83, R346, R463: a scalar source of a long engine form under policy 1 that is empty raises EMPTY, A before B, and before the
form waits for anything (the model's reading, log 21); TINFO names the register and the source. Under policy 0 the wave waits. -/
def Sys2Proof.Claim.EmptyEngineSourceTraps : Prop :=
  ∀ (d a b : BitVec 7) (l : EL) (s : State), AtInstr s → s.wave.inHandler = false → l.scope.toNat ≤ 4 →
    d.toNat < s.wave.sregN → a.toNat < s.wave.sregN → b.toNat < s.wave.sregN →
    (∀ i ∈ [Instr.srtrunLong d a b l, .srtmrgLong d a b l, .srttabLong d a b l, .gdegLong d a b l, .gdesLong d a b l, .cpyLong d a b l, .cpymLong d a b l,
        .cpydrnLong d a b l, .wpsetLong d a b l, .taskPushLong d a b l, .taskSpawnLong d a b l, .colRunLong d a b l, .fstLong d a b l,
        .lnkctlLong d a b l, .cstageLong d a l, .wpclrLong d a l, .arrtgtLong d a l, .fldLong d a l, .lnkdrnLong d a l],
      l.fe.getLsbD 0 = true → s.wave.sFull a.toNat = false → exec i s = .next (s.trap Code.empty (BitVec.ofNat 64 a.toNat))) ∧
    (∀ i ∈ [Instr.srtrunLong d a b l, .srtmrgLong d a b l, .srttabLong d a b l, .gdegLong d a b l, .gdesLong d a b l, .cpyLong d a b l, .cpymLong d a b l,
        .cpydrnLong d a b l, .wpsetLong d a b l, .taskPushLong d a b l, .taskSpawnLong d a b l, .colRunLong d a b l, .fstLong d a b l, .lnkctlLong d a b l],
      l.fe.getLsbD 1 = true → (l.fe.getLsbD 0 = true → s.wave.sFull a.toNat = true) → s.wave.sFull b.toNat = false →
      exec i s = .next (s.trap Code.empty (BitVec.ofNat 64 (b.toNat + 512)))) ∧
    (∀ i ∈ [Instr.srtrunLong d a b l, .srtmrgLong d a b l, .srttabLong d a b l, .gdegLong d a b l, .gdesLong d a b l, .cpyLong d a b l, .cpymLong d a b l,
        .cpydrnLong d a b l, .wpsetLong d a b l, .taskPushLong d a b l, .taskSpawnLong d a b l, .colRunLong d a b l, .fstLong d a b l, .lnkctlLong d a b l],
      l.fe = 0 → (s.wave.sFull a.toNat = false ∨ s.wave.sFull b.toNat = false ∨ s.wave.sFull d.toNat = false) → exec i s = .next s.block)

/-- R67, R81, R83, R285, R346 to R350, R353, R358, R362, R433, R436, R438: the forms that give a command to an engine, and engine forms with an empty source. EMPTY before every other wait (log 21) and the completion word where the block fails (log 100) are the model's readings. -/
def Obligations.EngineCommands : Prop := Sys2Proof.Claim.CommandsAreAccepted ∧ Sys2Proof.Claim.EmptyEngineSourceTraps

/-- R331 to R334, R363 to R366, R437, R447, R286: forms of the engine class that complete at issue. That S[B] = 0 of `task.spawn` names a record like any other
value is log 87, and that the registers of `claim.take` are full again when the step ends log 92: the model's readings. -/
def Obligations.EngineFormsAnswerAtOnce : Prop :=
  (∀ (d a : BitVec 7) (l : EL) (s : State) (i : Instr) (x : EArgs), (i, x) ∈ [(.cstage d a, s.wave.engCompact), (.cstageLong d a l, engLong l)] →
    EngReady s x [d.toNat, a.toNat] →
    let stage := min (s.myGang.stage + (s.wave.sreg a.toNat).toNat) s.myLaunch.kernel.ncsch
    exec i s = .next (answered (s.modGang s.wave.gang fun y => { y with
      stage := stage, releases := if stage = y.stage then y.releases else y.releases ++ [(stage, s.cur, s.wave.waveid, instrAddr s.wave)] }) x d.toNat
        (BitVec.ofNat 64 stage))) ∧
  (∀ (d a : BitVec 7) (l : EL) (s : State) (i : Instr) (x : EArgs), (i, x) ∈ [(.wpclr d a, s.wave.engCompact), (.wpclrLong d a l, engLong l)] →
    EngReady s x [d.toNat, a.toNat] →
    let h := (s.wave.sreg a.toNat).toNat % 256
    (∀ w, s.watch.find h = some w → w.armed = true → w.asid = s.myGang.asid →
      exec i s = .next (answered { s with watch := s.watch.set h { w with armed := false } } x d.toNat (compWord 8 0 (if w.overflow then 1 else 0) w.queued))) ∧
    ((∀ w, s.watch.find h = some w → w.armed = false ∨ w.asid ≠ s.myGang.asid) → ∃ n, exec i s = .next (answered s x d.toNat (compWord 8 5 0 n)))) ∧
  (∀ (d a b : BitVec 7) (l : EL) (s : State) (i : Instr) (x : EArgs) (g : Got),
    (i, x) ∈ [(.wpset d a b, s.wave.engCompact), (.wpsetLong d a b l, engLong l)] → EngReady s x [d.toNat, a.toNat, b.toNat] →
    s.checkAll s.myGang.asid [⟨.blockRead, (s.wave.sreg a.toNat).toNat, 32, 8⟩] = .ok → s.genRead (s.wave.sreg a.toNat).toNat 32 = some g →
    let addr := numAt g.bytes 0 8
    let len := numAt g.bytes 8 4
    let bad : Prop := addr % 8 ≠ 0 ∨ len % 8 ≠ 0 ∨ len < 8 ∨ 2048 < len ∨ addr / 2048 ≠ (addr + len - 1) / 2048
    (bad → ∃ n, exec i s = .next (answered g.s x d.toNat (compWord 8 6 0 n))) ∧
    (∀ p span, ¬ bad → s.checkAll s.myGang.asid [⟨.engRead, addr, len, 1⟩] = .ok → s.trans s.myGang.asid addr = .ok p span →
      let die := homeDie (ptePa p span addr)
      (g.s.freeWatch die = none → ∃ n, exec i s = .next (answered g.s x d.toNat (compWord 8 4 0 n))) ∧
      (∀ n, g.s.freeWatch die = some n → exec i s = .next (answered { g.s.forgetWatch (64 * die + n) with
        watch := g.s.watch.set (64 * die + n) ⟨ptePa p span addr, len, wordAt g.bytes 16, wordAt g.bytes 24, s.wave.sreg b.toNat, s.myGang.asid,
          (numAt g.bytes 12 4) % 2 == 1, true, false, 0⟩ } x d.toNat (compWord 8 0 0 (64 * die + n)))))) ∧
  (∀ (d a b : BitVec 7) (l : EL) (s : State) (i : Instr) (x : EArgs), (i, x) ∈ [(.taskPush d a b, s.wave.engCompact), (.taskPushLong d a b l, engLong l)] →
    EngReady s x [d.toNat, a.toNat, b.toNat] →
    let node := (s.wave.sreg b.toNat).toNat % 256
    let die := s.wave.core / 144
    (s.nodes.find node = none → ∃ n, exec i s = .next (answered s x d.toNat (compWord 7 7 0 n))) ∧
    (∀ nd g, s.nodes.find node = some nd → s.checkAll s.myGang.asid [⟨.engRead, (s.wave.sreg a.toNat).toNat, nd.rsize, 16⟩] = .ok →
      s.genRead (s.wave.sreg a.toNat).toNat nd.rsize = some g → s.genDone s.cur 4 = true →
      let bin := s.bin die node
      let settled := (s.settleBin die node).bin die node
      (nd.coal ≤ settled.recs.length → exec i s = .next s.block) ∧
      (settled.recs.length < nd.coal → exec i s = .next (answered (g.s.pushRecord die node nd g.bytes).2 x d.toNat
        (compWord 7 0 0 (((g.s.settleBin die node).bin die node).recs.length + 1)))) ∧
      (bin.recs.length < nd.coal → (∀ t, bin.deadline = some t → s.clock die < t) → g.s.bins = s.bins → g.s.nodes = s.nodes → g.s.clk = s.clk →
        exec i s = .next (answered (g.s.pushRecord die node nd g.bytes).2 x d.toNat (compWord 7 0 0 (bin.recs.length + 1))) ∧
        (bin.recs.length + 1 < nd.coal → (g.s.pushRecord die node nd g.bytes).2 = g.s.setBin die node ⟨bin.recs ++ [g.bytes],
          if bin.recs = [] ∧ nd.timer ≠ 0 then some (s.clock die + nd.timer) else bin.deadline, bin.slots⟩)) ∧
      (nd.coal ≤ bin.recs.length → (∀ k, k < nd.nbatch → k ∈ bin.slots) → exec i s = .next s.block))) ∧
  (∀ (d a b : BitVec 7) (l : EL) (s : State) (i : Instr) (x : EArgs), (i, x) ∈ [(.taskSpawn d a b, s.wave.engCompact), (.taskSpawnLong d a b l, engLong l)] →
    EngReady s x [d.toNat, a.toNat, b.toNat] → s.checkAll s.myGang.asid [⟨.blockRead, (s.wave.sreg a.toNat).toNat, 160, 32⟩] = .ok →
    s.genDone s.cur 4 = true →
    (s.readyRoom = false → exec i s = .next s.block) ∧
    (s.readyRoom = true →
      (∀ n t, s.submit s.myGang.asid (s.wave.sreg a.toNat) (some (s.wave.sreg b.toNat)) {} = .taken n t → exec i s = .next (answered t x d.toNat (compWord 7 0 0 0))) ∧
      (s.submit s.myGang.asid (s.wave.sreg a.toNat) (some (s.wave.sreg b.toNat)) {} = .dropped →
        ∃ n, exec i s = .next (answered s x d.toNat (compWord 7 6 0 n))))) ∧
  (∀ (d a b : BitVec 7) (l : EL) (s : State) (i : Instr) (x : EArgs),
    (i, x) ∈ [(.claimTake d a b, s.wave.engCompact), (.claimTakeLong d a b l, engLong l)] → EngReady s x [d.toNat, b.toNat] →
    let base := (s.wave.sreg b.toNat).toNat % 256
    let cold : State := { s with l1 := s.l1.filter fun y => y.core != s.wave.core }
    base + 5 ≤ s.wave.vregN →
    (s.wave.bodyNo = none → exec i s = .next (answered s x d.toNat 0)) ∧
    (s.wave.bodyNo ≠ none → s.wave.taken = true → exec i s = .next (answered cold x d.toNat 0)) ∧
    (s.wave.bodyNo ≠ none → s.wave.taken = false → VFull s.wave (upto base 5) → ∃ t word, exec i s = .next (answered t x d.toNat word) ∧ t.wave.taken = true) ∧
    (s.myLaunch.tainted = false → s.wave.bodyNo ≠ none → s.wave.taken = false → VFull s.wave (upto base 5) → ∃ (v : Wave) (mask : BitVec 32),
      exec i s = .next (answered (cold.setWave v) x d.toNat (mask.setWidth 64)) ∧ v.taken = true ∧
      (∀ k, k < 32 → mask.getLsbD k = s.wave.items.any fun it => it.1 == k) ∧ (∀ n, v.sreg n = s.wave.sreg n ∧ v.sFull n = s.wave.sFull n) ∧
      (∀ n k, k < 32 → (n < base ∨ base + 5 ≤ n ∨ ¬ s.wave.items.any (fun it => it.1 == k)) → v.lane n k = s.wave.lane n k) ∧
      (∀ k it, k < 32 → s.wave.items.find? (fun it => it.1 == k) = some (k, it) → v.lane base k = BitVec.ofNat 32 it ∧
        ∀ rec, s.myLaunch.item.find it = some rec → ∀ j, j < 4 → v.lane (base + 1 + j) k = nth 0 rec.pay j))) ∧
  (∀ (d a : BitVec 7) (l : EL) (s : State) (i : Instr) (x : EArgs) (g : Got), (i, x) ∈ [(.arrtgt d a, s.wave.engCompact), (.arrtgtLong d a l, engLong l)] →
    EngReady s x [d.toNat, a.toNat] → s.inPod = true → s.checkAll s.myGang.asid [⟨.blockRead, (s.wave.sreg a.toNat).toNat, 32, 8⟩] = .ok →
    s.genRead (s.wave.sreg a.toNat).toNat 32 = some g → g.s.gangs = s.gangs → g.s.arrivals = s.arrivals →
    let e := numAt g.bytes 0 4
    let off := numAt g.bytes 4 4
    let busy : Prop := ∃ y, s.arrivals.find e = some y ∧ y.gang ≠ s.wave.gang ∧ ∃ z, s.gangs.find y.gang = some z ∧ z.status ≠ .retired
    (255 < e ∨ off % 8 ≠ 0 ∨ s.myGang.vaultSize = 0 → ∃ n, exec i s = .next (answered g.s x d.toNat (compWord 5 6 0 n))) ∧
    (e ≤ 255 → off % 8 = 0 → s.myGang.vaultSize ≠ 0 → busy → ∃ n, exec i s = .next (answered g.s x d.toNat (compWord 5 8 0 n))) ∧
    (e ≤ 255 → off % 8 = 0 → s.myGang.vaultSize ≠ 0 → ¬ busy → exec i s = .next (answered { g.s with
      arrivals := if wordAt g.bytes 8 = 0 then s.arrivals.erase e
        else s.arrivals.set e ⟨s.wave.gang, off % s.myGang.vaultSize, wordAt g.bytes 8, wordAt g.bytes 16, 0⟩ } x d.toNat (compWord 5 0 0 e))))

namespace Sys2Proof.Claim

/-- The ordered depth of FP32 bits (R294): all bits inverted where the sign is 1, else the sign bit set. -/
def orderedDepth (d : Lane) : Nat := (if d.getLsbD 31 then ~~~d else d ||| 0x80000000#32).toNat

/-- The registers of the pixel blocks of a blend, at B and at the multiples of 4 behind it (R354). -/
def pixelRegs (b : BitVec 7) (n : Nat) : List Nat := ((List.range n).map fun i => b.toNat + 4 * i).flatMap fun base => blockRegs 2 4 base

/-- The cursor register with its low half at `k`. -/
def cursorAt (x : Word) (k : Nat) : Word := BitVec.ofNat 64 (x.toNat / 2 ^ 32 * 2 ^ 32 + k % 2 ^ 32)

end Sys2Proof.Claim

/-- R18, R279, R294, R303, R352 to R357: the splat forms of a wave. -/
def Sys2Proof.Claim.SplatFormsAnswer : Prop :=
  (∀ (d : BitVec 8) (a b : BitVec 7) (l : EL) (s : State) (i : Instr) (x : EArgs), (i, x) ∈ [(.kemit d a b, s.wave.engCompact), (.kemitLong d a b l, engLong l)] →
    EngReady s x [a.toNat, a.toNat + 1] → VFull s.wave [b.toNat, b.toNat + 1, b.toNat + 2, d.toNat] →
    let h := s.wave.sreg a.toNat
    let cap := (s.wave.sreg (a.toNat + 1)).toNat % 2 ^ 28
    let lanes := (List.range 32).filter (s.wave.takes x.pred)
    s.checkAll s.myGang.asid [⟨.engBoth, h.toNat, 8, 16⟩, ⟨.engBoth, (h + 16).toNat, 16 * cap, 1⟩] = .ok →
    (lanes = [] → x.acq = false → exec i s = .next (done s x.len id)) ∧
    (lanes = [] → x.acq = true → exec i s = .next (done { s with nextId := s.nextId + 1 } x.len fun w => { w with acqs := w.acqs ++ [(s.nextId, x.scope)] })) ∧
    (∀ p span, lanes ≠ [] → s.trackerRoom s.wave.core = true → s.trans s.myGang.asid h.toNat = .ok p span → pteRmt p = false → h.toNat % 8 = 0 →
      ∃ t o, exec i s = .next t ∧ t.ops = s.ops ++ [o] ∧ o.tracker = true ∧ o.wave = s.cur ∧ o.rel = (if x.rel then some x.scope else none) ∧
        o.acc = [⟨.phys (ptePa p span h.toNat), h.toNat, pteExpz p, pteMt p == 0, .rmw .add (BitVec.ofNat 64 lanes.length) 8 0, none⟩] ∧
        o.fill = .emit d.toNat h.toNat cap (lanes.map fun k => (k, 2 ^ 40 * ((s.wave.lane b.toNat k).toNat % 2 ^ 24) +
          2 ^ 8 * orderedDepth (s.wave.lane (b.toNat + 1) k), (s.wave.lane (b.toNat + 2) k).toNat)) ∧
        t.wave.vFull d.toNat = false ∧ (∀ n, n ≠ d.toNat → t.wave.vFull n = s.wave.vFull n) ∧ t.wave.icount = s.wave.icount + 1 ∧ t.mem = s.mem)) ∧
  (∀ (d a b : BitVec 7) (l : EL) (s : State) (i : Instr) (x : EArgs), (i, x) ∈ [(.vblend d a b, s.wave.engCompact), (.vblendLong d a b l, engLong l),
      (.vblendg d a b, s.wave.engCompact), (.vblendgLong d a b l, engLong l)] → AtInstr s → b.toNat % 16 ≠ 0 → exec i s = .next s.illegal) ∧
  (∀ (d a b : BitVec 7) (l : EL) (s : State) (i : Instr) (x : EArgs), (i, x) ∈ [(.vblend d a b, s.wave.engCompact), (.vblendLong d a b l, engLong l)] →
    EngReady s x [d.toNat, a.toNat, a.toNat + 1, a.toNat + 2, a.toNat + 3] → b.toNat % 16 = 0 → VFull s.wave (pixelRegs b 4) →
    let k := (s.wave.sreg (a.toNat + 3)).toNat % 2 ^ 32
    ∀ id rec t, s.readEntry (s.wave.sreg a.toNat) (s.wave.sreg (a.toNat + 1)) k = .ok id rec t →
      let r := t.wave.blendEntry x.pred rec (s.wave.sreg (a.toNat + 2)) b.toNat
      let w2 (row col k : Nat) : Lane := r.1.lane (16 * (b.toNat / 16 + row) + col) k
      t.waves = s.waves → ∃ below : Bool, (below = true ↔ ∀ r c k, r < 2 → c < 4 → k < 32 → s.wave.takes x.pred k = true →
          (f32 (w2 r c k)).cmp (.num false 1 (-8)) = some .lt) ∧ exec i s = .next (answered (t.setWave (r.1.setS (a.toNat + 3) (cursorAt (r.1.sreg (a.toNat + 3)) (k + 1)))) x d.toNat
        (blendStatus id (recKind rec) below (r.2 == 0) false))) ∧
  (∀ (d a b : BitVec 7) (l : EL) (s : State) (i : Instr) (x : EArgs), (i, x) ∈ [(.vblendg d a b, s.wave.engCompact), (.vblendgLong d a b l, engLong l)] →
    EngReady s x [d.toNat, a.toNat, a.toNat + 1, a.toNat + 2, a.toNat + 3] → b.toNat % 16 = 0 → VFull s.wave (pixelRegs b 4) →
    VFull s.wave (((List.range 3).map fun j => b.toNat + 32 + 4 * j).flatMap fun base => blockRegs 2 4 base) → VFull s.wave [b.toNat + 44] →
    let k := (s.wave.sreg (a.toNat + 3)).toNat % 2 ^ 32
    (k = 0 → exec i s = .next (answered s x d.toNat (BitVec.ofNat 64 (2 ^ 37)))) ∧
    (k ≠ 0 → ∀ id rec t, s.readEntry (s.wave.sreg a.toNat) (s.wave.sreg (a.toNat + 1)) (k - 1) = .ok id rec t →
      let r := t.wave.gradEntry x.pred rec (s.wave.sreg (a.toNat + 2)) b.toNat
      let v := r.1.setV (b.toNat + 44) (r.2.1 ++ copies 16 0)
      exec i s = .next (answered (t.setWave (v.setS (a.toNat + 3) (cursorAt (v.sreg (a.toNat + 3)) (k - 1)))) x d.toNat
        (blendStatus id (recKind rec) false (r.2.2 == 0) false)))) ∧
  (∀ (w : Wave) (rec : List Lane) (b : Nat) (alpha : Lane) (r c l : Nat), r < 2 → c < 4 → l < 32 → b % 16 = 0 → (∀ n, (w.vreg n).length = 32) →
    let reg (ch : Nat) := 16 * (b / 16 + r) + 4 * ch + c
    let t := w.lane (reg 0) l
    let wt := toF32 0 ((f32 t).mul (f32 alpha))
    let v := w.blendPixel rec b alpha (r, c) l
    v.lane (reg 0) l = toF32 0 ((f32 t).sub (f32 wt)) ∧
    (∀ ch, ch < 3 → v.lane (reg (ch + 1)) l = toF32 0 (((f32 wt).mul (f32 (nth 0 rec (11 + ch)))).add 0 (f32 (w.lane (reg (ch + 1)) l)))) ∧
    (∀ n k, (k ≠ l ∨ ∀ ch, ch < 4 → n ≠ reg ch) → v.lane n k = w.lane n k))

namespace Sys2Proof.Claim

/-- The centre of pixel (r, c), lane l, of a tile whose origin is `o` (R292, R354). -/
def centreX (o : Word) (l : Nat) : Lane := toF32 0 (.num false (2 * (o.toNat % 2 ^ 32 + l % 16) + 1) (-1))
def centreY (o : Word) (r c l : Nat) : Lane := toF32 0 (.num false (2 * (o.toNat / 2 ^ 32 + 8 * r + 2 * c + l / 16) + 1) (-1))

/-- min(α₀, 0.99), both in FP32, and the value that is carried on where α₀ is NaN (R293). -/
def alphaCapped (a0 : Lane) : Lane := if (f32 a0).cmp (f32 0x3f7d70a4) = some .gt then 0x3f7d70a4 else a0

/-- The entry is skipped at a pixel: alpha is NaN or below 1/255 (R293). -/
def Skipped (a0 : Lane) : Prop := (f32 (alphaCapped a0)).cmp (f32 0x3b808081) = none ∨ (f32 (alphaCapped a0)).cmp (f32 0x3b808081) = some .lt

/-- α₀ of a record at a pixel of a tile. -/
def alphaAt (rec : List Lane) (o : Word) (r c l : Nat) : Lane := alpha0 rec (centreX o l) (centreY o r c l)

end Sys2Proof.Claim

/-- R292: α₀ of a record at a pixel centre: a Gaussian at q = 0, a point, a triangle, and a record of no kind. -/
def Sys2Proof.Claim.AlphaOfARecord : Prop :=
  ∀ (rec : List Lane) (px py : Lane),
    let word (i : Nat) : FVal := f32 (nth 0 rec i)
    let opac := nth 0 rec 14
    let kind := (nth 0 rec 15).toNat % 4
    let dx := (f32 px).add 0 (word 0).neg
    let dy := (f32 py).add 0 (word 1).neg
    let covers (i : Nat) : Prop :=
      let e := f32 (toF32 0 ((((word (3 * i)).mul (f32 px)).add 0 ((word (3 * i + 1)).mul (f32 py))).add 0 (word (3 * i + 2))))
      let zero : FVal := .num false 0 0
      e.cmp zero = some .gt ∨ (e.cmp zero = some .eq ∧ ((word (3 * i)).cmp zero = some .gt ∨ ((word (3 * i)).cmp zero = some .eq ∧ (word (3 * i + 1)).cmp zero = some .gt)))
    (kind = 0 → (∃ neg e, (((word 2).mul (dx.mul dx)).add 0 (((word 3).mul (dx.mul dy)).mul (.num false 1 1))).add 0 ((word 4).mul (dy.mul dy)) = .num neg 0 e) →
      f32 opac ≠ .nan → alpha0 rec px py = opac) ∧
    (kind = 1 → (((dx.mul dx).add 0 (dy.mul dy)).cmp (word 2) = some .lt ∨ ((dx.mul dx).add 0 (dy.mul dy)).cmp (word 2) = some .eq) → alpha0 rec px py = opac) ∧
    (kind = 1 → ¬ (((dx.mul dx).add 0 (dy.mul dy)).cmp (word 2) = some .lt ∨ ((dx.mul dx).add 0 (dy.mul dy)).cmp (word 2) = some .eq) → alpha0 rec px py = 0) ∧
    (kind = 2 → (covers 0 ∧ covers 1 ∧ covers 2) → alpha0 rec px py = opac) ∧
    (kind = 2 → ¬ (covers 0 ∧ covers 1 ∧ covers 2) → alpha0 rec px py = 0) ∧
    (kind = 3 → alpha0 rec px py = 0)

/-- R293, R303, R355: `vblend` leaves the pixels at which its entry is skipped, and those of lanes that do not take part, as they are, and blends the
entry at every other pixel; no other register changes. -/
def Sys2Proof.Claim.BlendsSkipOrBlend : Prop :=
  ∀ (w : Wave) (p : Nat) (rec : List Lane) (o : Word) (b : Nat), b % 16 = 0 → (∀ n, (w.vreg n).length = 32) →
    let v := (w.blendEntry p rec o b).1
    let reg (r c ch : Nat) := 16 * (b / 16 + r) + 4 * ch + c
    (∀ r c l, r < 2 → c < 4 → l < 32 →
      let a := f32 (alphaCapped (alphaAt rec o r c l))
      let t := w.lane (reg r c 0) l
      let wt := toF32 0 ((f32 t).mul a)
      (w.takes p l = false ∨ Skipped (alphaAt rec o r c l) → ∀ ch, ch < 4 → v.lane (reg r c ch) l = w.lane (reg r c ch) l) ∧
      (w.takes p l = true → ¬ Skipped (alphaAt rec o r c l) → v.lane (reg r c 0) l = toF32 0 ((f32 t).sub (f32 wt)) ∧
        ∀ ch, ch < 3 → v.lane (reg r c (ch + 1)) l = toF32 0 (((f32 wt).mul (f32 (nth 0 rec (11 + ch)))).add 0 (f32 (w.lane (reg r c (ch + 1)) l))))) ∧
    (∀ n l, (∀ r c ch, r < 2 → c < 4 → ch < 4 → n ≠ reg r c ch) → v.lane n l = w.lane n l) ∧
    ((w.blendEntry p rec o b).2 = 0 ↔ ∀ r c l, r < 2 → c < 4 → l < 32 → w.takes p l = true → Skipped (alphaAt rec o r c l))

/-- R306, R356: what `vblendg` does at one pixel, each field of the gradient rounded once (the model's reading, log 24), and the sum over the pixels that take part and are not skipped, in the order of R86. -/
def Sys2Proof.Claim.GradientsOfAnEntry : Prop :=
  (∀ (w : Wave) (rec : List Lane) (b : Nat) (a0 alpha : Lane) (dx dy : FVal) (r c l : Nat), r < 2 → c < 4 → l < 32 → b % 16 = 0 →
    (∀ n, (w.vreg n).length = 32) →
    let reg (ch : Nat) := 16 * (b / 16 + r) + 4 * ch + c
    let word (i : Nat) : FVal := f32 (nth 0 rec i)
    let al := f32 alpha
    let rest := (FVal.num false 1 0).sub al
    let t := toF32 0 ((f32 (w.lane (reg 0) l)).div (f32 (toF32 0 rest)))
    let behind (ch : Nat) : FVal := f32 (w.lane (reg (ch + 1)) l)
    let g (ch : Nat) : FVal := f32 (w.lane (16 * (b / 16 + 2 + r) + 4 * ch + c) l)
    let dal := (List.range 3).foldl (fun (v : FVal) ch => v.add 0 (((g ch).mul (f32 t)).mul ((word (11 + ch)).sub (behind ch)))) (.num false 0 0)
    let half : FVal := .num true 1 (-1)
    let two : FVal := .num false 1 1
    let y := w.gradPixel rec b a0 alpha dx dy (r, c) l
    let clamp : Prop := (f32 a0).cmp (f32 0x3f7d70a4) = some .gt
    let pix (i : Nat) : Lane := nth 0 y.2 i
    y.1.lane (reg 0) l = t ∧
    (∀ ch, ch < 3 → y.1.lane (reg (ch + 1)) l = toF32 0 (((word (11 + ch)).mul al).add 0 (f32 (toF32 0 (rest.mul (behind ch)))))) ∧
    (∀ n k, (k ≠ l ∨ ∀ ch, ch < 4 → n ≠ reg ch) → y.1.lane n k = w.lane n k) ∧
    (∀ ch, ch < 3 → pix (11 + ch) = toF32 0 (((g ch).mul al).mul (f32 t))) ∧
    (clamp ∨ (nth 0 rec 15).toNat % 4 ≠ 0 → ∀ i, i < 5 → pix i = 0) ∧
    (¬ clamp → (nth 0 rec 15).toNat % 4 = 0 →
      let geo (dq : FVal) : Lane := toF32 0 (((dal.mul half).mul (f32 a0)).mul dq)
      pix 0 = geo (two.neg.mul (((word 2).mul dx).add 0 ((word 3).mul dy))) ∧ pix 1 = geo (two.neg.mul (((word 3).mul dx).add 0 ((word 4).mul dy))) ∧
      pix 2 = geo (dx.mul dx) ∧ pix 3 = geo ((two.mul dx).mul dy) ∧ pix 4 = geo (dy.mul dy)) ∧
    (∀ i, 5 ≤ i → i < 11 → pix i = 0) ∧ pix 15 = 0 ∧
    (clamp → pix 14 = 0) ∧ (¬ clamp → pix 14 = toF32 0 ((dal.mul (f32 a0)).div (word 14)))) ∧
  (∀ (w : Wave) (p : Nat) (rec : List Lane) (o : Word) (b : Nat), b % 16 = 0 → (∀ n, (w.vreg n).length = 32) →
    let y := w.gradEntry p rec o b
    let reg (r c ch : Nat) := 16 * (b / 16 + r) + 4 * ch + c
    let at_ (r c l : Nat) := w.gradPixel rec b (alphaAt rec o r c l) (alphaCapped (alphaAt rec o r c l)) ((f32 (centreX o l)).sub (f32 (nth 0 rec 0)))
      ((f32 (centreY o r c l)).sub (f32 (nth 0 rec 1))) (r, c) l
    (∀ r c l, r < 2 → c < 4 → l < 32 →
      (w.takes p l = false ∨ Skipped (alphaAt rec o r c l) → ∀ ch, ch < 4 → y.1.lane (reg r c ch) l = w.lane (reg r c ch) l) ∧
      (w.takes p l = true → ¬ Skipped (alphaAt rec o r c l) → ∀ ch, ch < 4 → y.1.lane (reg r c ch) l = (at_ r c l).1.lane (reg r c ch) l)) ∧
    (∀ n l, (∀ r c ch, r < 2 → c < 4 → ch < 4 → n ≠ reg r c ch) → y.1.lane n l = w.lane n l) ∧
    (∀ px : List (Nat × Nat × Nat), px.Pairwise (fun e f => e.1 < f.1 ∨ (e.1 = f.1 ∧ (e.2.1 < f.2.1 ∨ (e.2.1 = f.2.1 ∧ e.2.2 < f.2.2)))) →
      (∀ r c l, (r, c, l) ∈ px ↔ r < 2 ∧ c < 4 ∧ l < 32 ∧ w.takes p l = true ∧ ¬ Skipped (alphaAt rec o r c l)) →
      y.2.1 = px.foldl (fun acc q => List.zipWith f32add acc (at_ q.1 q.2.1 q.2.2).2) (List.replicate 16 0) ∧ y.2.2 = px.length))

/-- R292 to R294, R303, R306, R352 to R357: the splat forms of a wave, the alpha of a record at a pixel, the entries that are skipped, and the gradient of a record, each of whose fields is rounded once (log 24, the model's reading). -/
def Obligations.SplatForms : Prop := Sys2Proof.Claim.SplatFormsAnswer ∧ Sys2Proof.Claim.AlphaOfARecord ∧ Sys2Proof.Claim.BlendsSkipOrBlend ∧ Sys2Proof.Claim.GradientsOfAnEntry

namespace Sys2Proof.Claim

/-- The state in which a fabric form sends pieces: the device takes part in its pod, no outcome is pending, and the tracker has room (R409, R441). -/
def MaySend (s : State) : Prop := s.inPod = true ∧ s.outcomePending = false ∧ s.trackerRoom s.wave.core = true

/-- The state in which one reads: an outcome that is pending holds its requests, not the form (R409, R444). -/
def MayRead (s : State) : Prop := s.inPod = true ∧ s.trackerRoom s.wave.core = true

/-- The pieces that a state has sent beyond those of another: target, address, step and bytes, in order (R396, R404). -/
def sentSince (s t : State) : List (BitVec 16 × Nat × Word × List Byte) :=
  (t.sent.drop s.sent.length).map fun q => (q.piece.dst, q.piece.pa, q.piece.step, q.piece.bytes.map (·.2))

/-- The read requests likewise: target, address and length, and where each byte goes. -/
def askedSince (s t : State) : List (BitVec 16 × Nat × Nat × List (Nat × Nat)) :=
  (t.reads.drop s.reads.length).map fun q => (q.1.dst, q.1.pa, q.1.len, q.2)

/-- The request packets of a state leave, unless a step's outcome is pending (R409). -/
def AskedNow (s t : State) : Prop :=
  t.netOut = if s.outcomePending = true then s.netOut else s.netOut ++ (t.reads.drop s.reads.length).map fun q => Packet.readReq q.1

/-- What a run of a write carries: target, 64-byte block, step and bytes (R396, R404). -/
def carried (s : State) (data : List Byte) (r : RemRun) : BitVec 16 × Nat × Word × List Byte :=
  (r.dev, r.pa / 64 * 64, s.step.stepno, r.bytes.map fun b => nth 0 data b.2)

/-- What a run of a read asks for. -/
def asked (r : RemRun) : BitVec 16 × Nat × Nat × List (Nat × Nat) := (r.dev, r.pa, r.bytes.length, r.bytes)

/-- The send allowance toward each target has room for every run (R411). -/
def Allowed (s : State) (runs : List RemRun) : Prop := ∀ r ∈ runs, runs.length ≤ s.allowLeft r.dev

/-- The port that S[A] names (R448). -/
def portOf (x : Word) : Option (Bool × Nat) :=
  let n := x.toNat
  if n < 256 ∧ n % 128 < (if 128 ≤ n then 96 else 31) then some (decide (128 ≤ n), n % 128) else none

end Sys2Proof.Claim

/-- R396, R404, R409, R413, R441 to R445, R453: the fabric transfers of a wave. What TINFO names in a device of no pod (log 101), and that a length which is no
multiple of 4 gives BADDESC (log 67), are the model's readings. -/
def Sys2Proof.Claim.FabricTransfers : Prop :=
  (∀ (d a : BitVec 7) (l : EL) (s : State) (i : Instr) (x : EArgs), (i, x) ∈ [(.stepArrive d, s.wave.engCompact), (.stepArriveLong d l, engLong l),
      (.stepWait d, s.wave.engCompact), (.stepWaitLong d l, engLong l), (.arrtgt d a, s.wave.engCompact), (.arrtgtLong d a l, engLong l)] →
    EngReady s x [d.toNat, a.toNat] → s.inPod = false → exec i s = .next (s.trap Code.fabNotMember (BitVec.ofNat 64 (2 ^ 32)))) ∧
  (∀ (d a b : BitVec 7) (l : EL) (s : State) (i : Instr) (x : EArgs) (dst : Nat), (i, x, dst) ∈ [(.fblkw d a b, s.wave.engCompact, a.toNat + 1),
      (.fblkwLong d a b l, engLong l, a.toNat + 1), (.fblkr d a b, s.wave.engCompact, a.toNat), (.fblkrLong d a b l, engLong l, a.toNat),
      (.fst d a b, s.wave.engCompact, a.toNat), (.fstLong d a b l, engLong l, a.toNat), (.fld d a, s.wave.engCompact, a.toNat), (.fldLong d a l, engLong l, a.toNat)] →
    a.toNat ≠ 127 → EngReady s x [d.toNat, a.toNat, a.toNat + 1, b.toNat] → s.inPod = false →
    ∀ p n, s.trans s.myGang.asid (s.wave.sreg dst).toNat = .ok p n →
      exec i s = .next (s.trap Code.fabNotMember (BitVec.ofNat 64 ((if pteRmt p then (pteDev p).toNat else 0) + 2 ^ 32)))) ∧
  (∀ (d a b : BitVec 7) (l : EL) (s : State) (i : Instr) (x : EArgs) (write : Bool),
    (i, x, write) ∈ [(.fblkw d a b, s.wave.engCompact, true), (.fblkwLong d a b l, engLong l, true), (.fblkr d a b, s.wave.engCompact, false),
      (.fblkrLong d a b l, engLong l, false)] → a.toNat ≠ 127 → EngReady s x [d.toNat, a.toNat, a.toNat + 1, b.toNat] → s.inPod = true →
    let src := s.wave.sreg a.toNat
    let dst := s.wave.sreg (a.toNat + 1)
    let f := s.wave.sreg b.toNat
    let n := f.toNat % 2 ^ 32
    let lv := f.getLsbD 41
    src.toNat % 4 = 0 → dst.toNat % 4 = 0 →
    (n % 4 ≠ 0 → ∃ count, exec i s = .next (answered s x d.toNat (compWord 5 6 0 count))) ∧
    (n = 0 → exec i s = .next (answered s x d.toNat (compWord 5 0 0 0))) ∧
    (n % 4 = 0 → n ≠ 0 → MayRead s →
      let runs := s.blockRuns s.myGang.asid (if write then dst else src).toNat n
      s.checkAll s.myGang.asid (⟨if write then .rmtWrite else .rmtRead, (if write then dst else src).toNat, n, 4⟩ ::
        if lv then [] else [⟨if write then .engRead else .engWrite, (if write then src else dst).toNat, n, 4⟩]) = .ok →
      (write = true → s.outcomePending = true → exec i s = .next s.block) ∧
      (write = true → s.outcomePending = false → s.spillCheck (runs.map (·.dev)) = none →
        let r := Eng.read { s := s, via := some (s.myTlb, s.me) } s.wave.gang ⟨lv, src⟩ n
        r.2.ungranted = false → ∃ t c, exec i s = .next t ∧ Accepted s t t x d.toNat 5 0 (.bulkWrite []) .running c ∧
          c.word = compWord 5 0 0 runs.length ∧ sentSince s t = runs.map (carried s r.1) ∧ (Allowed s runs → t.mem = r.2.s.mem)) ∧
      (write = true → s.outcomePending = false → ∀ dev, s.spillCheck (runs.map (·.dev)) = some dev →
        exec i s = .next (s.trap Code.stepSpillFull (dev.setWidth 64))) ∧
      (write = false → ∃ t c, exec i s = .next t ∧ Accepted s s t x d.toNat 5 0 (.bulkRead dst.toNat lv) .running c ∧ c.data = List.replicate n 0 ∧
        c.word = compWord 5 0 0 runs.length ∧ askedSince s t = runs.map asked ∧ AskedNow s t))) ∧
  (∀ (d a : BitVec 7) (l : EL) (s : State) (i : Instr) (x : EArgs), (i, x) ∈ [(.fld d a, s.wave.engCompact), (.fldLong d a l, engLong l)] →
    EngReady s x [d.toNat, a.toNat] → MayRead s → s.checkAll s.myGang.asid [⟨.rmtRead, (s.wave.sreg a.toNat).toNat, 8, 8⟩] = .ok →
    ∃ t c, exec i s = .next t ∧ Accepted s s t x d.toNat 5 0 .fabLoad .running c ∧
      askedSince s t = (s.blockRuns s.myGang.asid (s.wave.sreg a.toNat).toNat 8).map asked ∧ AskedNow s t) ∧
  (∀ (d a b : BitVec 7) (l : EL) (s : State) (i : Instr) (x : EArgs), (i, x) ∈ [(.fst d a b, s.wave.engCompact), (.fstLong d a b l, engLong l)] →
    EngReady s x [d.toNat, a.toNat, b.toNat] → MaySend s → s.checkAll s.myGang.asid [⟨.rmtWrite, (s.wave.sreg a.toNat).toNat, 8, 8⟩] = .ok →
    let runs := s.blockRuns s.myGang.asid (s.wave.sreg a.toNat).toNat 8
    s.spillCheck (runs.map (·.dev)) = none →
    ∃ t c, exec i s = .next t ∧ Accepted s t t x d.toNat 5 0 (.fabStore s.step.stepno) .running c ∧ c.word = compWord 5 0 0 s.step.stepno.toNat ∧
      sentSince s t = runs.map (carried s (toBytes 8 (s.wave.sreg b.toNat).toNat)) ∧ (Allowed s runs → t.mem = s.mem))

/-- R423, R448: `lnkdrn` and `lnkctl`. Without the launch's grant both raise PERM_FAULT; a port that does not exist gives BADDESC. -/
def Sys2Proof.Claim.LinkControl : Prop :=
  ∀ (d a b : BitVec 7) (l : EL) (s : State),
    let port := portOf (s.wave.sreg a.toNat)
    let sel := (s.wave.sreg b.toNat).toNat % 8
    let forms : List (Instr × EArgs × Nat) := [(.lnkctlRead d a b, s.wave.engCompact, if 5 ≤ sel then sel else 0), (.lnkctlHold d a b, s.wave.engCompact, 1),
      (.lnkctlRelease d a b, s.wave.engCompact, 2), (.lnkctlDisable d a b, s.wave.engCompact, 3), (.lnkctlEnable d a b, s.wave.engCompact, 4),
      (.lnkctlLong d a b l, engLong l, sel)]
    let drains : List (Instr × EArgs) := [(.lnkdrn d a, s.wave.engCompact), (.lnkdrnLong d a l, engLong l)]
    (∀ i x op, (i, x, op) ∈ forms → EngReady s x [d.toNat, a.toNat, b.toNat] →
      (s.fabctl = false → exec i s = .next (s.trap Code.permFault 0)) ∧
      (s.fabctl = true → (4 < op ∨ port = none) → ∃ n, exec i s = .next (answered s x d.toNat (compWord 5 6 0 n))) ∧
      (s.fabctl = true → op ≤ 4 → s.trackerRoom s.wave.core = true → ∀ g p, port = some (g, p) →
        let y := s.port g p
        (op = 0 ∨ (op = 1 ∧ y.state = .held) → exec i s = .next (answered s x d.toNat (compWord 5 0 0 y.count))) ∧
        (op = 4 → y.state ≠ .down → exec i s = .next (answered (s.putPort g p { y with light := true }) x d.toNat (compWord 5 0 0 y.count))) ∧
        (op = 1 → y.state = .down → exec i s = .next (answered (s.putPort g p { y with hold := true }) x d.toNat (compWord 5 0 0 { y with hold := true }.count))) ∧
        (op = 1 → y.state = .up → exec i s = .next (answered (((s.putPort g p { y with state := .held }).portEvent g p).routesChanged) x d.toNat
          (compWord 5 0 0 { y with state := .held }.count))) ∧
        (op = 2 → y.state = .held → y.nbrchg = true → exec i s = .next (answered s x d.toNat (compWord 5 8 0 y.count))) ∧
        (op = 2 → y.state = .held → y.nbrchg = false → exec i s = .next (answered (((s.putPort g p { y with state := .up }).portEvent g p).routesChanged) x d.toNat
          (compWord 5 0 0 { y with state := .up }.count))) ∧
        (op = 2 → y.state ≠ .held → exec i s = .next (answered (s.putPort g p { y with hold := false }) x d.toNat (compWord 5 0 0 { y with hold := false }.count))) ∧
        (op = 3 → ∃ t, exec i s = .next (answered t x d.toNat (compWord 5 0 0 { y with hold := false, state := .down }.count)) ∧
          t.port g p = { y with hold := false, light := false, state := .down }) ∧
        (op = 4 → y.state = .down → ∃ t c, exec i s = .next t ∧ Accepted s s t x d.toNat 5 0 (.linkEnable g p) .running c ∧
          c.deadline = some (s.clock 0 + 100000 * s.mhz) ∧ t.port g p = { y with light := true }))) ∧
    (∀ i x, (i, x) ∈ drains → EngReady s x [d.toNat, a.toNat] →
      (s.fabctl = false → exec i s = .next (s.trap Code.permFault 0)) ∧
      (s.fabctl = true → port = none → ∃ n, exec i s = .next (answered s x d.toNat (compWord 5 6 0 n))) ∧
      (s.fabctl = true → s.trackerRoom s.wave.core = true → ∀ g p, port = some (g, p) →
        ((s.port g p).state = .down → exec i s = .next (answered s x d.toNat (compWord 5 9 0 (s.port g p).count))) ∧
        ((s.port g p).state ≠ .down → ∃ t c, exec i s = .next t ∧ Accepted s s t x d.toNat 5 0 (.linkDrain g p) .running c ∧
          t.netOut = s.netOut ++ [Packet.marker g p c.id])))

/-- R396, R404, R409, R413, R423, R441 to R445, R448, R453: fabric transfers and link control. TARGET of FAB_NOT_MEMBER in a device of no pod (log 101) and BADDESC for a length that is no multiple of 4 (log 67) are the model's readings. -/
def Obligations.FabricTransfersAndLinkControl : Prop := Sys2Proof.Claim.FabricTransfers ∧ Sys2Proof.Claim.LinkControl

/-- R158, R282, R408, R446, R453: `step.arrive`, `step.wait` and `bar.pod`, whose arrival is at the step that is current when it issues, as after a step
fault that its trap has answered. -/
def Obligations.PodSteps : Prop :=
  ∀ (d : BitVec 7) (l : EL) (s : State),
    let w := s.wave
    let cold : State := { s with l1 := s.l1.filter fun y => y.core != w.core }
    let outcome (n : Word) := s.step.outcomes.find? fun o => o.1 == n
    (∀ i x, (i, x) ∈ [(.stepArrive d, w.engCompact), (.stepArriveLong d l, engLong l)] → EngReady s x [d.toNat] → s.inPod = true →
      exec i s = .next (answered (s.setWave { w with stepArr := match w.stepArr with
        | some (some c, _) => some (some c, s.step.stepno)
        | _ => some (some s.step.stepno, s.step.stepno) }) x d.toNat s.step.stepno)) ∧
    (∀ i x n, (i, x) ∈ [(.stepWait d, w.engCompact), (.stepWaitLong d l, engLong l)] → AtInstr s → w.inHandler = false → x.scope ≤ 4 → SFull w [d.toNat] →
      ((w.waiting = none ∧ s.inPod = true ∧ (x.rel = true → s.genDone s.cur x.scope = true) ∧ n = (match w.stepArr with
        | some (_, m) => m
        | none => s.step.stepno)) ∨ w.waiting = some (.step n false none)) →
      (outcome n = none → exec i s = .next (State.block (s.setWave { w with waiting := some (.step n false none) }))) ∧
      (∀ m, outcome n = some (m, .commit, false) → exec i s = .next (answered (cold.setWave { w with stepArr := none }) x d.toNat (compWord 5 0 0 n.toNat))) ∧
      (s.unfinished s.cur = false → ∀ m, outcome n = some (m, .commit, true) → exec i s = .next (State.trap (s.setWave { w with stepArr := none }) Code.stepConflict n)) ∧
      (s.unfinished s.cur = false → ∀ m c, outcome n = some (m, .abort, c) → exec i s = .next (State.trap (s.setWave { w with stepArr := none }) Code.stepAbort n))) ∧
    (s.myLaunch.kernel.bscope ≤ 5 → AtInstr s → exec .barPod s = .next s.illegal) ∧
    (s.myLaunch.kernel.bscope = 6 → AtInstr s → w.waiting = none → s.inPod = false → exec .barPod s = .next (s.trap Code.fabNotMember (BitVec.ofNat 64 (2 ^ 32)))) ∧
    (∀ n, s.myLaunch.kernel.bscope = 6 → AtInstr s → ((w.waiting = none ∧ s.inPod = true ∧ n = s.step.stepno) ∨ w.waiting = some (.step n true none)) →
      (outcome n = none → exec .barPod s = .next (State.block (s.setWave { w with waiting := some (.step n true none) }))) ∧
      (∀ m, outcome n = some (m, .commit, false) → exec .barPod s = .next (done cold 1 id)) ∧
      (s.unfinished s.cur = false → ∀ m, outcome n = some (m, .commit, true) → exec .barPod s = .next (s.trap Code.stepConflict n)) ∧
      (s.unfinished s.cur = false → ∀ m c, outcome n = some (m, .abort, c) → exec .barPod s = .next (s.trap Code.stepAbort n))) ∧
    (∀ n i x, (i, x) ∈ [(.stepWait d, w.engCompact), (.stepWaitLong d l, engLong l)] → AtInstr s → w.inHandler = false → x.scope ≤ 4 → SFull w [d.toNat] →
      (w.waiting = some (.step n false (some (.commit, false))) →
        exec i s = .next (answered (cold.setWave { w with stepArr := none }) x d.toNat (compWord 5 0 0 n.toNat))) ∧
      (s.unfinished s.cur = false → ∀ c, w.waiting = some (.step n false (some (.abort, c))) →
        exec i s = .next (State.trap (s.setWave { w with stepArr := none }) Code.stepAbort n))) ∧
    (∀ n, AtInstr s → s.myLaunch.kernel.bscope = 6 →
      (w.waiting = some (.step n true (some (.commit, false))) → exec .barPod s = .next (done cold 1 id)) ∧
      (s.unfinished s.cur = false → ∀ c, w.waiting = some (.step n true (some (.abort, c))) →
        exec .barPod s = .next (s.trap Code.stepAbort n)))

namespace Sys2Proof.Claim

/-- Nothing but the command `self` is under way that a write of it could spoil: no other running sort or gather (R298, R361), and no reserving loop (R314). -/
def OnlyCommand (s : State) (self : Option Nat) : Prop :=
  (∀ c ∈ s.cmds, c.status = .running → self = some c.id) ∧ ∀ x ∈ s.launches, x.2.kernel.mode ≠ 1

end Sys2Proof.Claim

/-- R370 to R376: a program of the collective engine. That one which comes to `col.step` in a device of no pod ends ABORTED is the model's reading (log 67). A wave gives the engine a program that it has read; the engine runs the program's
instructions one after another; a wave that issues one of them takes ILLEGAL. -/
def Obligations.CollectivePrograms : Prop :=
  (∀ (d a b : BitVec 7) (l : EL) (s : State) (i : Instr) (x : EArgs), (i, x) ∈ [(.colRun d a b, s.wave.engCompact), (.colRunLong d a b l, engLong l)] →
    EngReady s x [d.toNat, a.toNat, b.toNat] → ∀ blk t, s.issueRead x d.toNat (s.wave.sreg a.toNat).toNat 32 8 = .ok (blk, t) →
    let c : ColBlock := ⟨numAt blk 0 4, numAt blk 4 4, numAt blk 8 8, numAt blk 16 4 % 16, numAt blk 16 4 / 16 % 16, numAt blk 24 8⟩
    let base := (s.wave.sreg b.toNat).toNat
    let good : Prop := c.rank < c.size ∧ c.size ≤ 65536 ∧ c.chunk % 16 = 0 ∧ 16 ≤ c.chunk ∧ c.chunk ≤ 2 ^ 32 ∧ 1 ≤ c.colw ∧ 1 ≤ c.genw ∧ c.prog % 4 = 0
    (¬ good → ∃ n, exec i s = .next (answered t x d.toNat (compWord 4 6 0 n))) ∧
    (∀ u, good → State.readProg x d.toNat 1024 c.prog 0 [] t = .ok (none, u) → ∃ n, exec i s = .next (answered u x d.toNat (compWord 4 6 0 n))) ∧
    (∀ ws fin u, good → State.readProg x d.toNat 1024 c.prog 0 [] t = .ok (some (ws, fin), u) →
      let head : List Range := ⟨.engRead, c.prog, fin - c.prog, 4⟩ :: ⟨.engRead, base, 0, 8⟩ :: (colNames ws).map fun k => ⟨.engRead, base + 8 * k, 8, 8⟩
      (∀ e, u.checkAll u.myGang.asid head = .fault e → exec i s = .next (u.addrTrap e)) ∧
      (∀ p v, u.checkAll u.myGang.asid head = .ok → State.readParams x d.toNat base (colNames ws) [] u = .ok (p, v) → v.wave = s.wave → v.cmds = s.cmds →
        v.ops = s.ops → v.gangs = s.gangs → v.cur = s.cur → v.checkAll v.myGang.asid (head ++ colRanges c p ws) = .ok →
        ((colRanges c p ws).any (v.localDest v.myGang.asid) = true → ∃ n, exec i s = .next (answered v x d.toNat (compWord 4 6 0 n))) ∧
        ((colRanges c p ws).any (v.localDest v.myGang.asid) = false → (s.cmds.filter fun c => c.eng == 4 && c.unit == 0 && c.status == .queued).length < 4 →
          s.trackerRoom s.wave.core = true → ∃ w k, exec i s = .next w ∧ w.cmds = s.cmds ++ [k] ∧ k.op = .collective c.rank c.size c.chunk ws p ∧ k.eng = 4 ∧
            k.status = .queued ∧ k.dreg = some d.toNat ∧ k.tracker = true ∧ w.wave = accepted s.wave x d.toNat v.nextId)))) ∧
  (∀ (a b : BitVec 7) (s : State), s.party = .wave → AtInstr s → ∀ i ∈ [.colSend a b, .colRed a b, .colStep, .colEnd, .colSig a b], exec i s = .next s.illegal) ∧
  (∀ (a b : BitVec 7) (s : State) (x : ColCtx), s.party = .col → s.colCtx = some x →
    let off := x.chunk * ((x.rank + (x.size - x.run.k % x.size)) % x.size)
    let src := (x.p.get 0 a.toNat).toNat
    let dst := (x.p.get 0 b.toNat).toNat
    let next (t : State) (fired : List Nat) : State := { t.forget 2 with col := some { x.run with pos := x.run.pos + 1, waiting := none, fired := fired } }
    let finished (aborted : Bool) : State := { (s.forget 2).setCmd { x.cmd with
      status := .done, word := compWord 4 0 (if aborted then 1 else 0) x.run.k } with col := none }
    let e0 : Eng := { s := s, self := some x.cmd.id, via := some (tlbCol, 2), fired := x.run.fired, launches := [(s.gang x.cmd.gang).launch] }
    (∀ r, s.checkAllAs tlbCol 2 x.cmd.asid [⟨.engRead, src + off, x.chunk, 1⟩, ⟨.colSend, dst + off, x.chunk, 1⟩] = .ok →
      (s.outcomePending = true → exec (.colSend a b) s = .next s) ∧
      (s.outcomePending = false → s.spillCheck ((s.sendRunsOf x.cmd.asid (dst + off) x.chunk).map (·.dev)) = none →
        Eng.read e0 x.cmd.gang ⟨false, BitVec.ofNat 64 (src + off)⟩ x.chunk = r → r.2.bad = [] →
        let y := r.2.s.sendRuns (x.cmd.sender (r.2.s.gang x.cmd.gang).launch false none) r.1 (s.sendRunsOf x.cmd.asid (dst + off) x.chunk)
        exec (.colSend a b) s = .next (next (y.1.setCmd { x.cmd with pieces := x.cmd.pieces ++ y.2 }) x.run.fired))) ∧
    (s.checkAllAs tlbCol 2 x.cmd.asid [⟨.engRead, src + off, x.chunk, 1⟩, ⟨.engWrite, dst + off, x.chunk, 1⟩] = .ok →
      let e := (List.range (x.chunk / 4)).foldl (fun (e : Eng) k => e.redWord x.cmd.gang (dst + off + 4 * k) (src + off + 4 * k)) e0
      e.bad = [] → exec (.colRed a b) s = .next (next (e.s.setCmd x.cmd) e.fired)) ∧
    (x.cmd.pieces ≠ [] → exec (.colSig a b) s = .next s ∧ exec .colEnd s = .next s ∧ (x.run.waiting = none → exec .colStep s = .next s)) ∧
    (x.cmd.pieces = [] → x.cmd.erred = false → exec .colEnd s = .next (finished false)) ∧
    (x.cmd.pieces = [] → x.cmd.erred = true → ∃ t, exec .colEnd s = .next t ∧ t.col = none ∧
      t.cmdAt x.cmd.id = some { x.cmd with status := .done, word := compWord 4 3 0 x.run.k }) ∧
    (x.cmd.pieces = [] → x.run.waiting = none → s.inPod = true → exec .colStep s = .next { s with
      col := some { x.run with waiting := some s.step.stepno }
      step := { s.step with colArrived := s.step.colArrived || (s.pod.any fun p => p.part == 0) } }) ∧
    (∀ n m c, x.run.waiting = some n → s.step.outcomes.find? (fun o => o.1 == n) = some (m, .commit, c) →
      exec .colStep s = .next { s with col := some { x.run with k := x.run.k + 1, pos := x.run.pos + 1, waiting := none } }) ∧
    (∀ n m c, x.cmd.erred = false → x.run.waiting = some n → s.step.outcomes.find? (fun o => o.1 == n) = some (m, .abort, c) → exec .colStep s = .next (finished true)) ∧
    (∀ n, x.cmd.erred = false → x.run.waiting = some n → s.step.outcomes.find? (fun o => o.1 == n) = none → s.inPod = false → exec .colStep s = .next (finished true)) ∧
    (∀ p n, x.cmd.pieces = [] → s.checkAllAs tlbCol 2 x.cmd.asid [⟨.engBoth, src, 8, 8⟩] = .ok → s.transAs tlbCol 2 x.cmd.asid src = .ok p n → pteExpz p = false →
      src % 8 = 0 → s.bad = [] → s.watch = [] → s.reduce = [] → s.flushQ = [] → s.shadow = [] → OnlyCommand s (some x.cmd.id) →
      (∀ y ∈ s.launches, y.2.status ≠ .waiting) →
      (s.gang x.cmd.gang).asid = x.cmd.asid → Memory.wf s.mem = true →
      ∃ t, exec (.colSig a b) s = .next t ∧ t.col = some { x.run with pos := x.run.pos + 1, waiting := none } ∧
        fromBytes (Memory.read t.mem (ptePa p n src) 8) = min (fromBytes (Memory.read s.mem (ptePa p n src) 8) + dst) (2 ^ 64 - 1) ∧
        (∀ z, (z < ptePa p n src ∨ ptePa p n src + 8 ≤ z) → Memory.get t.mem z = Memory.get s.mem z)))

namespace Sys2Proof.Claim

/-- The order of the 96-bit pairs (R295, R296). -/
def PairLe (x y : SortRec) : Prop := x.1 < y.1 ∨ (x.1 = y.1 ∧ x.2 ≤ y.2)

/-- TILE of a record's key (R294). -/
def tile (r : SortRec) : Nat := r.1 / 2 ^ 40

/-- Memory below an engine is plain: no sums, no failing line, no watchpoint. -/
def QuietMemory (s : State) : Prop := s.reduce = [] ∧ s.flushQ = [] ∧ s.shadow = [] ∧ s.bad = [] ∧ s.watch = []

/-- The little-endian 4-byte numbers of a list of bytes. -/
def nums (b : List Byte) (k : Nat) : List Nat := (List.range k).map fun i => fromBytes ((b.drop (4 * i)).take 4)

/-- The bytes that a command writes to virtual memory at its end, with their addresses. -/
def endWrites (c : Cmd) : List (Nat × List Byte) :=
  match c.op with
  | .merge out _ => [(out, c.data)]
  | .table _ tab _ _ => [(tab, c.data)]
  | .gather _ _ rows _ _ _ false => [(rows, c.data)]
  | .copy _ dst rowsz nrows _ dstride ctl =>
    if ctl.getLsbD 1 || ctl.getLsbD 8 then [] else (List.range nrows).map fun r => (dst + dstride * r, (c.data.drop (rowsz * r)).take rowsz)
  | .bulkRead dst false => [(dst, c.data)]
  | _ => []

/-- The command has come to its end: it runs, its register is that of a live wave of a resident gang, and it met no error. -/
def AtItsEnd (s : State) (c : Cmd) (d : Nat) : Prop :=
  s.cmdAt c.id = some c ∧ c.status = .running ∧ c.dreg = some d ∧ c.bad = [] ∧ c.pieces = [] ∧ c.denied = false ∧ c.asid = (s.gang c.gang).asid ∧
    (s.waves.find c.wave).isSome = true ∧ (s.gang c.gang).status = .resident ∧ (s.waveAt c.wave).status = .live

/-- A region lies in one page that is held for the command's engine. -/
def InPage (s : State) (c : Cmd) (p : Word) (span page : Nat) (a n : Nat) : Prop :=
  ∀ x, a ≤ x → x < a + n → s.transAs c.tlb (cmdWaiter c.id) c.asid x = .ok p span ∧ x / (span * 2 ^ 18) = page

end Sys2Proof.Claim

/-- R295, R296, R300, R301, R347, R359, R360: what the sort and gather-dedup engines compute: a sort, a merge, a range table, a gather, and the
additions of a scatter, each made once. -/
def Sys2Proof.Claim.EnginesCompute : Prop :=
  (∀ c : Cmd, List.Perm (sortBy c.recs recLe) c.recs ∧ List.Pairwise PairLe (sortBy c.recs recLe)) ∧
  (∀ rs : List (List SortRec), (∀ r ∈ rs, List.Pairwise PairLe r) →
    let m := mergeAll (rs.foldl (fun n l => n + l.length) 0) rs
    List.Perm m rs.flatten ∧ List.Pairwise PairLe m) ∧
  (∀ (rs : List SortRec) (t : Nat), rs.length ≤ 2 ^ 28 → ∃ st en, rangeEntry rs t = toBytes 4 st ++ toBytes 4 en ∧ st ≤ en ∧ en ≤ rs.length ∧
    (∀ j, j < st → tile (nth (0, 0) rs j) < t) ∧ (st < rs.length → t ≤ tile (nth (0, 0) rs st)) ∧
    (∀ j, st ≤ j → j < en → tile (nth (0, 0) rs j) ≤ t) ∧ (en < rs.length → t < tile (nth (0, 0) rs en))) ∧
  (∀ (e : Eng) (c : Cmd) (inp tab n nt : Nat), c.op = .table inp tab n nt →
    let rs := recsOf (e.read c.gang ⟨false, BitVec.ofNat 64 inp⟩ (16 * n)).1 n
    (e.sortRun c).2.1 = (List.range nt).flatMap (rangeEntry rs) ∧
      (e.sortRun c).2.2.1 = compWord 1 0 (if (List.range (n - 1)).any fun j => decide (tile (nth (0, 0) rs (j + 1)) < tile (nth (0, 0) rs j)) then 1 else 0) nt) ∧
  (∀ (e : Eng) (c : Cmd) (idx table rows k rowsz nrows : Nat) (v : Bool), QuietMemory e.s → c.op = .gather idx table rows k rowsz nrows v →
    let xs := nums (e.read c.gang ⟨false, BitVec.ofNat 64 idx⟩ (4 * k)).1 k
    (e.gdeRun c).1 = (xs.flatMap fun x => if x < nrows then (e.read c.gang ⟨false, BitVec.ofNat 64 (table + rowsz * x)⟩ rowsz).1 else List.replicate rowsz 0) ∧
      ∃ distinct : List Nat, distinct.Nodup ∧ (∀ x, x ∈ distinct ↔ x ∈ xs ∧ x < nrows) ∧
        (e.gdeRun c).2.1 = compWord 2 0 (if ∃ x ∈ xs, nrows ≤ x then 1 else 0) distinct.length) ∧
  (∀ (e : Eng) (c : Cmd) (idx table rows k rowsz nrows fmt : Nat) (v : Bool), QuietMemory e.s → c.op = .scatter idx table rows k rowsz nrows v fmt →
    let xs := nums (e.read c.gang ⟨false, BitVec.ofNat 64 idx⟩ (4 * k)).1 k
    (e.gdeRun c).2.1 = compWord 2 0 (if ∃ x ∈ xs, nrows ≤ x then 1 else 0) (xs.filter fun x => decide (x < nrows)).length) ∧
  (∀ (e : Eng) (asid : BitVec 16) (fmt tick : Nat) (adds : List (Nat × Lane)), ∃ l, List.Perm l adds ∧
    Eng.addAll asid fmt tick adds.length adds e = l.foldl (fun e a => e.addWord asid fmt a.1 a.2) e) ∧
  (∀ (e : Eng) (asid : BitVec 16) (fmt va : Nat) (x : Lane) (p : Word) (span : Nat), QuietMemory e.s → OnlyCommand e.s e.self → Memory.wf e.s.mem = true →
    e.trans asid va = some (p, span) → pteExpz p = false → va % 4 = 0 →
    let pa := ptePa p span va
    let old : Lane := BitVec.ofNat 32 (fromBytes (Memory.read e.s.mem pa 4))
    Memory.read (e.addWord asid fmt va x).s.mem pa 4 = toBytes 4 (if fmt = 3 then f32add old x else old + x).toNat ∧
      ∀ z, (z < pa ∨ pa + 4 ≤ z) → Memory.get (e.addWord asid fmt va x).s.mem z = Memory.get e.s.mem z)

/-- R297, R298, R302, R335, R350: which command an engine takes, and what it has done at a start; the watchpoints that a command has fired stand with it. How much
a start reads is the model's choice (log 13). -/
def Sys2Proof.Claim.EnginesStart : Prop :=
  (∀ (die : Nat) (s : State),
    let here (st : CStatus) := s.cmds.find? fun c => c.eng == 1 && c.unit == die && c.status == st
    (∀ c, here .running = some c → c.sorted = true → exec (.sortStart die) s = .next s) ∧
    (∀ c, ((here .running = some c ∧ c.sorted = false) ∨ (here .running = none ∧ here .queued = some c)) → s.cmdMisses c = [] →
      let r := Eng.sortRun { s := s, self := some c.id, via := some (c.tlb, cmdWaiter c.id), fired := c.fired, launches := [(s.gang c.gang).launch] } c
      ∃ t, exec (.sortStart die) s = .next t ∧ t.cmds = r.2.2.2.s.cmds.map fun q => if q.id = r.1.id then { r.1 with
        status := .running, data := r.2.1, word := r.2.2.1, bad := r.1.bad ++ r.2.2.2.bad, fired := r.2.2.2.fired } else q) ∧
    (here .running = none → here .queued = none → exec (.sortStart die) s = .next s) ∧
    (4 ≤ s.running 2 die → exec (.gdeStart die) s = .next s) ∧
    (s.running 2 die < 4 → ∀ c, s.cmds.find? (fun c => c.eng == 2 && c.unit == die && c.status == .queued) = some c → s.cmdMisses c = [] →
      let r := Eng.gdeRun { s := s, self := some c.id, via := some (c.tlb, cmdWaiter c.id), fired := c.fired, launches := [(s.gang c.gang).launch] } c
      ∃ t, exec (.gdeStart die) s = .next t ∧ t.cmds = r.2.2.s.cmds.map fun q => if q.id = c.id then { c with
        status := .running, data := r.1, word := r.2.1, bad := c.bad ++ r.2.2.bad, fired := r.2.2.fired } else q)) ∧
  (∀ (e : Eng) (c : Cmd) (inp out scr n : Nat), c.op = .sort inp out scr n →
    let r := e.sortRun c
    r.2.2.1 = compWord 1 0 0 n ∧ r.1.op = c.op ∧ r.1.id = c.id ∧
    (c.pos < n → ∃ k, 0 < k ∧ c.pos + k ≤ n ∧ r.1.pos = c.pos + k ∧ r.1.passes = c.passes ∧
      r.2.1 = c.data ++ (e.read c.gang ⟨false, BitVec.ofNat 64 (inp + 16 * c.pos)⟩ (16 * k)).1) ∧
    (c.pos = n → c.sorted = false → r.1.passes = c.passes + 1 ∧ r.2.1 = c.data)) ∧
  (∀ (quad : Nat) (s : State) (c : Cmd), (s.cmds.filter fun c => c.eng == 3 && c.unit == quad && c.status == .running && c.dreg.isSome).length < 8 →
    s.cmds.find? (fun c => c.eng == 3 && c.unit == quad && c.status == .queued && c.dreg.isSome && s.copyCan c) = some c → s.cmdMisses c = [] →
    let r := Eng.copyRun { s := s, self := some c.id, via := some (c.tlb, cmdWaiter c.id), fired := c.fired, launches := [(s.gang c.gang).launch] } c
    ∃ t, exec (.copyStart quad) s = .next t ∧ t.cmds = r.2.2.s.cmds.map fun q => if q.id = c.id then { c with
      status := .running, data := r.1, word := r.2.1, bad := c.bad ++ r.2.2.bad, fired := r.2.2.fired } else q) ∧
  (∀ (s : State) (c : Cmd), s.col = none → s.cmds.find? (fun c => c.eng == 4 && c.status == .queued) = some c →
    exec .collectiveStart s = .next { s with
      cmds := s.cmds.map fun q => if q.id = c.id then { c with status := .running } else q, col := some ⟨c.id, 0, 0, none, []⟩ })

/-- R296, R347, R348, R350, R359, R360, R376, R412, R435, R438, R444: how a command ends: what it writes, its completion word, and its register. -/
def Sys2Proof.Claim.CommandsEnd : Prop :=
  (∀ (s : State) (c : Cmd) (d : Nat) (p : Word) (span page : Nat), AtItsEnd s c d → QuietMemory s → OnlyCommand s (some c.id) → Memory.wf s.mem = true →
    s.cmdMisses c = [] → endWrites c ≠ [] → (∀ w ∈ endWrites c, InPage s c p span page w.1 w.2.length ∧ w.1 + w.2.length ≤ 2 ^ 56) → pteExpz p = false →
    (endWrites c).Pairwise (fun v w => v.1 + v.2.length ≤ w.1 ∨ w.1 + w.2.length ≤ v.1) →
    ∃ t, exec (.engineCompletion c.id) s = .next t ∧ (∀ q ∈ t.cmds, q.id ≠ c.id) ∧ (t.waveAt c.wave).sreg d = c.word ∧ (t.waveAt c.wave).sFull d = true ∧
      (∀ w ∈ endWrites c, ∀ k, k < w.2.length → Memory.get t.mem (ptePa p span (w.1 + k)) = nth 0 w.2 k) ∧
      (∀ z, (∀ w ∈ endWrites c, ∀ k, k < w.2.length → z ≠ ptePa p span (w.1 + k)) → Memory.get t.mem z = Memory.get s.mem z)) ∧
  (∀ (s : State) (c : Cmd) (d inp out scr n : Nat) (p : Word) (span page : Nat), AtItsEnd s c d → QuietMemory s → OnlyCommand s (some c.id) →
    Memory.wf s.mem = true → s.cmdMisses c = [] → c.op = .sort inp out scr n → c.sorted = true → InPage s c p span page out (16 * n) → out + 16 * n ≤ 2 ^ 56 →
    pteExpz p = false → (∀ a, scr ≤ a → a < scr + (16 * n + 8192) → ∃ q m, s.transAs c.tlb (cmdWaiter c.id) c.asid a = .ok q m ∧ pteExpz q = false) →
    scr + (16 * n + 8192) ≤ 2 ^ 56 →
    ∃ t, exec (.engineCompletion c.id) s = .next t ∧ (∀ q ∈ t.cmds, q.id ≠ c.id) ∧ (t.waveAt c.wave).sreg d = c.word ∧ (t.waveAt c.wave).sFull d = true ∧
      ∀ k, k < 16 * n → Memory.get t.mem (ptePa p span (out + k)) =
        nth 0 ((sortBy c.recs recLe).flatMap fun r => toBytes 8 r.1 ++ toBytes 4 r.2 ++ toBytes 4 0) k) ∧
  (∀ (e : Eng) (c : Cmd) (idx table rows k rowsz nrows fmt : Nat) (v : Bool), c.op = .scatter idx table rows k rowsz nrows v fmt → c.bad = [] →
    let adds := (List.range k).flatMap fun i =>
      let x := fromBytes ((c.data.drop (4 * i)).take 4)
      if nrows ≤ x then [] else (List.range (rowsz / 4)).map fun j =>
        (table + rowsz * x + 4 * j, (BitVec.ofNat 32 (fromBytes ((c.data.drop (4 * k + rowsz * i + 4 * j)).take 4)) : Lane))
    let y := Eng.addAll c.asid fmt e.s.tick adds.length adds e
    y.memErr = false → e.gdeEnd c = y) ∧
  (∀ (s : State) (c : Cmd) (d : Nat), s.cmdAt c.id = some c → c.status = .done → c.dreg = some d → c.bad = [] → (∃ r k n ws p, c.op = .collective r k n ws p) →
    (∀ r ∈ s.sent, r.cmd ≠ some c.id) → (s.waves.find c.wave).isSome = true → (s.gang c.gang).status = .resident → (s.waveAt c.wave).status = .live →
    ∃ t, exec (.engineCompletion c.id) s = .next t ∧ (∀ q ∈ t.cmds, q.id ≠ c.id) ∧ (t.waveAt c.wave).sFull d = true ∧
      (t.waveAt c.wave).sreg d = (c.word ||| if c.denied then 0x2000 else 0) ∧ t.mem = s.mem) ∧
  (∀ (s : State) (c : Cmd) (d off tag : Nat), AtItsEnd s c d → c.op = .drain off tag → s.badVault = [] → (∀ q ∈ s.cmds, q.status = .running → q.id = c.id) →
    off < 2 ^ 24 → c.data.length % 4 = 0 → c.data.length ≤ 16384 → (s.gang c.gang).vaultSize ≠ 0 →
    ∃ t, exec (.engineCompletion c.id) s = .next t ∧ (∀ q ∈ t.cmds, q.id ≠ c.id) ∧ (t.waveAt c.wave).sreg d = c.word ∧ (t.waveAt c.wave).sFull d = true ∧
      t.mem = s.mem ∧ (t.gang c.gang).vault = (List.range (c.data.length / 4)).foldl (fun m k =>
        Memory.write m ((off + 4 * k) % 2 ^ 24 / 4 * 4 % (s.gang c.gang).vaultSize) ((c.data.drop (4 * k)).take 4)) (s.gang c.gang).vault) ∧
  (∀ (s : State) (c : Cmd) (d : Nat), AtItsEnd s c d → (c.op = .fabLoad → ∃ t, exec (.engineCompletion c.id) s = .next t ∧ (∀ q ∈ t.cmds, q.id ≠ c.id) ∧
      (t.waveAt c.wave).sreg d = BitVec.ofNat 64 (fromBytes (c.data.take 8)) ∧ (t.waveAt c.wave).sFull d = true ∧ t.mem = s.mem) ∧
    ((∃ n, c.op = .fabStore n) ∨ (∃ l, c.op = .bulkWrite l) → ∃ t, exec (.engineCompletion c.id) s = .next t ∧ (∀ q ∈ t.cmds, q.id ≠ c.id) ∧
      (t.waveAt c.wave).sreg d = c.word ∧ (t.waveAt c.wave).sFull d = true ∧ t.mem = s.mem))

/-- R295 to R298, R300 to R302, R347, R348, R350, R359, R360, R376, R435, R438, R444: what the engines compute, which command starts, and how a command ends. How much of its input a command has read at a start, and in which step it reads the rest, is the model's choice (log 13). -/
def Obligations.EnginesRun : Prop := Sys2Proof.Claim.EnginesCompute ∧ Sys2Proof.Claim.EnginesStart ∧ Sys2Proof.Claim.CommandsEnd

/-! ### What happens by itself and from outside -/

namespace Sys2Proof.Claim

/-- No line holds sums that have still to come to memory, no line fails, and no watchpoint is set: an access meets plain bytes. -/
def Plain (s : State) : Prop := s.reduce = [] ∧ s.flushQ = [] ∧ s.shadow = [] ∧ s.bad = [] ∧ s.watch = []

/-- The device serves the host: reset is over (R492), and it is in L0 (R493). -/
def Serving (s : State) : Prop := s.power = .l0 ∧ 4 ≤ s.bringUp

/-- A store spoils nothing that is under way, and no page is EXPZ. -/
def Alone (s : State) : Prop := NothingToSpoil s ∧ s.hr.expztop = 0

/-- A launch with the outcome of a step that it wrote in: after an abort the launch that has not completed has STEP_ABORT in its count and, if it is the first, in
its record (R417). -/
def stepOver (abort : Bool) (l : Launch) : Launch := match l.stepPc with
  | none => l
  | some (pc, id) =>
    if abort = true ∧ l.status = .ready then { l with
      stepPc := none, nfault := l.nfault + 1, first := if l.first = none then some ⟨Code.stepAbort, pc, id⟩ else l.first }
    else { l with stepPc := none }

/-- What a walk that ended without a translation leaves for a waiter of a miss. -/
def walkFault (m : Miss) (c : Code) (w : Nat × Nat) : Walked := ⟨m.asid, m.page, w.1, some c, 0, 1⟩

/-- The wait conditions of a clause header for wave `k` (R56, R60). -/
def WaitsMet (s : State) (k : Nat) (h : BitVec 32) : Prop :=
  let vmw := h.toNat / 256 % 16
  let smw := h.toNat / 4096 % 16
  (vmw = 15 ∨ (s.ops.filter fun o => o.wave == k && o.counted == .vm).length ≤ vmw) ∧
    (smw = 15 ∨ (s.ops.filter fun o => o.wave == k && o.counted == .sm).length ≤ smw) ∧
    (h.getLsbD 16 = true → s.tracked k = false) ∧
    (h.getLsbD 17 = true → (∀ c ∈ s.cmds, c.wave = k → c.dreg = none) ∧ ∀ o ∈ s.ops, o.wave = k → o.emits = false)

/-- COUNT and CLASS of a clause header (R56). -/
def countOf (h : BitVec 32) : Nat := h.toNat % 16
def classOf (h : BitVec 32) : Nat := h.toNat / 16 % 8

end Sys2Proof.Claim

/-- R49, R55 to R61, R380, R458: clauses, the watchdog, and imprecise faults. THDR of a header fault (log 57), and that WATCHDOG and imprecise faults are not among
the faults that are counted (log 59), are the model's choices. -/
def Obligations.ClauseEvents : Prop :=
  (∀ (s : State) (core : Nat) (asid : BitVec 16) (va : Nat) (p : Word) (n : Nat), s.trans asid va = .ok p n → pteRmt p = false → pteX p = true →
    Plain s → s.ro = [] → ptePa p n va % 4 = 0 →
    ∃ t, s.fetchWord core asid va = .ok (BitVec.ofNat 32 (fromBytes (Memory.read s.mem (ptePa p n va) 4))) t ∧ t.mem = s.mem ∧ t.waves = s.waves ∧ t.ops = s.ops) ∧
  (∀ (s t u : State) (h : BitVec 32) (ws : List (BitVec 32)), s.party = .wave → s.wave.status = .live → s.wave.phase = .fetch → s.wave.resume = .no →
    s.fetchWord s.wave.core s.myGang.asid s.wave.pc.toNat = .ok h t →
    ((countOf h = 0 ∨ classOf h = 3 ∨ 6 ≤ classOf h) → exec .clauseFetch s = .next (t.headerTrap Code.illegal (h.setWidth 64) h)) ∧
    (countOf h ≠ 0 → classOf h ≠ 3 → classOf h < 6 → t.fetchWords s.wave.core s.myGang.asid (s.wave.pc + 4).toNat (countOf h) = .ok (ws, u) →
      ∃ v, exec .clauseFetch s = .next v ∧ v.wave = { s.wave with hdr := h, words := ws, idx := 0, phase := .wait, resume := .no, blockedAt := none, held := false } ∧
        v.mem = u.mem ∧ ∀ k, k ≠ s.cur → v.waveAt k = s.waveAt k)) ∧
  (∀ (s t u : State) (h : BitVec 32) (ws : List (BitVec 32)), s.party = .seq → s.sq.status = .run → s.sq.phase = .fetch →
    s.fetchWord s.sq.core s.sq.asid s.sq.mpc.toNat = .ok h t →
    ((countOf h = 0 ∨ classOf h ≠ 3) → exec .clauseFetch s = .next (t.seqFault Code.illegal false)) ∧
    (countOf h ≠ 0 → classOf h = 3 → t.fetchWords s.sq.core s.sq.asid (s.sq.mpc + 4).toNat (countOf h) = .ok (ws, u) →
      ∃ v, exec .clauseFetch s = .next v ∧ v.sq = { s.sq with hdr := h, words := ws, phase := .issue } ∧ v.waves = s.waves)) ∧
  (∀ s : State, s.party = .wave → s.wave.status = .live → s.wave.phase = .wait →
    (¬ WaitsMet s s.cur s.wave.hdr → exec .clauseWaitMet s = .next s.block) ∧
    (WaitsMet s s.cur s.wave.hdr → s.wave.idx < countOf s.wave.hdr →
      exec .clauseWaitMet s = .next (s.setWave { s.wave with phase := .issue, blockedAt := none, held := false })) ∧
    (WaitsMet s s.cur s.wave.hdr → countOf s.wave.hdr ≤ s.wave.idx → exec .clauseWaitMet s = .next (s.setWave { s.wave with
      phase := .fetch, pc := s.wave.pc + 4 + 4 * BitVec.ofNat 64 (countOf s.wave.hdr), idx := 0, resume := .no, blockedAt := none, held := false }))) ∧
  (∀ s : State, s.party = .wave → AtInstr s → s.wave.inHandler = false → s.wave.waiting = none → s.unfinished s.cur = false →
    (s.wave.budget ≠ 0 → s.wave.budget.toNat ≤ s.wave.icount.toNat →
      exec .watchdogBudget s = .next (s.trapIn s.cur { code := Code.watchdog, info := 0, counts := false })) ∧
    ((s.wave.budget = 0 ∨ s.wave.icount.toNat < s.wave.budget.toNat) → exec .watchdogBudget s = .next s) ∧
    (∀ t, s.wave.stall ≠ 0 → s.wave.blockedAt = some t →
      (t + 4096 * s.wave.stall.toNat ≤ s.clock (s.wave.core / 144) →
        exec .watchdogStall s = .next (s.trapIn s.cur { code := Code.watchdog, info := 1, counts := false })) ∧
      (s.clock (s.wave.core / 144) < t + 4096 * s.wave.stall.toNat → exec .watchdogStall s = .next s))) ∧
  (∀ (s : State) (k : Nat) (f : ImpFault) (rest : List ImpFault), (s.waveAt k).pend = f :: rest → (s.waveAt k).status = .live → (s.waveAt k).phase ≠ .fetch →
    ((s.waveAt k).inHandler = true → exec (.impreciseFaultDeliver k) s = .next s) ∧
    ((s.waveAt k).inHandler = false → (s.waveAt k).waiting = none → s.unfinished k = false → exec (.impreciseFaultDeliver k) s =
      .next ((s.setWaveAt k { s.waveAt k with pend := rest }).trapIn k { code := f.code, info := f.pc, imp := true, counts := false })))

/-- R227, R235, R240, R241, R465, R486, R491: flushes, page walks, invalidations, and the repair of a line. That a repaired line keeps its bytes (log 49), that a
translation with G = 1 outlives an invalidation by ASID (log 48), and what a write of SERVICE leaves (log 51) are the model's choices. -/
def Obligations.MemoryEvents : Prop :=
  (∀ (s : State) (r : ReduceLine) (k : Nat) (x : Lane), s.flushQ = [r] → r.sums = [(k, x)] → k < 32 → s.bad = [] → s.watch = [] → Memory.wf s.mem = true →
    let a := 128 * r.line + 4 * k
    ∃ t, exec (.reduceFlushApply r.line) s = .next t ∧ t.flushQ = [] ∧
      Memory.read t.mem a 4 = toBytes 4 (f32add (BitVec.ofNat 32 (fromBytes (Memory.read s.mem a 4))) x).toNat ∧
      ∀ b, (b < a ∨ a + 4 ≤ b) → Memory.get t.mem b = Memory.get s.mem b) ∧
  (∀ (s : State) (asid : BitVec 16) (va : Nat),
    let e := s.load64 (s.hr.asidtab.toNat + 8 * asid.toNat)
    let p1 := s.load64 (e.toNat / 2 ^ 16 % 2 ^ 36 * 2 ^ 16 + 8 * (va / 2 ^ 43 % 2 ^ 13))
    let p2 := s.load64 (p1.toNat / 2 ^ 16 % 2 ^ 36 * 2 ^ 16 + 8 * (va / 2 ^ 30 % 2 ^ 13))
    let p3 := s.load64 (p2.toNat / 2 ^ 9 % 2 ^ 43 * 2 ^ 9 + 8 * (va / 2 ^ 24 % 2 ^ 6))
    let p4 := s.load64 (p3.toNat / 2 ^ 9 % 2 ^ 43 * 2 ^ 9 + 8 * (va / 2 ^ 18 % 2 ^ 6))
    let table (p : Word) : Prop := p.getLsbD 0 = true ∧ p.getLsbD 1 = false
    let leaf (p : Word) : Prop := p.getLsbD 0 = true ∧ p.getLsbD 1 = true
    (e.getLsbD 0 = false → s.walk asid va = .error Code.pageFault) ∧
    (e.getLsbD 0 = true → p1.getLsbD 0 = false → s.walk asid va = .error Code.pageFault) ∧
    (e.getLsbD 0 = true → leaf p1 → s.walk asid va = .error Code.pteBad) ∧
    (e.getLsbD 0 = true → table p1 → leaf p2 → s.walk asid va = if s.leafBad p2 4096 then .error Code.pteBad else .ok (p2, 4096)) ∧
    (e.getLsbD 0 = true → table p1 → table p2 → leaf p3 → s.walk asid va = if s.leafBad p3 64 then .error Code.pteBad else .ok (p3, 64)) ∧
    (e.getLsbD 0 = true → table p1 → table p2 → table p3 → leaf p4 → s.walk asid va = if s.leafBad p4 1 then .error Code.pteBad else .ok (p4, 1)) ∧
    (e.getLsbD 0 = true → table p1 → table p2 → table p3 → table p4 → s.walk asid va = .error Code.pteBad)) ∧
  (∀ s : State, (s.missQ = [] → s.nextMiss = none) ∧
    (s.missQ ≠ [] → ∃ m, s.nextMiss = some m ∧ m ∈ (s.missQ.filter fun q => q.die == m.die).take 64)) ∧
  (∀ s : State, s.nextMiss = none → exec .pageWalk s = .next s) ∧
  (∀ (s : State) (m : Miss), s.nextMiss = some m →
    (∀ a, s.hole m.asid (m.page * 2 ^ 18) = some a → exec .pageWalk s = .fault (.noMemory a)) ∧
    (∀ c, s.hole m.asid (m.page * 2 ^ 18) = none → s.walk m.asid (m.page * 2 ^ 18) = .error c → exec .pageWalk s = .next { s with
      missQ := s.missQ.erase m, walked := s.walked ++ m.waiters.map (walkFault m c) }) ∧
    (∀ p span, s.hole m.asid (m.page * 2 ^ 18) = none → s.walk m.asid (m.page * 2 ^ 18) = .ok (p, span) →
      let served (q : Miss) : Prop := q.die = m.die ∧ q.asid = m.asid ∧ q.page / span = m.page / span
      ∃ t, exec .pageWalk s = .next t ∧ t.mem = s.mem ∧ (∀ q, q ∈ t.missQ ↔ q ∈ s.missQ ∧ ¬ served q) ∧
        (∀ q ∈ s.missQ, served q → ∀ w ∈ q.waiters, (⟨q.asid, q.page, w.1, none, p, span⟩ : Walked) ∈ t.walked) ∧
        ((∀ q ∈ s.missQ, ∀ w ∈ q.waiters, w.2 < 576 ∨ 580 ≤ w.2) → (⟨576 + m.die, m.asid, m.page / span * span, span, p⟩ : TlbEntry) ∈ t.tlb))) ∧
  (∀ s : State, Serving s →
    (s.invRun = none → exec .tlbInvalidate s = .next { s with
      invRun := some ⟨s.hr.invasid, s.hr.invva, s.hr.invlen⟩, hr := { s.hr with invgo := true } }) ∧
    (∀ x, s.invRun = some x → exec .tlbInvalidate s = .next { s with invHeld := s.invHeld ++ [⟨s.hr.invasid, s.hr.invva, s.hr.invlen⟩] })) ∧
  (∀ (s : State) (x : Inval), s.invRun = some x → ∃ t, exec .invalidateComplete s = .next t ∧ t.ro = [] ∧ t.mem = s.mem ∧
    t.invRun = s.invHeld.head? ∧ t.invHeld = s.invHeld.tail ∧ t.hr.invgo = !s.invHeld.isEmpty ∧
    ∀ e, e ∈ t.tlb ↔ e ∈ s.tlb ∧ ¬ ((x.asid.getLsbD 16 = true ∨ (e.asid = x.asid.setWidth 16 ∧ pteG e.pte = false)) ∧
      (x.asid.getLsbD 17 = false ∨ (e.page * 2 ^ 18 < x.va.toNat + x.len.toNat ∧ x.va.toNat < (e.page + e.span) * 2 ^ 18)))) ∧
  (∀ s : State, s.invRun = none → exec .invalidateComplete s = .next s) ∧
  (∀ (s : State) (pa : BitVec 64), Serving s → s.ops = [] → s.flushQ = [] → s.applyQ = [] →
    ∃ t, exec (.lineRepair pa) s = .next t ∧ t.bad = s.bad.erase (pa.toNat % 2 ^ 52 / 128) ∧ t.mem = s.mem) ∧
  (∀ (s : State) (v : BitVec 64), Serving s → s.thold = false → s.ops = [] → s.flushQ = [] → s.applyQ = [] → exec (.serviceWrite v) s = .next { s with
    hr := { s.hr with ltol := v.extractLsb' 32 32, service := v.extractLsb' 0 2 } })

/-- R27, R47, R341 to R343, R466, R470, R493, R495: placing, ageing, saving, restoring and retiring gangs. TFEV of a fresh wave is the model's choice (log 38), and so
is that the time an entry has been passed over counts afresh at its next level (log 115). -/
def Obligations.GangEvents : Prop :=
  (∀ (s : State) (die : Nat), (s.thold = true ∨ s.power = .l2 ∨ s.power = .l3 ∨ 4 ≤ die ∨ s.queue = []) → exec (.gangPlace die) s = .next s) ∧
  (∀ (s : State) (die k g quad : Nat) (e : QEntry) (cores : List Nat), s.thold = false → (s.power = .l0 ∨ s.power = .l1) → die < 4 → s.queue = [(k, e)] → e.kind = .gang g → die ∈ e.dies →
    e.level < 8 → s.podHeld (s.gang g).launch = false → s.spot g die = some (quad, cores) →
    ((s.gang g).status = .ready → ∃ t, exec (.gangPlace die) s = .next t ∧ t.queue = (s.placeFresh g quad e.level cores).queue.erase k ∧
      t.waves = (s.placeFresh g quad e.level cores).waves ∧ (t.gang g).status = .resident ∧ (t.gang g).quad = quad) ∧
    ((s.gang g).status = .saved → exec (.gangPlace die) s = .next s ∧ ∃ t, exec (.gangRestore g die) s = .next t ∧ (t.gang g).status = .resident ∧
      (t.gang g).quad = quad ∧ (t.gang g).die = quad / 36 ∧ (t.gang g).saveAt = none)) ∧
  (∀ (s : State) (g wg no : Nat) (k : Kernel),
    let w := s.freshWave g wg no k
    w.sreg 0 = (s.gang g).s0 ∧ w.sreg 1 = (s.gang g).s1 + BitVec.ofNat 64 (wg * k.waves + no) ∧ (∀ n, 2 ≤ n → w.sreg n = 0) ∧ (∀ n, w.sFull n = true) ∧
      (∀ n l, w.lane n l = 0 ∧ w.vFull n = true) ∧ (∀ p, 0 < p → w.pred p = 0) ∧ w.pc = (s.gang g).entryPc ∧ w.icount = 0 ∧ w.budget = k.budget ∧
      w.stall = k.stall ∧ w.ls = [] ∧ w.inHandler = false ∧ w.vstat = 0 ∧ w.tfev = 0) ∧
  (∀ (s : State) (k : Nat) (e : QEntry) (die : Nat), s.queue.find k = some e → e.dies = [die] →
    let now := s.clock die
    let period := max 1 s.hr.age.toNat
    (7 ≤ e.level ∨ now < e.since + period → exec (.gangAge k) s = .next s) ∧
    (e.level < 7 → e.since + period ≤ now → exec (.gangAge k) s = .next { s with
      nextId := s.nextId + 1
      queue := (s.queue.erase k).set (2 ^ 40 + s.nextId) { e with level := e.level + 1, since := now, skippedAt := if e.blocking then e.skippedAt else none } }) ∧
    (∀ t, e.skippedAt = some t → s.headOf die e.level = some k → t + period ≤ now →
      exec (.gangBlocking k) s = .next { s with queue := s.queue.set k { e with blocking := true } }) ∧
    (∀ t, e.skippedAt = some t → now < t + period → exec (.gangBlocking k) s = .next s)) ∧
  (∀ (s : State) (g t : Nat), (s.gang g).status = .saving → (s.gang g).saveAt = some t →
    (s.clock (s.gang g).die < t → exec (.saveBudgetExpire g) s = .next s) ∧
    (t ≤ s.clock (s.gang g).die → ∃ u, exec (.saveBudgetExpire g) s = .next u ∧
      ∀ k w, s.waves.find k = some w → w.gang = g → w.status = .live → s.midInstr k = false → s.unfinished k = false → (u.waveAt k).status = .saved)) ∧
  (∀ (s : State) (g : Nat) (x : Saved), (s.gang g).status = .saving → s.canRetire g = false →
    (s.waves.any (fun w => w.2.gang == g && w.2.status == .live) = true → exec (.saveWrite g) s = .next s) ∧
    (s.waves.any (fun w => w.2.gang == g && w.2.status == .live) = false → s.cmds.any (fun c => c.gang == g && s.copying c) = false → s.seqsOpen g = [] →
      s.quiet g = false → exec (.saveWrite g) s = .next s) ∧
    (s.waves.any (fun w => w.2.gang == g && w.2.status == .live) = false → s.cmds.any (fun c => c.gang == g && s.copying c) = false → s.seqsOpen g = [] →
      s.quiet g = true → s.unitOf g = [g] → s.saved.find? (fun x => x.gang == g) = some x → x.gang = g →
      ∃ t, exec (.saveWrite g) s = .next t ∧ (t.gang g).status = .saved ∧ (t.gang g).saveAt = none) ∧
    (∀ h ∈ s.unitOf g, (s.gang h).status = .saving → (∃ w ∈ s.waves, w.2.gang = h ∧ w.2.status = .live) → s.seqsOpen g = [] →
      exec (.saveWrite g) s = .next s)) ∧
  (∀ (s : State) (g : Nat), s.canRetire g = false → exec (.gangRetire g) s = .next s) ∧
  (∀ (s : State) (g : Nat), s.canRetire g = true → (s.gang g).batch = none → ∃ t, exec (.gangRetire g) s = .next t ∧ (t.gang g).status = .retired ∧
    (t.launch (s.gang g).launch).retired = (s.launch (s.gang g).launch).retired + 1 ∧ (t.launch (s.gang g).launch).lastDie = (s.gang g).die ∧
    (∀ w ∈ t.waves, w.2.gang = g → w.2.status = .tailed) ∧ ∀ q ∈ t.seqs, q.2.gang ≠ g)

/-- R259, R311 to R313, R316 to R318, R332, R339, R437: launches, node bins, claims, and the copy schedule. The steps of a loop are those of one whose item region no
program has stored into (R314). That a batch takes the lowest free slot (log 111), and that DENIED is cleared when its pitch has a new owner (log 69), are the
model's choices. -/
def Obligations.LaunchEvents : Prop :=
  (∀ (s : State) (l : Nat), (s.launch l).status = .ready → s.gangsOver l = true → s.launchQuiet l = true → s.sumLines l = [] → s.traceQ = [] →
    (s.launch l).tainted = false →
    ((s.launch l).trace = 0 → exec (.launchCompletion l) s = .next (s.completeLaunch l (s.launch l).lastDie)) ∧
    (Plain s → exec (.launchCompletion l) s = .next ((s.traceHeaders l).completeLaunch l (s.launch l).lastDie))) ∧
  (∀ (s : State) (l : Nat), ((s.launch l).status ≠ .ready ∨ s.gangsOver l = false ∨ s.launchQuiet l = false) → exec (.launchCompletion l) s = .next s) ∧
  (∀ (s : State) (x : Launch) (die : Nat),
    let b := s.completionBytes x die
    let first := x.first.getD ⟨0, 0, 0⟩
    b.length = 64 ∧ numAt b 0 4 = (if x.code ≠ 0 then x.code else if x.nfault ≠ 0 then 1 else 0) % 2 ^ 32 ∧ numAt b 4 4 = x.nfault % 2 ^ 32 ∧
      numAt b 8 8 = x.retired % 2 ^ 64 ∧ wordAt b 16 = first.pc ∧ numAt b 24 4 = first.waveid.toNat ∧ numAt b 28 4 = first.code.toNat ∧
      numAt b 32 4 = (if x.kernel.mode = 1 then x.posted else 0) % 2 ^ 32 ∧ numAt b 44 4 = die % 2 ^ 32 ∧ numAt b 48 8 = s.clock die % 2 ^ 64) ∧
  (∀ (s : State) (die node : Nat) (nd : Node), s.nodes.find node = some nd →
    let b := s.bin die node
    let due : Prop := nd.coal ≤ b.recs.length ∨ ∃ t, b.deadline = some t ∧ t ≤ s.clock die
    (¬ due → exec (.binTimerExpire die node) s = .next s) ∧
    (due → (∀ k, k < nd.nbatch → k ∈ b.slots) → exec (.binTimerExpire die node) s = .next s) ∧
    (∀ k, due → k < nd.nbatch → k ∉ b.slots → (∀ j, j < k → j ∈ b.slots) → exec (.binTimerExpire die node) s = .next (s.closeBatch die node nd k))) ∧
  (∀ (s : State) (l : Nat), (s.launch l).kernel.mode = 1 → (s.launch l).status = .ready → (s.launch l).tainted = false → (s.launch l).bodyPhase = false → (∃ g ∈ s.gangs, g.2.launch = l) →
    (∀ g ∈ s.gangs, g.2.launch = l → g.2.status ≠ .ready ∧ g.2.status ≠ .saved) →
    (∀ w ∈ s.waves, (s.gang w.2.gang).launch = l → w.2.status ≠ .live ∧ w.2.status ≠ .saved) → (∀ o ∈ s.ops, o.launch ≠ l) →
    (∀ c ∈ s.cmds, (s.gang c.gang).launch ≠ l) →
    exec (.bodyPhaseStart l) s = .next ((s.modLaunch l fun x => { x with bodyPhase := true }).formerEntries l)) ∧
  (∀ (s : State) (f : Former), s.formers = [f] → s.thold = false → (s.power = .l0 ∨ s.power = .l1) → (s.launch f.loop).tainted = false →
    (∀ c rest it, f.cands = c :: rest → f.taken.length < 32 → f.asked = false → (s.launch f.loop).item.find c.1 = some it →
      ∃ t, exec (.bodyWaveForm f.loop (f.core / 144)) s = .next t ∧ t.formers = [{ f with asked := true }] ∧
        (t.pitchReqs.drop s.pitchReqs.length).map (fun r => (r.loop, r.pitch, r.item, r.body, r.prio, r.answer)) =
          it.pits.map fun p => (f.loop, p, c.1, f.body, c.2, none)) ∧
    (f.asked = true → (∃ r ∈ s.pitchReqs, r.loop = f.loop ∧ r.body = f.body ∧ r.answer = none) → exec (.bodyWaveForm f.loop (f.core / 144)) s = .next s) ∧
    (∀ c rest it, f.cands = c :: rest → f.taken.length < 32 → f.asked = true → (s.launch f.loop).item.find c.1 = some it → s.pitchReqs ≠ [] →
      (∀ r ∈ s.pitchReqs, r.loop = f.loop ∧ r.item = c.1 ∧ r.body = f.body ∧ r.answer = some true) →
      ∃ t, exec (.bodyWaveForm f.loop (f.core / 144)) s = .next t ∧ t.pitchReqs = [] ∧
        t.formers = [{ f with cands := rest, taken := f.taken ++ [c.1], asked := false }]) ∧
    (∀ c rest, f.cands = c :: rest → f.taken.length < 32 → f.asked = true →
      (∀ r ∈ s.pitchReqs, r.loop = f.loop ∧ r.item = c.1 ∧ r.body = f.body ∧ r.answer ≠ none) → (∃ r ∈ s.pitchReqs, r.answer = some false) →
      ∃ t, exec (.bodyWaveForm f.loop (f.core / 144)) s = .next t ∧ t.pitchReqs = [] ∧ t.launches = s.launches ∧
        t.formers = [{ f with cands := rest, denied := f.denied ++ [c.1], asked := false }] ∧
        t.pitchRels = s.pitchRels ++ (s.pitchReqs.filter fun r => r.answer == some true).map fun r => (f.loop, r.pitch, f.body, c.1)) ∧
    (f.cands = [] → f.taken = [] → f.asked = false → ∃ t, exec (.bodyWaveForm f.loop (f.core / 144)) s = .next t ∧ t.formers = [] ∧
      ∀ i ∈ f.denied, ∀ it, (s.launch f.loop).item.find i = some it → (t.launch f.loop).item.find i = some { it with trial := false })) ∧
  (∀ (s : State) (r : PitchReq), s.pitchReqs = [r] → r.answer = none → s.pitchRels = [] →
    let out (t : State) (ok : Bool) : State := { t with pitchReqs := [{ r with answer := some ok }] }
    let lower (d : Option Nat) : Option Nat := some (match d with
      | none => r.item
      | some j => min j r.item)
    (s.pitch = [] → exec (.pitchRequest r.id) s = .next (out { s with pitch := [⟨r.loop, r.pitch, .held r.body, none⟩] } true)) ∧
    (∀ b d, s.pitch = [⟨r.loop, r.pitch, .held b, d⟩] →
      exec (.pitchRequest r.id) s = .next (out { s with pitch := [⟨r.loop, r.pitch, .held b, lower d⟩] } false)) ∧
    (∀ j d, s.pitch = [⟨r.loop, r.pitch, .reserved j, d⟩] →
      (r.item ≤ j → exec (.pitchRequest r.id) s = .next (out { s with pitch := [⟨r.loop, r.pitch, .held r.body, if r.item < j then some j else none⟩] } true)) ∧
      (j < r.item → exec (.pitchRequest r.id) s = .next (out { s with pitch := [⟨r.loop, r.pitch, .reserved j, lower d⟩] } false)))) ∧
  (∀ (s : State) (l p b i : Nat), s.pitchRels = [(l, p, b, i)] →
    (s.pitch = [⟨l, p, .held b, none⟩] → exec (.pitchRelease 0) s = .next { s with pitchRels := [], pitch := [] }) ∧
    (∀ j, s.pitch = [⟨l, p, .held b, some j⟩] → exec (.pitchRelease 0) s = .next { s with pitchRels := [], pitch := [⟨l, p, .reserved j, none⟩] })) ∧
  (∀ (s : State) (g : Nat) (r : Nat × Nat × BitVec 32 × Word), (s.gang g).status = .resident → Plain s →
    (s.gang g).releases.find? (fun r => decide ((s.gang g).nextEntry < r.1)) = some r → (s.gang g).nextEntry < (s.gang g).stage →
    (s.cmds.filter fun c => c.gang == g && c.eng == 3 && c.dreg.isNone).length < 4 →
    let gg := s.gang g
    let x := s.launch gg.launch
    let ok (rs : List Range) : Prop := s.checkAllAs (tlbCopy gg.quad) (cmdWaiter g) gg.asid rs = .ok
    let bytes (va n : Nat) : List Byte := (Eng.read { s := s, via := some (tlbCopy gg.quad, cmdWaiter g) } g ⟨false, BitVec.ofNat 64 va⟩ n).1
    let va := (x.kernel.csched + BitVec.ofNat 64 (8 * gg.nextEntry)).toNat
    let w0 := numAt (bytes va 8) 0 4
    let w1 := numAt (bytes va 8) 4 4
    let ctl := entryCtl (BitVec.ofNat 32 w0) (BitVec.ofNat 32 w1)
    let block := x.cbtab.toNat + 32 * (w0 / 2 ^ 9 % 2 ^ 7)
    let b := readCopy (bytes block 32)
    ok [⟨.blockRead, va, 8, 1⟩] →
    ((w0 / 2 ^ 24 ≠ 0x90 ∧ w0 / 2 ^ 24 ≠ 0x91) ∨ x.ncb ≤ w0 / 2 ^ 9 % 2 ^ 7 →
      ∃ t, exec (.scheduleEntryStart g) s = .next t ∧ (t.gang g).nextEntry = gg.nextEntry + 1 ∧ t.cmds = s.cmds) ∧
    (w0 / 2 ^ 24 = 0x90 → w0 / 2 ^ 9 % 2 ^ 7 < x.ncb → ok [⟨.blockRead, block, 32, 8⟩] → copyStatus false b ctl x.kernel.wg = 0 →
      ok (copyRanges false b ctl) →
      (s.trackerRoom (s.waveAt r.2.1).core = false → exec (.scheduleEntryStart g) s = .next s) ∧
      (s.trackerRoom (s.waveAt r.2.1).core = true → ∃ t, exec (.scheduleEntryStart g) s = .next t ∧ (t.gang g).nextEntry = gg.nextEntry + 1 ∧
        ∃ c ∈ t.cmds, c.id = s.nextId ∧ c.gang = g ∧ c.op = copyOp false b ctl ∧ c.dreg = none ∧ c.tracker = true ∧ c.status = .running))) ∧
  (∀ (s : State) (g : Nat), (s.gang g).releases = [] → exec (.scheduleEntryStart g) s = .next s)

/-- R260, R324 to R326, R331, R337, R338, R490: command chains, launch packets and residency reports. A bad NODEDEF (log 26), that nothing is read in a hold (log
40), CWORD checked at each entry (log 41), the entries that RESET keeps (log 43), the acknowledgement of a packet that is refused (log 44), and the drop of a report
where more than RPTSIZE are in the ring (log 117) are the model's choices. -/
def Obligations.ChainEvents : Prop :=
  (∀ (s : State) (c : Nat), c < 64 → Serving s →
    let x := s.chain c
    (∀ v : BitVec 64, (x.status ≠ 0 ∨ (v - x.head).toNat ≤ x.entries) → exec (.chainTailWrite c v) s = .next (s.putChain c { x with tail := v })) ∧
    (∀ v : BitVec 64, x.status = 0 → x.entries < (v - x.head).toNat → ∃ t, exec (.chainTailWrite c v) s = .next t ∧
      t.chain c = { x with tail := v, status := 3 } ∧ t.hr.evstat.getLsbD 6 = true) ∧
    (∀ on, exec (.chainEnable c on) s = .next (s.putChain c { x with enable := on })) ∧
    (exec (.chainReset c) s = .next (s.putChain c { x with head := x.tail, status := 0, lastSeq := none }))) ∧
  (∀ (s : State) (c : Nat) (v : BitVec 64) (on : Bool), 64 ≤ c → Serving s →
    exec (.chainTailWrite c v) s = .next s ∧ exec (.chainEnable c on) s = .next s ∧ exec (.chainReset c) s = .next s) ∧
  (∀ (s : State) (c : Nat), c < 64 → s.thold = false → (s.power = .l0 ∨ s.power = .l1) →
    let x := s.chain c
    x.enable = true → x.status = 0 → x.head ≠ x.tail →
    (x.entries < (x.tail - x.head).toNat → s.nextEntry c = (s, .stop 3)) ∧
    (∀ t o, (x.tail - x.head).toNat ≤ x.entries → s.devGet x.asid (x.base.toNat + 64 * (x.head.toNat % x.entries)) 64 = (t, o) →
      (o = none → s.nextEntry c = (t, .stop 5)) ∧
      (∀ b, o = some b →
        let bad : Prop := 4 ≤ numAt b 0 4 ∨ ∃ q, x.lastSeq = some q ∧ wordAt b 8 ≠ q + 1
        (bad → s.nextEntry c = (t, .stop 1)) ∧
        (¬ bad → t.devOk x.asid true x.cword.toNat 8 = false → s.nextEntry c = (t, .stop 5)) ∧
        (¬ bad → t.devOk x.asid true x.cword.toNat 8 = true → s.nextEntry c = (t, .entry b))))) ∧
  (∀ (s : State) (c : Nat) (i : Instr), i ∈ [.chainNop c, .chainLaunch c, .chainSignal c, .chainNodedef c] →
    let x := s.chain c
    (64 ≤ c ∨ x.enable = false ∨ x.status ≠ 0 ∨ x.head = x.tail ∨ s.thold = true → exec i s = .next s) ∧
    (∀ t st, s.nextEntry c = (t, .stop st) → exec i s = .next (t.stopChain c st))) ∧
  (∀ (s t : State) (c : Nat) (b : List Byte), s.nextEntry c = (t, .entry b) → ((numAt b 4 4) % 2 = 0 ∨ (s.chain c).open_ = []) →
    let id := t.nextId
    let u := (t.takeEntry c b).2
    let asid := (t.chain c).asid
    let a := wordAt b 16
    (t.takeEntry c b).1 = id ∧ u.chain c = { t.chain c with
      head := (t.chain c).head + 1, lastSeq := some (wordAt b 8), open_ := (t.chain c).open_ ++ [⟨id, wordAt b 8, false, (numAt b 4 4) / 2 % 2 == 1⟩] } ∧
    (numAt b 0 4 = 0 → exec (.chainNop c) s = .next (u.chainDone c id)) ∧
    (numAt b 0 4 = 1 → (t.readyRoom = false → exec (.chainLaunch c) s = .next t) ∧
      (t.readyRoom = true →
        (u.submit asid a (some (wordAt b 32)) { chain := some (c, id) } = .dropped → exec (.chainLaunch c) s = .next (t.stopChain c 5)) ∧
        ∀ l v, u.submit asid a (some (wordAt b 32)) { chain := some (c, id) } = .taken l v → exec (.chainLaunch c) s = .next v)) ∧
    (numAt b 0 4 = 2 → t.counterOk asid a = false → exec (.chainSignal c) s = .next (t.stopChain c 4)) ∧
    (∀ p n, numAt b 0 4 = 2 → t.counterOk asid a = true → t.transNow asid a.toNat = .ok (p, n) → pteExpz p = false →
      Plain t → NothingToSpoil t → (∀ y ∈ t.launches, y.2.status ≠ .waiting) →
      let pa := ptePa p n a.toNat
      exec (.chainSignal c) s = .next ((u.storeLine pa (toBytes 8 (min ((t.load64 pa).toNat + (wordAt b 24).toNat) (2 ^ 64 - 1))) false).chainDone c id)) ∧
    (∀ d v, numAt b 0 4 = 3 → t.devGet asid a.toNat 64 = (v, some d) →
      let node := numAt d 0 4
      let x : Node := ⟨numAt d 4 4, numAt d 8 4, numAt d 12 4, numAt d 16 4, wordAt d 24, wordAt d 32, asid⟩
      let good : Prop := node < 256 ∧ x.rsize % 16 = 0 ∧ 16 ≤ x.rsize ∧ x.rsize ≤ 256 ∧ 1 ≤ x.coal ∧ x.coal ≤ 64 ∧ 1 ≤ x.nbatch ∧ x.nbatch ≤ 64
      let idle : Prop := ∀ die, die < 4 → (v.bin die node).recs = [] ∧ (v.bin die node).slots = []
      (¬ good → exec (.chainNodedef c) s = .next (v.stopChain c 1)) ∧
      (good → ¬ idle → exec (.chainNodedef c) s = .next (v.stopChain c 2)) ∧
      (good → idle → exec (.chainNodedef c) s = .next (State.chainDone { (v.takeEntry c b).2 with nodes := v.nodes.set node x } c v.nextId)))) ∧
  (∀ s : State, Serving s → s.hr.lpgo = 0 → hasMemory s.hr.lprec.toNat = true → hasMemory (s.hr.lprec.toNat + 159) = true → Plain s →
    let dst : BitVec 16 := s.hr.lpdest.extractLsb' 0 16
    (s.reaches dst = false → exec (.launchPacketSend 1) s = .next { s with hr := { s.hr with lpgo := 2 } }) ∧
    (s.reaches dst = true → exec (.launchPacketSend 1) s = .next { s with
      hr := { s.hr with lpgo := 1 }
      netOut := s.netOut ++ [.launch dst ⟨s.devid, Memory.read s.mem s.hr.lprec.toNat 160, s.hr.lptag, s.hr.lpdest.extractLsb' 16 3, s.hr.lpdest.extractLsb' 32 16,
        s.hr.lpcrec⟩] }) ∧
    (∀ go, go ≠ 1 → exec (.launchPacketSend go) s = .next s)) ∧
  (∀ s : State, (s.hr.lpgo = 1 → exec .launchPacketAck s = .next { s with hr := { s.hr with lpgo := 0 } }) ∧ (s.hr.lpgo ≠ 1 → exec .launchPacketAck s = .next s)) ∧
  (∀ (s : State) (p : LaunchPacket), s.power = .l0 →
    ((s.hr.sched.getLsbD 16 = false ∨ s.hr.sched.setWidth 16 ≠ p.src) → ∃ free, exec (.launchPacketReceive p) s = .next { s with
      netOut := s.netOut ++ [.launchAck p.src p.tag, .report p.src ⟨p.tag, s.devid, 3, 7, 0, 0, free⟩] }) ∧
    (s.hr.sched.getLsbD 16 = true → s.hr.sched.setWidth 16 = p.src → (s.readyRoom = false → exec (.launchPacketReceive p) s = .next s) ∧
      (s.readyRoom = true → ∀ l t, State.submitBytes { s with netOut := s.netOut ++ [.launchAck p.src p.tag] } p.asid 0 (some p.crec)
        { reporter := some (p.src, p.tag), prio := some p.prio.toNat } p.record = .taken l t → exec (.launchPacketReceive p) s = .next t))) ∧
  (∀ (s : State) (r : Report), let used := (s.hr.rpttail - s.hr.rpthead).toNat
    let pa := s.hr.rptbase.toNat + 32 * (s.hr.rpttail.toNat % s.hr.rptsize.toNat)
    (s.hr.rptsize.toNat ≤ used → ∃ t, exec (.residencyReportReceive r) s = .next t ∧ t.hr.rptlost = s.hr.rptlost + 1 ∧ t.hr.rpttail = s.hr.rpttail ∧
      t.hr.evstat.getLsbD 10 = true ∧ t.mem = s.mem) ∧
    (used < s.hr.rptsize.toNat → hasMemory pa = true → Plain s → s.hr.expztop = 0 → Memory.wf s.mem = true → ∃ t, exec (.residencyReportReceive r) s = .next t ∧
      t.hr.rpttail = s.hr.rpttail + 1 ∧ Memory.read t.mem pa 32 = toBytes 8 r.tag.toNat ++ toBytes 2 r.devid.toNat ++ toBytes 2 r.state.toNat ++
        toBytes 4 r.status.toNat ++ toBytes 4 r.resident.toNat ++ toBytes 4 r.retired.toNat ++ toBytes 4 r.freeq.toNat ++ toBytes 4 0 ∧
      (∀ a, (a < pa ∨ pa + 32 ≤ a) → Memory.get t.mem a = Memory.get s.mem a) ∧
      (65 ∈ s.msixMask → 65 ∈ t.msixPend) ∧ (65 ∉ s.msixMask → t.msixSent = s.msixSent ++ [65])))

/-- R395, R399, R401 to R405, R410 to R412, R418, R423, R448: the device as target and source of the fabric, and its ports. That a duplicate is answered again (log
66), the slot bytes outside a piece's mask (log 86), that a piece beyond its source's allowance gets no slot (log 118), that one which its source has not counted is
not taken once the step is applied (log 97), and that a routing word is stored as it is written (log 56) are the model's choices. -/
def Obligations.FabricEvents : Prop :=
  (∀ (s : State) (p : Piece), s.early = [] → s.waitReads = [] →
    let ack (t : State) (denied : Bool) : State := { t with netOut := t.netOut ++ [.pieceAck p.src p.step p.seqNo denied] }
    let key := p.src.toNat + 2 ^ 16 * p.step.toNat
    let last := s.recvNo.get 0 key
    let endedWith (o : StepOut) : Prop := ∃ e ∈ s.step.outcomes, e.1 = p.step ∧ e.2.1 = o
    let applied : Prop := endedWith .commit ∨ (s.step.written = true ∧ s.step.applying = some p.step)
    (p.dst ≠ s.devid → exec (.pieceArrive p) s = .next s) ∧
    (p.dst = s.devid → s.isMember p.src = false → exec (.pieceArrive p) s = .next (ack s true)) ∧
    (p.dst = s.devid → s.isMember p.src = true → endedWith .abort → exec (.pieceArrive p) s = .next s) ∧
    (p.dst = s.devid → s.isMember p.src = true → ¬ endedWith .abort → p.seqNo ≤ last →
      exec (.pieceArrive p) s = .next (ack s (s.refused.contains (key, p.seqNo)))) ∧
    (p.dst = s.devid → s.isMember p.src = true → ¬ endedWith .abort → ¬ applied →
      (last + 1 < p.seqNo → exec (.pieceArrive p) s = .next { s with early := [⟨p, s.writeRule p⟩] }) ∧
      (p.seqNo = last + 1 →
        (s.writeRule p = none → exec (.pieceArrive p) s =
          .next (ack { s with recvNo := s.recvNo.set key p.seqNo, refused := s.refused ++ [(key, p.seqNo)] } true)) ∧
        (∀ r, s.writeRule p = some r → exec (.pieceArrive p) s = .next (ack ({ s with recvNo := s.recvNo.set key p.seqNo }.stage p r) false)))) ∧
    (p.dst = s.devid → s.isMember p.src = true → ¬ endedWith .abort → last < p.seqNo → applied → exec (.pieceArrive p) s = .next s)) ∧
  (∀ (s : State) (p : Piece) (r : Nat) (q : Pod), s.pod = some q → Memory.wf s.mem = true →
    let t := s.stage p r
    (q.allow < p.seqNo → t = { s with staged := s.staged ++ [⟨p, r, none⟩] }) ∧
    (p.seqNo ≤ q.allow → ∃ slot, t.staged = s.staged ++ [⟨p, r, some slot⟩] ∧ (∀ g ∈ s.staged, g.piece.step = p.step → g.slot ≠ some slot) ∧
      let at_ := q.cocoon + p.step.toNat % 2 * (q.bank * 2 ^ 30) + 128 * slot
      (∀ i, i < 64 → Memory.get t.mem (at_ + 64 + i) = ((p.bytes.find? fun b => b.1 % 64 == i).map (·.2)).getD 0) ∧
      ∀ a, (a < at_ ∨ at_ + 128 ≤ a) → Memory.get t.mem a = Memory.get s.mem a)) ∧
  (∀ (s : State) (p : Piece), s.isMember p.src = true → (∀ b ∈ p.bytes, s.forbidden b.1 = false) →
    (∀ e, s.rpt = [(0, e)] → (nth 0 e 0).getLsbD 63 = true → (nth 0 e 0).getLsbD 59 = true → (nth 0 e 0).toNat / 2 ^ 60 % 8 = 0 →
      (nth 0 e 0).toNat / 2 ^ 6 % 2 ^ 46 ≤ p.pa / 64 → p.pa / 64 ≤ (nth 0 e 1).toNat / 2 ^ 6 % 2 ^ 46 → (nth 0 e 2).toNat / 2 ^ 16 % 2 ^ 16 = 0 → s.writeRule p = some 0) ∧
    (s.rpt = [] → s.writeRule p = none)) ∧
  (∀ (s : State) (r : Sent), s.sent = [r] → r.acked = false → r.spilled = false →
    (∃ t, exec (.pieceAck r.piece.dst r.piece.step r.piece.seqNo false) s = .next t ∧ t.sent = [] ∧ t.mem = s.mem ∧
      t.ops = s.ops.map fun (o : MemOp) => if some o.id = r.op then { o with pieces := o.pieces.filter (· != (r.piece.dst, r.piece.seqNo)) } else o) ∧
    (∀ p, s.pod = some p → (s.clock 0 < r.deadline → exec (.pieceRetransmit r.piece.dst r.piece.step r.piece.seqNo) s = .next s) ∧
      (r.deadline ≤ s.clock 0 → exec (.pieceRetransmit r.piece.dst r.piece.step r.piece.seqNo) s = .next { s with
        netOut := s.netOut ++ [.piece r.piece], sent := [{ r with deadline := s.clock 0 + p.retx * s.mhz }] }))) ∧
  (∀ (s : State) (q : ReadReq), q.dst = s.devid →
    (s.canServe q = false → (∀ r ∈ s.waitReads, r.1.id ≠ q.id) →
      exec (.remoteReadRequest q) s = .next { s with waitReads := s.waitReads ++ [(q, s.readAllowed q)] }) ∧
    (s.isMember q.src = false → exec (.remoteReadRequest q) s = .next { s with netOut := s.netOut ++ [.readReply q.src q.id (List.replicate q.len 0) true] }) ∧
    (∀ e, s.canServe q = true → s.isMember q.src = true → (∀ a ∈ upto q.pa q.len, s.forbidden a = false) → s.rptFor q.src q.pa = some e → rptR e = true → Plain s →
      q.spilled = [] →
      let answers (bs : List Byte) : Prop := exec (.remoteReadRequest q) s = .next { s with netOut := s.netOut ++ [.readReply q.src q.id bs false] }
      (s.staged = [] ∨ (∃ o ∈ s.step.outcomes, o.1 = q.step) ∨ (s.step.written = true ∧ s.step.applying = some q.step) →
        answers (Memory.read s.mem q.pa q.len)) ∧
      (∀ (g : Staged) (a : Nat) (x : Byte), s.staged = [g] → g.piece.src = q.src → g.piece.step = q.step → g.rule = 0 → g.piece.bytes = [(a, x)] →
        (∀ o ∈ s.step.outcomes, o.1 ≠ q.step) → (s.step.written = true → s.step.applying ≠ some q.step) →
        (g.piece.party ≠ q.party ∨ g.piece.seqNo ≤ q.last → answers ((upto q.pa q.len).map fun b => if b = a then x else Memory.get s.mem b)) ∧
        (g.piece.party = q.party → q.last < g.piece.seqNo → answers (Memory.read s.mem q.pa q.len))))) ∧
  (∀ (s : State) (q : ReadReq) (places : List (Nat × Nat)) (o : MemOp) (data : List (BitVec 8)), s.reads = [(q, places)] → s.ops = [o] → o.reads = [q.id] →
    data.length = q.len → (places.map (·.2)).Nodup →
    (∃ t p, exec (.remoteReadReply q.id data false) s = .next t ∧ t.reads = [] ∧ t.ops = [p] ∧ p.reads = [] ∧ p.denied = o.denied ∧
      ∀ c ∈ places, p.res.find c.2 = some (nth 0 data (c.1 - q.pa))) ∧
    (∃ t p, exec (.remoteReadReply q.id data true) s = .next t ∧ t.ops = [p] ∧ p.denied = true ∧ ∀ c ∈ places, p.res.find c.2 = some 0)) ∧
  (∀ (s : State) (g : Bool) (p : Nat) (nbr : BitVec 16) (c : Bool), p < (if g then 96 else 31) →
    let y := s.port g p
    (exec (.vcEscape g p c) s = .next (s.putPort g p { y with esccnt := y.esccnt + 1 })) ∧
    (y.state = .down → exec (.linkLoss g p) s = .next s) ∧
    (y.state ≠ .down → ∃ t, exec (.linkLoss g p) s = .next t ∧ t.port g p = { y with state := .down } ∧ t.hr.evstat.getLsbD 1 = true) ∧
    (y.state ≠ .down ∨ y.light = false → exec (.linkLock g p nbr) s = .next s) ∧
    (y.state = .down → y.light = true →
      let changed := y.locked && y.nbr != nbr
      ∃ t, exec (.linkLock g p nbr) s = .next t ∧ t.hr.evstat.getLsbD 1 = true ∧ (changed = true → t.hr.evstat.getLsbD 2 = true) ∧ t.port g p = { y with
        nbr := nbr, locked := true, nbrchg := y.nbrchg || changed, hold := false, state := if y.hold || changed || y.nbrchg then .held else .up })) ∧
  (∀ (s : State) (c : Cmd) (g : Bool) (p : Nat) (d : Nat), s.cmdAt c.id = some c → c.dreg = some d → c.bad = [] → (s.waves.find c.wave).isSome = true →
    (s.gang c.gang).status = .resident → (s.waveAt c.wave).status = .live →
    (c.op = .linkDrain g p → ∃ t, exec (.drainMarkerReturn c.id) s = .next t ∧ (∀ q ∈ t.cmds, q.id ≠ c.id) ∧
      (t.waveAt c.wave).sreg d = compWord 5 0 0 (s.port g p).count ∧ (t.waveAt c.wave).sFull d = true) ∧
    (∀ e, c.op = .linkEnable g p → c.deadline = some e →
      (s.clock 0 < e → exec (.linkEnableTimeout c.id) s = .next s) ∧
      (e ≤ s.clock 0 → ∃ t, exec (.linkEnableTimeout c.id) s = .next t ∧ (∀ q ∈ t.cmds, q.id ≠ c.id) ∧
        (t.waveAt c.wave).sreg d = compWord 5 9 0 (s.port g p).count ∧ (t.waveAt c.wave).sFull d = true))) ∧
  (∀ (s : State) (grp : Nat) (v : BitVec 64), Serving s →
    (2048 ≤ grp → exec (.routeWrite grp v) s = .next s) ∧
    (grp < 2048 → ∃ t, exec (.routeWrite grp v) s = .next t ∧ t.routes = s.routes.set grp v ∧
      ∀ p, (memberOf s.devid, p) ∈ routePairs v → (s.port true p).state = .held → (s.port true p).nbrchg = true →
        (t.port true p).state = .up ∧ (t.port true p).nbrchg = false)) ∧
  (∀ (s : State) (d : BitVec 16) (p : Pod) (t : Nat), s.pod = some p → s.noRoute.find d.toNat = some t → s.step.left = false →
    (t + p.stepto * s.mhz < s.clock 0 → exec (.noRouteTimeout d) s = .next { s with netOut := s.netOut ++ [.lost s.step.stepno] }) ∧
    (s.clock 0 ≤ t + p.stepto * s.mhz → exec (.noRouteTimeout d) s = .next s))

/-- R406 to R412, R414 to R417, R420, R453: forming and dissolving a pod, and its steps at a member and at the root. FORM 0xff for a dissolution that is not quiescent
(log 47), the regions whose overlap a descriptor is refused for (log 46), the defaults of its reading (log 45), that ARRIVED and COMMIT tell how many pieces each
source has sent each target (log 97), and that a launch waits for the outcome of a step that it wrote in (log 119) are the model's choices. -/
def Obligations.StepEvents : Prop :=
  let later (s : State) : List Word := s.step.openFor.filter fun n => decide (s.step.stepno.toNat < n.toNat)
  (∀ (s : State) (p : Pod), s.pod = some p → p.part = 0 → s.step.left = false → s.step.reported = none → s.step.applying = none →
    (s.step.colArrived = false → exec .stepArrivedSend s = .next s) ∧
    (s.step.colArrived = true → s.sent = [] → exec .stepArrivedSend s = .next { s with
      netOut := s.netOut ++ [.arrived s.step.stepno true s.seqNos], seqNos := [], allowance := []
      step := { s.step with reported := some s.step.stepno, stepno := s.step.stepno + 1, colArrived := false, openFor := later s } })) ∧
  (∀ (s : State) (p : Pod), s.pod = some p → p.part ≠ 0 → s.step.left = false → s.step.reported = none → s.step.applying = none → s.waves = [] →
    (s.step.stepno ∉ s.step.openFor → exec .stepArrivedSend s = .next s) ∧
    (s.step.stepno ∈ s.step.openFor → s.sent = [] → exec .stepArrivedSend s = .next { s with
      netOut := s.netOut ++ [.arrived s.step.stepno false s.seqNos], seqNos := [], allowance := []
      step := { s.step with reported := some s.step.stepno, stepno := s.step.stepno + 1, colArrived := false, openFor := later s } })) ∧
  (∀ (s : State) (n : Word), (s.pod ≠ none → s.step.stepno.toNat ≤ n.toNat → exec (.stepOpenReceive n) s = .next { s with step := { s.step with openFor := s.step.openFor.filter (· != n) ++ [n] } }) ∧
    (n.toNat < s.step.stepno.toNat → exec (.stepOpenReceive n) s = .next s)) ∧
  (∀ (s : State) (p : Pod) (n : Word) (due : List (Nat × Nat)), s.pod = some p → s.step.left = false → (∀ o ∈ s.step.outcomes, o.1 ≠ n) →
    let held := (s.reads.filter fun r => r.1.step == s.step.stepno).map fun r => Packet.readReq r.1
    (s.step.applying ≠ some n → s.step.reported ≠ some n → exec (.stepCommit ⟨n, due⟩) s = .next s) ∧
    (s.step.applying ≠ some n → s.step.reported = some n → s.sent = [] → exec (.stepCommit ⟨n, due⟩) s = .next { s with
      launches := s.launches.update fun _ l => stepOver false l
      step := { s.step with reported := none, applying := some n, written := false, fired := [], due := due, applied := n + 1 }, netOut := s.netOut ++ held ++ [.outcomeAck n] }) ∧
    (s.step.reported = some n → s.sent = [] → s.waitReads = [] → ∃ t, exec (.stepAbort n) s = .next t ∧ t.step.reported = none ∧
      t.launches = (s.launches.update fun _ l => stepOver true l) ∧
      t.step.outcomes = s.step.outcomes ++ [(n, .abort, false)] ∧ t.staged = s.staged.filter (fun g => g.piece.step != n) ∧ t.mem = s.mem ∧
      t.waves = s.waves ∧ t.hr.evstat.getLsbD 3 = true ∧ t.netOut = s.netOut ++ held ++ [.outcomeAck n]) ∧
    (s.step.reported ≠ some n → n = s.step.stepno → s.sent = [] → s.waitReads = [] → ∃ t, exec (.stepAbort n) s = .next t ∧
      t.launches = (s.launches.update fun _ l => stepOver true l) ∧ t.step.openFor = later s ∧ t.step.stepno = n + 1 ∧ t.step.reported = s.step.reported ∧ t.step.colArrived = false ∧ t.step.outcomes = s.step.outcomes ++ [(n, .abort, false)] ∧
      t.staged = s.staged.filter (fun g => g.piece.step != n) ∧ t.mem = s.mem ∧ t.hr.evstat.getLsbD 3 = true ∧ t.netOut = s.netOut ++ [.outcomeAck n] ∧
      ∀ k w, s.waves.find k = some w → ∃ v, t.waves.find k = some v ∧
        v.stepArr = w.stepArr.map fun a => (if a.1 = some n then none else a.1, a.2)) ∧
    (s.step.reported ≠ some n → n ≠ s.step.stepno → exec (.stepAbort n) s = .next s)) ∧
  (∀ (s : State) (p : Pod) (n : Word), s.pod = some p → s.step.applying = some n → s.sent = [] → s.waitReads = [] →
    let come (d : Nat × Nat) : Prop := d.2 ≤ s.recvNo.get 0 (d.1 % 2 ^ 16 + 2 ^ 16 * n.toNat)
    ((∃ d ∈ s.step.due, ¬ come d) → exec .stepApplyComplete s = .next s) ∧
    (s.step.written = true → s.applyQ ≠ [] → exec .stepApplyComplete s = .next s) ∧
    ((∀ d ∈ s.step.due, come d) → s.step.written = false → s.applyQ = [] → Plain s → Alone s → Memory.wf s.mem = true →
    (s.staged = [] → ∃ t, exec .stepApplyComplete s = .next t ∧ t.step.applying = none ∧ t.step.outcomes = s.step.outcomes ++ [(n, .commit, false)] ∧ t.mem = s.mem) ∧
    (∀ (g : Staged) (a : Nat) (x : Byte), s.staged = [g] → g.piece.step = n → g.piece.bytes = [(a, x)] → g.rule = 0 → g.piece.entry = none →
      ∃ t, exec .stepApplyComplete s = .next t ∧ t.step.applying = none ∧ t.step.outcomes = s.step.outcomes ++ [(n, .commit, false)] ∧ t.staged = [] ∧
        Memory.get t.mem a = x ∧ ∀ b, b ≠ a → Memory.get t.mem b = Memory.get s.mem b))) ∧
  (∀ (s : State) (p : Pod) (d : BitVec 16) (n : Word) (part : Bool) (sent : List (Nat × Nat)), s.pod = some p → p.root = s.devid → p.members = [d] → s.root = [] →
    let count := ((sent.find? fun x => x.1 == d.toNat).map (·.2)).getD 0
    (∃ t r, exec (.stepArrivedReceive d n ⟨part, sent⟩) s = .next t ∧ t.root = [r] ∧ r.step = n ∧ r.arrived = [d] ∧ r.counts = [(d, sent)] ∧ r.outcome = some .commit ∧
      t.netOut = s.netOut ++ (if part then [.openStep d n] else []) ++ [.outcome d n .commit (if count = 0 then [] else [(d.toNat, count)])]) ∧
    (exec (.stepLostReceive d n) s = .next { s with
      root := [⟨n, [], [], true, none, false, some .abort, []⟩], netOut := s.netOut ++ [.outcome d n .abort []] })) ∧
  (∀ (s : State) (p : Pod) (d : BitVec 16) (r : RootStep), s.pod = some p → p.root = s.devid → p.members = [d] → s.root = [r] →
    (∀ t, r.outcome = none → r.since = some t → (s.clock 0 < t + p.stepto * s.mhz → exec .stepTimeout s = .next s) ∧
      (t + p.stepto * s.mhz ≤ s.clock 0 → exec .stepTimeout s = .next { s with
        root := [{ r with outcome := some .abort }], netOut := s.netOut ++ [.outcome d r.step .abort []] })) ∧
    (∀ o, r.outcome = some o → r.acks = [] → exec (.stepOutcomeAck d r.step) s = .next { s with root := [] } ∧
      exec (.stepOutcomeResend r.step) s = .next { s with netOut := s.netOut ++ [.outcome d r.step o (if o = .commit then r.due d else [])] })) ∧
  (∀ (rule old x : Nat), old < 2 ^ 64 → x < 2 ^ 64 →
    (rule = 0 ∨ rule = 6 → combine rule old x = x) ∧ (rule = 1 → combine rule old x = (old + x) % 2 ^ 64) ∧
    (rule = 2 → combine rule old x = (f32add (BitVec.ofNat 32 old) (BitVec.ofNat 32 x)).toNat) ∧
    (rule = 3 → combine rule old x = if (BitVec.ofNat 64 old).sle (BitVec.ofNat 64 x) then old else x) ∧
    (rule = 4 → combine rule old x = if (BitVec.ofNat 64 old).sle (BitVec.ofNat 64 x) then x else old) ∧ (rule = 5 → combine rule old x = old ||| x)) ∧
  (∀ s : State, Serving s → s.quiescent = true → s.col = none → s.pod ≠ none → ∃ t, exec .podDissolve s = .next t ∧ t.pod = none ∧ t.step = StepState.reset ∧ t.hr.form = 0 ∧
    t.staged = [] ∧ t.sent = [] ∧ t.mem = s.mem ∧ (∀ k w, t.waves.find k = some w → w.stepArr = none) ∧ (∀ l ∈ t.launches, l.2.stepPc = none) ∧
      ∀ k w n bar, s.waves.find k = some w → w.waiting = some (.step n bar none) → (t.waveAt k).waiting =
        some (.step n bar (some (((s.step.outcomes.find? fun o => o.1 == n).map (·.2)).getD (.abort, false))))) ∧
  (∀ s : State, Serving s → s.quiescent = false → exec .podDissolve s = .next { s with hr := { s.hr with form := 0xff } }) ∧
  (∀ s : State, Serving s → s.quiescent = true → s.col = none → Plain s →
    let b := s.hr.podBytes
    let at_ := numAt b 8 8
    let p := readPod b (bitmapIds (s.load at_ 8192))
    hasMemory at_ = true → hasMemory (at_ + 8191) = true →
    (p.ok (numAt b 4 4) s.devid = true → ∃ t, exec .podForm s = .next t ∧ t.pod = some p ∧ t.step = StepState.reset ∧ t.hr.form = 0 ∧ t.hr.arrdrop = 0 ∧ t.mem = s.mem) ∧
    (p.ok (numAt b 4 4) s.devid = false → ∃ t, exec .podForm s = .next t ∧ t.pod = s.pod ∧ t.hr.form = 0xff ∧ t.mem = s.mem))

/-- R482 to R488, R492 to R496, R498: registers of BAR0, power states, thermal holds, the checkpoint, and reset. What a reset keeps (log 53), TRESUME written outside a
hold (log 51), writes before step 4 of bring-up (log 98), L1 with some core idle (log 99), and the pace of the checkpoint (log 28) are the model's choices. -/
def Obligations.HostEvents : Prop :=
  (∀ (s : State) (m : BitVec 64), Serving s →
    let left := s.hr.evstat &&& ~~~(m.setWidth 32)
    ∃ t, exec (.evstatClear m) s = .next t ∧ t.hr = { s.hr with evstat := left } ∧ (left &&& ~~~s.hr.evmask = 0 → t.msixSent = s.msixSent) ∧
      (left &&& ~~~s.hr.evmask ≠ 0 → 0 ∉ s.msixMask → t.msixSent = s.msixSent ++ [0])) ∧
  (∀ (s : State) (h : BitVec 8) (a : BitVec 16) (n : Nat) (w : Watch), Serving s → s.watch.find n = some w →
    (∃ t, exec (.wpclearHandle h) s = .next t ∧ t.watch.find n = some (if n = h.toNat then { w with armed := false } else w)) ∧
    (∃ t, exec (.wpclearAsid a) s = .next t ∧ t.watch.find n = some (if w.asid = a then { w with armed := false } else w)) ∧
    (∃ t, exec .wpclearAll s = .next t ∧ t.watch.find n = some { w with armed := false })) ∧
  (∀ (s : State) (v : Nat), (v ∉ s.msixPend → exec (.msixVectorUnmask v) s = .next { s with msixMask := s.msixMask.filter (· != v) }) ∧
    (v ∈ s.msixPend → exec (.msixVectorUnmask v) s = .next { s with
      msixMask := s.msixMask.filter (· != v), msixPend := s.msixPend.filter (· != v), msixSent := s.msixSent ++ [v] })) ∧
  (∀ s : State, Serving s →
    (s.hr.ckStatus = 1 → exec .checkpointGo s = .next s) ∧
    (s.hr.ckStatus ≠ 1 → s.hr.ckSrc.toNat + s.hr.ckLen.toNat ≤ 2 ^ 39 → 2 ^ 51 ≤ s.hr.ckDst.toNat → s.hr.ckDst.toNat + s.hr.ckLen.toNat ≤ 2 ^ 52 →
      exec .checkpointGo s = .next { s with ckPos := 0, hr := { s.hr with ckStatus := 1 } })) ∧
  (∀ s : State, s.hr.ckStatus = 1 →
    (∃ t, exec (.checkpointDone true) s = .next t ∧ t.hr.ckStatus = 2 ∧ t.hr.evstat.getLsbD 8 = true ∧ t.mem = s.mem) ∧
    (s.ckPos = 0 → s.hr.ckLen = 128 → s.dirty = [] → Plain s → s.hr.expztop = 0 → Memory.wf s.mem = true → s.hr.ckSrc.toNat + 128 ≤ s.hr.ckDst.toNat →
      ∃ t, exec (.checkpointDone false) s = .next t ∧ t.hr.ckStatus = 0 ∧ t.hr.evstat.getLsbD 8 = true ∧
        ∀ k, k < 128 → Memory.get t.mem (s.hr.ckDst.toNat + k) = Memory.get s.mem (s.hr.ckSrc.toNat + k))) ∧
  (∀ (s : State) (v : BitVec 64), Serving s →
    exec (.registerWrite 0x8 v) s = .next { s with hr := { s.hr with pcap := v.setWidth 16 } } ∧
    exec (.registerWrite 0x20 v) s = .next { s with hr := { s.hr with evmask := v.setWidth 32 &&& 0xfff } } ∧
    exec (.registerWrite 0x28 v) s = .next { s with hr := { s.hr with sched := v.setWidth 17 } } ∧
    exec (.registerWrite 0x30 v) s = .next { s with hr := { s.hr with age := v.setWidth 32 } } ∧
    exec (.registerWrite 0x38 v) s = .next { s with hr := { s.hr with prelevel := v.setWidth 4 } } ∧
    exec (.registerWrite 0x40 v) s = .next { s with hr := { s.hr with savebud := v.setWidth 32 } } ∧
    exec (.registerWrite 0x50000 v) s = .next { s with hr := { s.hr with asidtab := v } } ∧
    exec (.registerWrite 0x60020 v) s = .next { s with hr := { s.hr with savebase := v } } ∧
    (∀ c, c < 64 → exec (.registerWrite (0x10000 + 64 * c) v) s = .next (s.putChain c { s.chain c with base := v })) ∧
    (∀ o, 0xa0000 ≤ o → exec (.registerWrite o v) s = .next s)) ∧
  (∀ s : State, ∃ t, exec .deviceReset s = .next t ∧ t.hr = State.reset.hr ∧ t.gangs = [] ∧ t.waves = [] ∧ t.launches = [] ∧ t.pod = none ∧ t.clk = [0, 0, 0, 0] ∧
    t.chains = [] ∧ t.bringUp = 1 ∧ t.power = .l3 ∧ t.devid = s.devid ∧ ∀ c, c ∈ t.mem ↔ c ∈ s.mem ∧ 2 ^ 51 ≤ c.1) ∧
  (∀ (s : State) (off : Nat), s.bringUp < 4 → off / 2 ^ 16 ≠ 0 → off / 2 ^ 16 ≠ 7 → s.barRead off = 0 ∧
    ∀ v, exec (.registerWrite off v) s = .next s) ∧
  (∀ s : State, (4 ≤ s.bringUp → s.nextBringUp = s) ∧ (s.bringUp < 4 → s.nextBringUp.bringUp = s.bringUp + 1) ∧
    (s.bringUp = 2 → s.nextBringUp.power = .l0 ∧ s.nextBringUp.clk = [0, 0, 0, 0])) ∧
  (∀ s : State, s.thold = false → s.waking = none →
    (s.power.num < s.deepest.num → exec .powerStateEnter s = .next { s with power := s.deepest }) ∧
    (s.deepest.num ≤ s.power.num → exec .powerStateEnter s = .next s) ∧
    let light : PState := if s.idleCore then .l1 else .l0
    (s.hr.ltol.toNat < 2 → s.deepest = .l0) ∧ (2 ≤ s.hr.ltol.toNat → s.hr.ltol.toNat < 300 → s.deepest = light) ∧
    (300 ≤ s.hr.ltol.toNat → s.hr.ltol.toNat < 50000 → s.deepest = if s.restful then .l2 else light) ∧
    (50000 ≤ s.hr.ltol.toNat → s.deepest = if s.restful then .l3 else light)) ∧
  (∀ s : State, s.idleCore = true ↔ ∃ c, c < 576 ∧ ∀ w ∈ s.waves, w.2.core = c → s.holds w.2 = false) ∧
  (∀ s : State, (s.power = .l0 ∨ s.thold = true → exec .powerWake s = .next s) ∧
    (s.power ≠ .l0 → s.thold = false → 3 ≤ s.bringUp → s.waking = none → exec .powerWake s = .next { s with waking := some s.power }) ∧
    (s.waking = none → exec .powerExitComplete s = .next s) ∧ (s.waking ≠ none → exec .powerExitComplete s = .next { s with waking := none, power := .l0 })) ∧
  (∀ (s : State) (f : Nat), (0 < f → f ≤ 1400 → exec (.arithmeticClockChange f) s = .next { s with mhz := f }) ∧
    (f = 0 ∨ 1400 < f → exec (.arithmeticClockChange f) s = .next s)) ∧
  (∀ (s : State) (die : Nat), (s.thold = true → exec (.thermalTrip die) s = .next s) ∧
    (s.thold = false → s.pod = none → s.gangs = [] → ∃ t, exec (.thermalTrip die) s = .next t ∧ t.thold = true ∧ t.waking = none ∧ t.hr.evstat.getLsbD 0 = true ∧ t.mem = s.mem)) ∧
  (∀ s : State, (s.thold = true → 2 ≤ s.bringUp → exec .thermalResume s = .next { s with hr := { s.hr with tresume := true } }) ∧
    (s.thold = false → Serving s → exec .thermalResume s = .next s) ∧
    (s.thold = true → s.hr.tresume = true → s.power = .l2 → exec .thermalHoldEnd s = .next { s with
      thold := false, hr := { s.hr with tresume := false }, waking := some .l2 }) ∧
    ((s.thold = false ∨ s.hr.tresume = false ∨ s.power ≠ .l2) → exec .thermalHoldEnd s = .next s))
end

