-- ==== Sys2Proof/Laws/Memory.lean ====
section
/-!
SUPPORT. The laws of byte memory: reading after writing, and that every write keeps the canonical form.
-/
namespace Sys2Proof.Machine.Memory

theorem get_set_same (m : List Host.Cell) (a : Nat) (b : Byte) (h : wf m = true) : get (set m a b) a = b := by
  suffices ∀ lo, wfFrom lo m = true → get (set m a b) a = b from this none h
  clear h
  induction m with
  | nil => intro lo _; simp only [set]; split <;> simp_all [get]
  | cons c m ih =>
    obtain ⟨i, x⟩ := c
    intro lo hw
    simp only [wfFrom, Bool.and_eq_true] at hw
    have above : ∀ (m : List Host.Cell) (i : Nat), wfFrom (some i) m = true → ∀ a, a ≤ i → get m a = memDefault := by
      intro m
      induction m with
      | nil => intros; rfl
      | cons c m ih =>
        intro i hw a ha
        simp only [wfFrom, Bool.and_eq_true, decide_eq_true_eq] at hw
        simp only [get]
        rw [if_neg (by omega)]
        exact ih c.1 hw.2 a (by omega)
    simp only [set]
    split
    · split
      · rename_i hb
        simp only [get]
        rw [if_neg (by omega), above m i hw.2 a (by omega), hb]
      · simp [get]
    · split
      · rename_i e
        subst e
        split
        · rename_i hb
          rw [above m i hw.2 i (by omega), hb]
        · simp [get]
      · rename_i e
        simp only [get, e, if_false]
        exact ih (some i) hw.2

theorem get_set_other (m : List Host.Cell) (a c : Nat) (b : Byte) (h : c ≠ a) : get (set m a b) c = get m c := by
  induction m with
  | nil => simp only [set]; split <;> simp [get, Ne.symm h]
  | cons p m ih =>
    obtain ⟨i, x⟩ := p
    simp only [set]
    split
    · split <;> simp [get, Ne.symm h]
    · split
      · rename_i e
        subst e
        split <;> simp [get, Ne.symm h]
      · simp [get, ih]

theorem wf_set (m : List Host.Cell) (a : Nat) (b : Byte) (h : wf m = true) : wf (set m a b) = true := by
  suffices ∀ lo, wfFrom lo m = true → (∀ l, lo = some l → l < a) → wfFrom lo (set m a b) = true from this none h (by simp)
  clear h
  induction m with
  | nil =>
    intro lo _ hl
    simp only [set]
    split
    · simp [wfFrom]
    · cases lo with
      | none => simp_all [wfFrom]
      | some l => have := hl l rfl; simp_all [wfFrom]
  | cons c m ih =>
    obtain ⟨i, x⟩ := c
    intro lo hw hl
    simp only [wfFrom, Bool.and_eq_true] at hw
    have h1 : ∀ (y : Byte), y ≠ memDefault → a < i → wfFrom lo ((a, y) :: (i, x) :: m) = true := by
      intro y hy hlt
      simp only [wfFrom, Bool.and_eq_true]
      refine ⟨⟨?_, by simpa using hy⟩, ⟨by simpa using hlt, hw.1.2⟩, hw.2⟩
      cases lo with
      | none => rfl
      | some l => simpa using hl l rfl
    simp only [set]
    split
    · rename_i hlt
      split
      · simp [wfFrom, hw]
      · exact h1 b ‹_› hlt
    · split
      · rename_i hlt e
        subst e
        split
        · cases m with
          | nil => rfl
          | cons d m =>
            have h2 := hw.2
            simp only [wfFrom, Bool.and_eq_true, decide_eq_true_eq] at h2 ⊢
            refine ⟨⟨?_, h2.1.2⟩, h2.2⟩
            cases lo with
            | none => rfl
            | some l => have := hl l rfl; simp; omega
        · rename_i hb
          simp only [wfFrom, Bool.and_eq_true]
          exact ⟨⟨hw.1.1, by simpa using hb⟩, hw.2⟩
      · rename_i hlt hne
        simp only [wfFrom, Bool.and_eq_true]
        refine ⟨hw.1, ih (some i) hw.2 ?_⟩
        intro l hll
        simp only [Option.some.injEq] at hll
        omega

theorem wf_write (bs : List Byte) : ∀ (m : List Host.Cell) (a : Nat), wf m = true → wf (write m a bs) = true := by
  induction bs with
  | nil => intro m a h; exact h
  | cons b bs ih => intro m a h; exact ih _ _ (wf_set m a b h)

theorem get_write_out (bs : List Byte) : ∀ (m : List Host.Cell) (a c : Nat), c < a ∨ a + bs.length ≤ c → get (write m a bs) c = get m c := by
  induction bs with
  | nil => intros; rfl
  | cons b bs ih =>
    intro m a c h
    simp only [List.length_cons] at h
    simp only [write]
    rw [ih _ _ _ (by omega), get_set_other _ _ _ _ (by omega)]

theorem get_write_in (bs : List Byte) : ∀ (m : List Host.Cell) (a k : Nat) (hk : k < bs.length), wf m = true →
    get (write m a bs) (a + k) = bs[k] := by
  induction bs with
  | nil => intro m a k hk; simp at hk
  | cons b bs ih =>
    intro m a k hk h
    simp only [write]
    cases k with
    | zero => rw [get_write_out _ _ _ _ (by omega)]; simpa using get_set_same m a b h
    | succ k =>
      have := ih (set m a b) (a + 1) k (by simpa using hk) (wf_set m a b h)
      simpa [Nat.add_assoc, Nat.add_comm 1 k] using this

/-- Reading the bytes just written. -/
theorem read_write (m : List Host.Cell) (a : Nat) (bs : List Byte) (h : wf m = true) : read (write m a bs) a bs.length = bs := by
  apply List.ext_getElem
  · simp [read]
  · intro k h1 h2
    simp [read, get_write_in bs m a k h2 h]

/-- Reading bytes apart from those written. -/
theorem read_write_out (m : List Host.Cell) (a c n : Nat) (bs : List Byte) (h : c + n ≤ a ∨ a + bs.length ≤ c) :
    read (write m a bs) c n = read m c n := by
  simp only [read, List.map_inj_left, List.mem_range]
  intro i hi
  exact get_write_out bs m a (c + i) (by omega)

@[simp] theorem read_length (m : List Host.Cell) (a n : Nat) : (read m a n).length = n := by simp [read]

end Sys2Proof.Machine.Memory
end

