-- ==== Sys2Proof/Laws/Plain.lean ====
section
/-!
SUPPORT. What the operations of the home slices do where no line reduces, holds a shadow, fails, or is watched: they leave
memory alone, and a store is a write of bytes.
-/
namespace Sys2Proof.Machine

theorem State.wake_l0 {s : State} (h : s.power = .l0) : s.wake = s := by simp [State.wake, h]

theorem State.startFlush_nil {s : State} (h : s.reduce = []) (line : Nat) : s.startFlush line = s := by
  simp [State.startFlush, h]

theorem State.drainFlushes_nil {s : State} (h : s.flushQ = []) (line : Nat) : s.drainFlushes line = s := by
  simp [State.drainFlushes, h]

theorem State.roundLine_nil {s : State} (h : s.shadow = []) (line : Nat) : s.roundLine line = s := by
  simp [State.roundLine, h]

theorem State.clean_nil {s : State} (hr : s.reduce = []) (hf : s.flushQ = []) (hs : s.shadow = []) (line : Nat) : s.clean line = s := by
  simp [State.clean, State.startFlush_nil hr, State.drainFlushes_nil hf, State.roundLine_nil hs]

theorem State.cleanOver_nil {s : State} (hr : s.reduce = []) (hf : s.flushQ = []) (hs : s.shadow = []) (pa n : Nat) :
    s.cleanOver pa n = s := by
  have key : ∀ l : List Nat, l.foldl (fun (s : State) i => s.clean (pa / 128 + i)) s = s := by
    intro l
    induction l with
    | nil => rfl
    | cons i l ih => simp [State.clean_nil hr hf hs, ih]
  unfold State.cleanOver
  split
  · rfl
  · exact key _

/-- With no watchpoint set, an applied value fires nothing. -/
theorem State.applied_nil {s : State} (h : s.watch = []) (fired : List Nat) (pa : Nat) : s.applied fired pa = (s, fired) := by
  simp [State.applied, h]

theorem State.appliedOver_nil {s : State} (h : s.watch = []) (fired : List Nat) (pa n : Nat) : s.appliedOver fired pa n = (s, fired) := by
  have key : ∀ l : List Nat, l.foldl (fun (x : State × List Nat) i => x.1.applied x.2 (8 * (pa / 8 + i))) (s, fired) = (s, fired) := by
    intro l
    induction l with
    | nil => rfl
    | cons i l ih => simp [State.applied_nil h, ih]
  unfold State.appliedOver
  split
  · rfl
  · exact key _

theorem State.soil_mem (s : State) (line : Nat) (e : Bool) (ls : List Nat) : (s.soil line e ls).mem = s.mem := by
  unfold State.soil; repeat' split
  all_goals rfl

/-- `soil` changes only the list of DIRTY lines. -/
theorem State.soil_eq (s : State) (line : Nat) (e : Bool) (ls : List Nat) : ∃ d, s.soil line e ls = { s with dirty := d } := by
  unfold State.soil; repeat' split
  all_goals exact ⟨_, rfl⟩

/-- A store changes only memory and the list of DIRTY lines. -/
theorem State.storeLine_eq (s : State) (pa : Nat) (bs : List Byte) (e : Bool) (ls : List Nat) :
    ∃ d, s.storeLine pa bs e ls = { s with dirty := d, mem := Memory.write s.mem pa bs } := by
  unfold State.storeLine
  obtain ⟨d, hd⟩ := s.soil_eq (lineOf pa) e ls
  exact ⟨d, by rw [hd]⟩

theorem State.storeLine_mem (s : State) (pa : Nat) (bs : List Byte) (e : Bool) (ls : List Nat) : (s.storeLine pa bs e ls).mem = Memory.write s.mem pa bs := by
  obtain ⟨d, hd⟩ := s.storeLine_eq pa bs e ls
  rw [hd]

/-- On a page that is not EXPZ a store needs no overflow slot (R234). -/
theorem State.noSlot_plain (s : State) (pa : Nat) : s.noSlot pa false = false := rfl

/-- With EXPZTOP 0, as reset leaves it, no line is an EXPZ line (R237, R487). -/
theorem State.isExpz_none {s : State} (h : s.hr.expztop = 0) (pa : Nat) : s.isExpz pa = false := by simp [State.isExpz, h]

/-- Bytes stored where no line is an EXPZ line. -/
theorem State.storeAll_eq (bs : List Byte) : ∀ (s : State) (pa : Nat), s.hr.expztop = 0 →
    ∃ d, s.storeAll pa bs = { s with dirty := d, mem := Memory.write s.mem pa bs } := by
  induction bs with
  | nil => intro s pa _; exact ⟨s.dirty, rfl⟩
  | cons b bs ih =>
    intro s pa hz
    simp only [State.storeAll, State.isExpz_none hz, State.noSlot_plain, Bool.false_eq_true, if_false]
    obtain ⟨d, hd⟩ := s.storeLine_eq pa [b] false []
    obtain ⟨e, he⟩ := ih (s.storeLine pa [b] false) (pa + 1) (by rw [hd]; exact hz)
    exact ⟨e, by rw [he, hd]; rfl⟩

/-- With no command and no launch there is no region that a store could disturb. -/
theorem State.disturb_nil {s : State} (hc : s.cmds = []) (hl : s.launches = []) (self : Option Nat) (pa : Nat) : s.disturb self pa = s := by
  simp [State.disturb, hc, hl]

/-- A store where nothing is reducing, shadowed or watched, and no command or launch has a region in memory. -/
theorem State.applyStore_nil {s : State} (hr : s.reduce = []) (hf : s.flushQ = []) (hs : s.shadow = []) (hw : s.watch = []) (hc : s.cmds = [])
    (hl : s.launches = []) (fired : List Nat) (pa : Nat) (bs : List Byte) (e : Bool) (self : Option Nat)
    (ls : List Nat) : s.applyStore fired pa bs e self ls = (s.storeLine pa bs e ls, fired) := by
  obtain ⟨d, hd⟩ := s.storeLine_eq pa bs e ls
  have h1 : (s.storeLine pa bs e ls).watch = [] := by rw [hd]; exact hw
  have h2 : (s.storeLine pa bs e ls).cmds = [] := by rw [hd]; exact hc
  have h3 : (s.storeLine pa bs e ls).launches = [] := by rw [hd]; exact hl
  simp [State.applyStore, State.clean_nil hr hf hs, State.appliedOver_nil h1, State.disturb_nil h2 h3]

theorem State.flushParks_good {s : State} (h : s.bad = []) (r : ReduceLine) : s.flushParks r = false := by
  simp [State.flushParks, h, Map.find]

end Sys2Proof.Machine
end

