-- ==== Sys2Proof/Laws/Clean.lean ====
section
/-!
SUPPORT. What bringing memory up to date can do: flushes, roundings, traces and watchpoints touch memory and the records of
lines, watchpoints, launches and events, and no party, operation, command, queue or register of another kind.
-/
namespace Sys2Proof.Machine

/-- The state without what the memory side of a step may touch; of a command that is the mark that its regions were disturbed. -/
def State.parties (s : State) : State :=
  { s with
    mem := [], dirty := [], reduce := [], flushQ := [], shadow := [], traceQ := [], bad := [], fires := [], l1 := [], ro := [], watch := []
    launches := [], hr := HostRegs.reset, msixPend := [], msixSent := [], cmds := s.cmds.map fun (c : Cmd) => { c with spoiled := false } }

/-- A fold of operations that keep a view keeps it. -/
theorem foldl_keeps {α β γ : Type} (v : β → γ) (f : β → α → β) (h : ∀ b a, v (f b a) = v b) (l : List α) (b : β) :
    v (l.foldl f b) = v b := by
  induction l generalizing b with
  | nil => rfl
  | cons a l ih => rw [List.foldl_cons, ih, h]

theorem State.msix_parties (s : State) (v : Nat) : (s.msix v).parties = s.parties := by
  unfold State.msix; split <;> rfl

theorem State.raise_parties (s : State) (b : Nat) : (s.raise b).parties = s.parties := by
  unfold State.raise
  split
  · rfl
  · dsimp only
    split
    · rfl
    · rw [State.msix_parties]; rfl

theorem State.memErr_parties (s : State) (pa : Nat) : (s.memErr pa).parties = s.parties := by
  unfold State.memErr; exact State.raise_parties _ _

theorem State.soil_parties (s : State) (line : Nat) (e : Bool) (ls : List Nat) : (s.soil line e ls).parties = s.parties := by
  unfold State.soil; repeat' split
  all_goals rfl

theorem State.storeLine_parties (s : State) (pa : Nat) (bs : List Byte) (e : Bool) (ls : List Nat) :
    (s.storeLine pa bs e ls).parties = s.parties :=
  State.soil_parties s (lineOf pa) e ls

theorem State.devWrite_parties (bs : List Byte) : ∀ (s : State) (asid : BitVec 16) (va : Nat), (s.devWrite asid va bs).parties = s.parties := by
  induction bs with
  | nil => intros; rfl
  | cons b bs ih =>
    intro s asid va
    simp only [State.devWrite]
    rw [ih]
    split
    · split
      · rfl
      · exact State.storeLine_parties _ _ _ _ _
    · rfl

theorem State.traceOne_parties (s : State) (l die kind va : Nat) (data src : BitVec 32) :
    (s.traceOne l die kind va data src).parties = s.parties := by
  unfold State.traceOne
  split <;> rfl

theorem State.traceAll_parties (s : State) (ls : List Nat) (die kind va : Nat) (data : BitVec 32) :
    (s.traceAll ls die kind va data).parties = s.parties :=
  foldl_keeps State.parties _ (fun s l => State.traceOne_parties s l die kind va data 0) ls s

theorem State.fire_parties (s : State) (h : Nat) (w : Watch) : (s.fire h w).parties = s.parties := by
  unfold State.fire
  dsimp only
  split
  · split
    · rfl
    · rw [State.raise_parties]; rfl
  · rfl

theorem State.applied_parties (s : State) (fired : List Nat) (pa : Nat) : (s.applied fired pa).1.parties = s.parties := by
  unfold State.applied
  refine foldl_keeps (fun x : State × List Nat => x.1.parties) _ ?_ s.watch (s, fired)
  intro x hw
  split
  · rfl
  · exact State.fire_parties _ _ _

theorem State.appliedOver_parties (s : State) (fired : List Nat) (pa n : Nat) : (s.appliedOver fired pa n).1.parties = s.parties := by
  unfold State.appliedOver
  split
  · rfl
  · exact foldl_keeps (fun x : State × List Nat => x.1.parties) _ (fun x i => State.applied_parties _ _ _) _ (s, fired)

theorem State.startFlush_parties (s : State) (line : Nat) : (s.startFlush line).parties = s.parties := by
  unfold State.startFlush
  split
  · rfl
  · rw [State.traceAll_parties]; rfl

theorem State.applyFlush_parties (s : State) (r : ReduceLine) : (s.applyFlush r).parties = s.parties := by
  unfold State.applyFlush
  split
  · rw [State.memErr_parties]; rfl
  · exact foldl_keeps (fun x : State × List Nat => x.1.parties) _ (fun x i => State.applied_parties _ _ _) _ _

theorem State.doFlush_parties (s : State) (r : ReduceLine) : (s.doFlush r).parties = s.parties := by
  unfold State.doFlush
  split
  · rw [State.applyFlush_parties]; rfl
  · split
    · rfl
    · rw [State.raise_parties]; rfl

theorem State.drainFlushes_parties (s : State) (line : Nat) : (s.drainFlushes line).parties = s.parties :=
  foldl_keeps State.parties _ (fun s r => State.doFlush_parties s r) _ s

theorem State.roundLine_parties (s : State) (line : Nat) : (s.roundLine line).parties = s.parties := by
  unfold State.roundLine
  split
  · rfl
  · dsimp only
    rw [State.appliedOver_parties, State.traceAll_parties, State.storeLine_parties]; rfl

theorem State.clean_parties (s : State) (line : Nat) : (s.clean line).parties = s.parties := by
  unfold State.clean
  rw [State.roundLine_parties, State.drainFlushes_parties, State.startFlush_parties]

theorem State.cleanOver_parties (s : State) (pa n : Nat) : (s.cleanOver pa n).parties = s.parties := by
  unfold State.cleanOver
  split
  · rfl
  · exact foldl_keeps State.parties _ (fun s i => State.clean_parties s _) _ s

theorem State.devClean_parties (s : State) (asid : BitVec 16) (va n : Nat) : (s.devClean asid va n).parties = s.parties := by
  unfold State.devClean
  split
  · rfl
  · refine foldl_keeps State.parties _ (fun s i => ?_) _ s
    split
    · exact State.clean_parties _ _
    · split
      · exact State.clean_parties _ _
      · rfl

theorem State.devPut_parties (s : State) (asid : BitVec 16) (va : Nat) (bs : List Byte) : (s.devPut asid va bs).parties = s.parties := by
  unfold State.devPut
  rw [State.devWrite_parties, State.devClean_parties]

theorem State.devGet_parties (s : State) (asid : BitVec 16) (va n : Nat) : (s.devGet asid va n).1.parties = s.parties :=
  State.devClean_parties s asid va n

theorem State.scramble_parties (s : State) (asid : BitVec 16) (va n : Nat) : (s.scramble asid va n).parties = s.parties :=
  State.devPut_parties s asid va _

/-- Disturbing a region marks its command, and no more. -/
theorem State.disturb_parties (s : State) (self : Option Nat) (pa : Nat) : (s.disturb self pa).parties = s.parties := by
  unfold State.disturb
  rw [foldl_keeps State.parties]
  · rw [foldl_keeps State.parties]
    intro t c
    dsimp only
    split
    · rfl
    · split
      · split
        · have mark : ∀ u : State, ({ u with cmds := u.cmds.map fun (q : Cmd) => if q.id == c.id then { q with spoiled := true } else q } : State).parties =
              u.parties := by
            intro u
            simp only [State.parties, List.map_map]
            congr 1
            apply List.map_congr_left
            intro q _
            simp only [Function.comp]
            split <;> rfl
          rw [mark, State.scramble_parties, State.scramble_parties]
        · rfl
      · split
        · exact State.scramble_parties _ _ _ _
        · rfl
      · rfl
  · intro t x
    split <;> rfl

theorem State.applyStore_parties (s : State) (fired : List Nat) (pa : Nat) (bs : List Byte) (e : Bool) (self : Option Nat) :
    (s.applyStore fired pa bs e self).1.parties = s.parties := by
  unfold State.applyStore
  dsimp only
  rw [State.disturb_parties, State.appliedOver_parties, State.storeLine_parties, State.clean_parties]

theorem State.reduceAdd_parties (s : State) (pa va : Nat) (x : Lane) (launch wave : Nat) (waveid : BitVec 32) :
    (s.reduceAdd pa va x launch wave waveid).parties = s.parties := by
  unfold State.reduceAdd
  dsimp only
  rw [State.traceOne_parties]
  have aux : ∀ t : State, ∀ l, ({ t with reduce := l } : State).parties = t.parties := fun _ _ => rfl
  rw [aux]
  split
  · exact State.disturb_parties _ _ _
  · rw [aux]
    have wb : ∀ t : State, (t.writeBack (lineOf pa)).parties = t.parties := fun _ => rfl
    split
    · rw [State.startFlush_parties, wb, State.roundLine_parties, State.disturb_parties]
    · rw [wb, State.roundLine_parties, State.disturb_parties]

theorem State.openShadow_parties (s : State) (line : Nat) (fmt : BitVec 8) (va : Nat) : (s.openShadow line fmt va).parties = s.parties := rfl

theorem State.shadowAdd_parties (s : State) (pa va : Nat) (fmt : BitVec 8) (x : Lane) (e : Bool) (launch : Nat) (waveid : BitVec 32) :
    (s.shadowAdd pa va fmt x e launch waveid).parties = s.parties := by
  unfold State.shadowAdd
  dsimp only
  rw [State.traceOne_parties]
  have aux : ∀ t : State, ∀ l, ({ t with shadow := l } : State).parties = t.parties := fun _ _ => rfl
  rw [aux]
  split <;> split <;>
    simp only [State.openShadow_parties, State.soil_parties, State.roundLine_parties, State.drainFlushes_parties, State.startFlush_parties,
      State.disturb_parties]

theorem State.roLine_parties (s : State) (core pa : Nat) : (s.roLine core pa).2.parties = s.parties := by
  unfold State.roLine
  split
  · rfl
  · exact State.clean_parties _ _

/-- Fetching a word that is there changes no party. -/
theorem State.fetchWord_parties {s t : State} {core : Nat} {asid : BitVec 16} {va : Nat} {w : BitVec 32}
    (h : s.fetchWord core asid va = .ok w t) : t.parties = s.parties := by
  unfold State.fetchWord at h
  split at h
  · cases h
  · cases h
  · split at h
    · cases h
    · dsimp only at h
      cases h; exact State.roLine_parties _ _ _

theorem State.fetchWords_parties {core : Nat} {asid : BitVec 16} : ∀ {n : Nat} {s t : State} {va : Nat} {ws : List (BitVec 32)},
    s.fetchWords core asid va n = .ok (ws, t) → t.parties = s.parties
  | 0, s, t, va, ws, h => by cases h; rfl
  | n + 1, s, t, va, ws, h => by
    simp only [State.fetchWords] at h
    split at h
    · cases h
    · cases h
    · rename_i w s1 h1
      split at h
      · rename_i ws1 s2 h2
        cases h
        rw [State.fetchWords_parties h2, State.fetchWord_parties h1]
      · cases h

end Sys2Proof.Machine
end

