-- ==== Sys2Proof/Laws/Dot.lean ====
section
/-!
SUPPORT. The order of a dot product's additions: whatever the free order is, the one that is taken leads no term through more rounded
additions than the bound of R138 allows.
-/
namespace Sys2Proof.Machine

theorem nth_eq {α : Type} (d : α) (l : List α) (i : Nat) : nth d l i = l.getD i d := by
  unfold nth; rfl

/-- One addition of a sum of three terms or more. -/
theorem dotDepth_step (order : Nat → Nat × Nat) (n : Nat) (xs : List Nat) (h : 3 ≤ xs.length) :
    dotDepth order (n + 1) xs =
      dotDepth order n ((max (nth 0 xs ((order n).1 % xs.length))
        (nth 0 (xs.eraseIdx ((order n).1 % xs.length)) ((order n).2 % (xs.eraseIdx ((order n).1 % xs.length)).length)) + 1) ::
        (xs.eraseIdx ((order n).1 % xs.length)).eraseIdx ((order n).2 % (xs.eraseIdx ((order n).1 % xs.length)).length)) := by
  match xs, h with
  | _ :: _ :: _ :: _, _ => rfl

/-- The order that adds the last two partial sums keeps them in a queue: the sum of the last two goes to the front. -/
theorem dotDepth_queue (l : List Nat) (hl : l ≠ []) (b a : Nat) :
    dotDepth (fun n => (n, n - 1)) (l.length + 2) (l ++ [b, a]) = dotDepth (fun n => (n, n - 1)) (l.length + 1) ((max a b + 1) :: l) := by
  have h0 : 0 < l.length := List.length_pos_iff.mpr hl
  have hlen : (l ++ [b, a]).length = l.length + 2 := by simp
  rw [dotDepth_step _ _ _ (by omega)]
  have h1 : (l.length + 1) % (l ++ [b, a]).length = l.length + 1 := by rw [hlen]; exact Nat.mod_eq_of_lt (by omega)
  have e1 : (l ++ [b, a]).eraseIdx (l.length + 1) = l ++ [b] := by
    rw [List.eraseIdx_append_of_length_le (by omega)]; simp
  have h2 : (l.length + 1 - 1) % (l ++ [b]).length = l.length := by simp
  have e2 : (l ++ [b]).eraseIdx l.length = l := by
    rw [List.eraseIdx_append_of_length_le (by omega)]; simp
  simp only [h1, e1, h2, e2, nth_eq]
  simp

/-- The fall-back order, on `x` partial sums of depth `d + 1` in front of `y` of depth `d`: they come to depth `d + c` at most when a tree of
height `c` holds them. -/
theorem dotDepth_levels (n : Nat) : ∀ x y d c : Nat, x + y = n → 0 < n → 2 * x + y ≤ 2 ^ c → (0 < x → 0 < c) →
    dotDepth (fun n => (n, n - 1)) n (List.replicate x (d + 1) ++ List.replicate y d) ≤ d + c := by
  induction n with
  | zero => intro x y d c _ h; omega
  | succ n ih =>
    intro x y d c hn _ hm hc
    rcases Nat.lt_or_ge n 2 with h2 | h2
    · -- one or two partial sums: none is rounded any more
      have hx : x = 0 ∨ x = 1 ∨ x = 2 := by omega
      have hy : y = 0 ∨ y = 1 ∨ y = 2 := by omega
      rcases hx with rfl | rfl | rfl <;> rcases hy with rfl | rfl | rfl <;>
        simp_all [dotDepth, List.replicate] <;> omega
    · -- the last two of three or more are added
      have c2 : 2 ≤ c := by
        by_contra h
        have : 2 ^ c ≤ 2 ^ 1 := Nat.pow_le_pow_right (by omega) (by omega)
        omega
      obtain ⟨c, rfl⟩ : ∃ k, c = k + 1 := ⟨c - 1, by omega⟩
      have hp : 2 ^ (c + 1) = 2 * 2 ^ c := by rw [Nat.pow_succ]; omega
      have step (l : List Nat) (b a : Nat) (hl : l.length + 1 = n) :
          dotDepth (fun n => (n, n - 1)) (n + 1) (l ++ [b, a]) = dotDepth (fun n => (n, n - 1)) n ((max a b + 1) :: l) := by
        subst hl
        exact dotDepth_queue l (by intro h; subst h; simp at h2) b a
      match y with
      | 0 =>
        obtain ⟨x, rfl⟩ : ∃ k, x = k + 2 := ⟨x - 2, by omega⟩
        have e : List.replicate (x + 2) (d + 1) ++ List.replicate 0 d = List.replicate x (d + 1) ++ [d + 1, d + 1] := by
          simp only [List.replicate_succ', List.replicate_zero, List.append_assoc, List.append_nil, List.nil_append, List.cons_append]
        rw [e, step _ _ _ (by simp; omega)]
        have := ih 1 x (d + 1) c (by omega) (by omega) (by omega) (by omega)
        simpa [List.replicate, Nat.add_assoc, Nat.add_comm 1 c] using this
      | 1 =>
        obtain ⟨x, rfl⟩ : ∃ k, x = k + 1 := ⟨x - 1, by omega⟩
        have e : List.replicate (x + 1) (d + 1) ++ List.replicate 1 d = List.replicate x (d + 1) ++ [d + 1, d] := by
          simp only [List.replicate_succ', List.replicate_zero, List.append_assoc, List.append_nil, List.nil_append, List.cons_append]
        rw [e, step _ _ _ (by simp; omega)]
        have := ih 1 x (d + 1) c (by omega) (by omega) (by omega) (by omega)
        simpa [List.replicate, Nat.add_assoc, Nat.add_comm 1 c] using this
      | y + 2 =>
        have e : List.replicate x (d + 1) ++ List.replicate (y + 2) d = (List.replicate x (d + 1) ++ List.replicate y d) ++ [d, d] := by
          simp only [List.replicate_succ', List.replicate_zero, List.append_assoc, List.append_nil, List.nil_append, List.cons_append]
        rw [e, step _ _ _ (by simp; omega)]
        have := ih (x + 1) y d (c + 1) (by omega) (by omega) (by omega) (by omega)
        simpa [List.replicate_succ] using this

theorem le_two_pow_bitLen (k : Nat) : k ≤ 2 ^ bitLen (k - 1) := by
  unfold bitLen
  split
  · omega
  · have := Nat.lt_log2_self (n := k - 1); omega

/-- Whatever the free value, no term of a sum of `k` goes through more than ⌈log₂ k⌉ + 1 rounded additions (R138). -/
theorem dotOrder_depth (kind k : Nat) (h : 0 < k) : dotDepth (dotOrder kind k) k (List.replicate k 0) ≤ bitLen (k - 1) + 1 := by
  unfold dotOrder
  split
  · assumption
  · have := dotDepth_levels k 0 k 0 (bitLen (k - 1)) (by omega) h (by have := le_two_pow_bitLen k; omega) (by omega)
    simp at this
    omega

end Sys2Proof.Machine
end

