-- ==== Sys2Proof/Laws/Encode.lean ====
section
/-!
SUPPORT. Taking a field out of an encoded word gives back the field that was put in.
-/
namespace Sys2Proof

/-- Fields above the last one appended. -/
theorem bits_hi {v w : Nat} (x : BitVec v) (y : BitVec w) (lo n : Nat) : (x ++ y).extractLsb' (lo + w) n = x.extractLsb' lo n := by
  ext i hi
  have : ¬ (lo + w + i < w) := by omega
  have e : lo + w + i - w = lo + i := by omega
  simp [BitVec.getLsbD_append, this, e]

/-- Fields of the last one appended. -/
theorem bits_lo {v w : Nat} (x : BitVec v) (y : BitVec w) (lo n : Nat) (h : lo + n ≤ w) : (x ++ y).extractLsb' lo n = y.extractLsb' lo n := by
  ext i hi
  have : lo + i < w := by omega
  simp [BitVec.getLsbD_append, this]

theorem bits_all {n : Nat} (x : BitVec n) : x.extractLsb' 0 n = x := by simp

/-- A bit as a field of one bit. -/
theorem flag_of_bits (w : BitVec 32) (i : Nat) (b : Bool) (h : w.extractLsb' i 1 = BitVec.ofBool b) : w.getLsbD i = b := by
  have := congrArg (fun z => z.getLsbD 0) h
  simpa using this

/-- The low bits of an operand in a field of 8. -/
theorem in8_low {n : Nat} (hn : n ≤ 8) (x : BitVec n) : (in8 x).extractLsb' 0 n = x := by
  ext i hi
  simp [show i < 8 by omega, BitVec.getLsbD_eq_getElem hi]

@[simp] theorem encSC_op (op : BitVec 8) (d : BitVec 7) (a : BitVec 7) (b : BitVec 7) (t : BitVec 3) : bits 24 8 (encSC op d a b t) = op := (bits_hi (op ++ d ++ a ++ b) t 21 8).trans ((bits_hi (op ++ d ++ a) b 14 8).trans ((bits_hi (op ++ d) a 7 8).trans ((bits_hi (op) d 0 8).trans ((bits_all op)))))
@[simp] theorem encSC_d (op : BitVec 8) (d : BitVec 7) (a : BitVec 7) (b : BitVec 7) (t : BitVec 3) : bits 17 7 (encSC op d a b t) = d := (bits_hi (op ++ d ++ a ++ b) t 14 7).trans ((bits_hi (op ++ d ++ a) b 7 7).trans ((bits_hi (op ++ d) a 0 7).trans ((bits_lo (op) d 0 7 (by decide)).trans ((bits_all d)))))
@[simp] theorem encSC_a (op : BitVec 8) (d : BitVec 7) (a : BitVec 7) (b : BitVec 7) (t : BitVec 3) : bits 10 7 (encSC op d a b t) = a := (bits_hi (op ++ d ++ a ++ b) t 7 7).trans ((bits_hi (op ++ d ++ a) b 0 7).trans ((bits_lo (op ++ d) a 0 7 (by decide)).trans ((bits_all a))))
@[simp] theorem encSC_b (op : BitVec 8) (d : BitVec 7) (a : BitVec 7) (b : BitVec 7) (t : BitVec 3) : bits 3 7 (encSC op d a b t) = b := (bits_hi (op ++ d ++ a ++ b) t 0 7).trans ((bits_lo (op ++ d ++ a) b 0 7 (by decide)).trans ((bits_all b)))
@[simp] theorem encSC_t (op : BitVec 8) (d : BitVec 7) (a : BitVec 7) (b : BitVec 7) (t : BitVec 3) : bits 0 3 (encSC op d a b t) = t := (bits_lo (op ++ d ++ a ++ b) t 0 3 (by decide)).trans ((bits_all t))

@[simp] theorem encSI_op (op : BitVec 8) (d : BitVec 7) (a : BitVec 7) (imm : BitVec 10) : bits 24 8 (encSI op d a imm) = op := (bits_hi (op ++ d ++ a) imm 14 8).trans ((bits_hi (op ++ d) a 7 8).trans ((bits_hi (op) d 0 8).trans ((bits_all op))))
@[simp] theorem encSI_d (op : BitVec 8) (d : BitVec 7) (a : BitVec 7) (imm : BitVec 10) : bits 17 7 (encSI op d a imm) = d := (bits_hi (op ++ d ++ a) imm 7 7).trans ((bits_hi (op ++ d) a 0 7).trans ((bits_lo (op) d 0 7 (by decide)).trans ((bits_all d))))
@[simp] theorem encSI_a (op : BitVec 8) (d : BitVec 7) (a : BitVec 7) (imm : BitVec 10) : bits 10 7 (encSI op d a imm) = a := (bits_hi (op ++ d ++ a) imm 0 7).trans ((bits_lo (op ++ d) a 0 7 (by decide)).trans ((bits_all a)))
@[simp] theorem encSI_imm (op : BitVec 8) (d : BitVec 7) (a : BitVec 7) (imm : BitVec 10) : bits 0 10 (encSI op d a imm) = imm := (bits_lo (op ++ d ++ a) imm 0 10 (by decide)).trans ((bits_all imm))

@[simp] theorem encSB_op (op : BitVec 8) (a : BitVec 7) (off : BitVec 17) : bits 24 8 (encSB op a off) = op := (bits_hi (op ++ a) off 7 8).trans ((bits_hi (op) a 0 8).trans ((bits_all op)))
@[simp] theorem encSB_a (op : BitVec 8) (a : BitVec 7) (off : BitVec 17) : bits 17 7 (encSB op a off) = a := (bits_hi (op ++ a) off 0 7).trans ((bits_lo (op) a 0 7 (by decide)).trans ((bits_all a)))
@[simp] theorem encSB_off (op : BitVec 8) (a : BitVec 7) (off : BitVec 17) : bits 0 17 (encSB op a off) = off := (bits_lo (op ++ a) off 0 17 (by decide)).trans ((bits_all off))

@[simp] theorem encVC_op (op : BitVec 8) (d : BitVec 8) (a : BitVec 8) (b : BitVec 8) : bits 24 8 (encVC op d a b) = op := (bits_hi (op ++ d ++ a) b 16 8).trans ((bits_hi (op ++ d) a 8 8).trans ((bits_hi (op) d 0 8).trans ((bits_all op))))
@[simp] theorem encVC_d (op : BitVec 8) (d : BitVec 8) (a : BitVec 8) (b : BitVec 8) : bits 16 8 (encVC op d a b) = d := (bits_hi (op ++ d ++ a) b 8 8).trans ((bits_hi (op ++ d) a 0 8).trans ((bits_lo (op) d 0 8 (by decide)).trans ((bits_all d))))
@[simp] theorem encVC_a (op : BitVec 8) (d : BitVec 8) (a : BitVec 8) (b : BitVec 8) : bits 8 8 (encVC op d a b) = a := (bits_hi (op ++ d ++ a) b 0 8).trans ((bits_lo (op ++ d) a 0 8 (by decide)).trans ((bits_all a)))
@[simp] theorem encVC_b (op : BitVec 8) (d : BitVec 8) (a : BitVec 8) (b : BitVec 8) : bits 0 8 (encVC op d a b) = b := (bits_lo (op ++ d ++ a) b 0 8 (by decide)).trans ((bits_all b))

@[simp] theorem encMD_op (op : BitVec 8) (d : BitVec 8) (a : BitVec 7) (off : BitVec 9) : bits 24 8 (encMD op d a off) = op := (bits_hi (op ++ d ++ a) off 15 8).trans ((bits_hi (op ++ d) a 8 8).trans ((bits_hi (op) d 0 8).trans ((bits_all op))))
@[simp] theorem encMD_d (op : BitVec 8) (d : BitVec 8) (a : BitVec 7) (off : BitVec 9) : bits 16 8 (encMD op d a off) = d := (bits_hi (op ++ d ++ a) off 7 8).trans ((bits_hi (op ++ d) a 0 8).trans ((bits_lo (op) d 0 8 (by decide)).trans ((bits_all d))))
@[simp] theorem encMD_a (op : BitVec 8) (d : BitVec 8) (a : BitVec 7) (off : BitVec 9) : bits 9 7 (encMD op d a off) = a := (bits_hi (op ++ d ++ a) off 0 7).trans ((bits_lo (op ++ d) a 0 7 (by decide)).trans ((bits_all a)))
@[simp] theorem encMD_off (op : BitVec 8) (d : BitVec 8) (a : BitVec 7) (off : BitVec 9) : bits 0 9 (encMD op d a off) = off := (bits_lo (op ++ d ++ a) off 0 9 (by decide)).trans ((bits_all off))

@[simp] theorem encMX_op (op : BitVec 8) (d : BitVec 8) (a : BitVec 7) (sc : Bool) (x : BitVec 8) : bits 24 8 (encMX op d a sc x) = op := (bits_hi (op ++ d ++ a ++ (BitVec.ofBool sc)) x 16 8).trans ((bits_hi (op ++ d ++ a) (BitVec.ofBool sc) 15 8).trans ((bits_hi (op ++ d) a 8 8).trans ((bits_hi (op) d 0 8).trans ((bits_all op)))))
@[simp] theorem encMX_d (op : BitVec 8) (d : BitVec 8) (a : BitVec 7) (sc : Bool) (x : BitVec 8) : bits 16 8 (encMX op d a sc x) = d := (bits_hi (op ++ d ++ a ++ (BitVec.ofBool sc)) x 8 8).trans ((bits_hi (op ++ d ++ a) (BitVec.ofBool sc) 7 8).trans ((bits_hi (op ++ d) a 0 8).trans ((bits_lo (op) d 0 8 (by decide)).trans ((bits_all d)))))
@[simp] theorem encMX_a (op : BitVec 8) (d : BitVec 8) (a : BitVec 7) (sc : Bool) (x : BitVec 8) : bits 9 7 (encMX op d a sc x) = a := (bits_hi (op ++ d ++ a ++ (BitVec.ofBool sc)) x 1 7).trans ((bits_hi (op ++ d ++ a) (BitVec.ofBool sc) 0 7).trans ((bits_lo (op ++ d) a 0 7 (by decide)).trans ((bits_all a))))
@[simp] theorem encMX_sc (op : BitVec 8) (d : BitVec 8) (a : BitVec 7) (sc : Bool) (x : BitVec 8) : flag 8 (encMX op d a sc x) = sc := flag_of_bits _ _ _ ((bits_hi (op ++ d ++ a ++ (BitVec.ofBool sc)) x 0 1).trans ((bits_lo (op ++ d ++ a) (BitVec.ofBool sc) 0 1 (by decide)).trans ((bits_all (BitVec.ofBool sc)))))
@[simp] theorem encMX_x (op : BitVec 8) (d : BitVec 8) (a : BitVec 7) (sc : Bool) (x : BitVec 8) : bits 0 8 (encMX op d a sc x) = x := (bits_lo (op ++ d ++ a ++ (BitVec.ofBool sc)) x 0 8 (by decide)).trans ((bits_all x))

@[simp] theorem encMF_op (op : BitVec 8) (paths : BitVec 8) (scope : BitVec 3) (kind : BitVec 2) : bits 24 8 (encMF op paths scope kind) = op := (bits_hi (op ++ paths ++ scope ++ kind) (0 : BitVec 11) 13 8).trans ((bits_hi (op ++ paths ++ scope) kind 11 8).trans ((bits_hi (op ++ paths) scope 8 8).trans ((bits_hi (op) paths 0 8).trans ((bits_all op)))))
@[simp] theorem encMF_paths (op : BitVec 8) (paths : BitVec 8) (scope : BitVec 3) (kind : BitVec 2) : bits 16 8 (encMF op paths scope kind) = paths := (bits_hi (op ++ paths ++ scope ++ kind) (0 : BitVec 11) 5 8).trans ((bits_hi (op ++ paths ++ scope) kind 3 8).trans ((bits_hi (op ++ paths) scope 0 8).trans ((bits_lo (op) paths 0 8 (by decide)).trans ((bits_all paths)))))
@[simp] theorem encMF_scope (op : BitVec 8) (paths : BitVec 8) (scope : BitVec 3) (kind : BitVec 2) : bits 13 3 (encMF op paths scope kind) = scope := (bits_hi (op ++ paths ++ scope ++ kind) (0 : BitVec 11) 2 3).trans ((bits_hi (op ++ paths ++ scope) kind 0 3).trans ((bits_lo (op ++ paths) scope 0 3 (by decide)).trans ((bits_all scope))))
@[simp] theorem encMF_kind (op : BitVec 8) (paths : BitVec 8) (scope : BitVec 3) (kind : BitVec 2) : bits 11 2 (encMF op paths scope kind) = kind := (bits_hi (op ++ paths ++ scope ++ kind) (0 : BitVec 11) 0 2).trans ((bits_lo (op ++ paths ++ scope) kind 0 2 (by decide)).trans ((bits_all kind)))

@[simp] theorem encMT_op (op : BitVec 8) (t : BitVec 7) (x : BitVec 5) (y : BitVec 5) (qn : Bool) (q : BitVec 4) : bits 24 8 (encMT op t x y qn q) = op := (bits_hi (op ++ t ++ x ++ y ++ (BitVec.ofBool qn) ++ q) (0 : BitVec 2) 22 8).trans ((bits_hi (op ++ t ++ x ++ y ++ (BitVec.ofBool qn)) q 18 8).trans ((bits_hi (op ++ t ++ x ++ y) (BitVec.ofBool qn) 17 8).trans ((bits_hi (op ++ t ++ x) y 12 8).trans ((bits_hi (op ++ t) x 7 8).trans ((bits_hi (op) t 0 8).trans ((bits_all op)))))))
@[simp] theorem encMT_t (op : BitVec 8) (t : BitVec 7) (x : BitVec 5) (y : BitVec 5) (qn : Bool) (q : BitVec 4) : bits 17 7 (encMT op t x y qn q) = t := (bits_hi (op ++ t ++ x ++ y ++ (BitVec.ofBool qn) ++ q) (0 : BitVec 2) 15 7).trans ((bits_hi (op ++ t ++ x ++ y ++ (BitVec.ofBool qn)) q 11 7).trans ((bits_hi (op ++ t ++ x ++ y) (BitVec.ofBool qn) 10 7).trans ((bits_hi (op ++ t ++ x) y 5 7).trans ((bits_hi (op ++ t) x 0 7).trans ((bits_lo (op) t 0 7 (by decide)).trans ((bits_all t)))))))
@[simp] theorem encMT_x (op : BitVec 8) (t : BitVec 7) (x : BitVec 5) (y : BitVec 5) (qn : Bool) (q : BitVec 4) : bits 12 5 (encMT op t x y qn q) = x := (bits_hi (op ++ t ++ x ++ y ++ (BitVec.ofBool qn) ++ q) (0 : BitVec 2) 10 5).trans ((bits_hi (op ++ t ++ x ++ y ++ (BitVec.ofBool qn)) q 6 5).trans ((bits_hi (op ++ t ++ x ++ y) (BitVec.ofBool qn) 5 5).trans ((bits_hi (op ++ t ++ x) y 0 5).trans ((bits_lo (op ++ t) x 0 5 (by decide)).trans ((bits_all x))))))
@[simp] theorem encMT_y (op : BitVec 8) (t : BitVec 7) (x : BitVec 5) (y : BitVec 5) (qn : Bool) (q : BitVec 4) : bits 7 5 (encMT op t x y qn q) = y := (bits_hi (op ++ t ++ x ++ y ++ (BitVec.ofBool qn) ++ q) (0 : BitVec 2) 5 5).trans ((bits_hi (op ++ t ++ x ++ y ++ (BitVec.ofBool qn)) q 1 5).trans ((bits_hi (op ++ t ++ x ++ y) (BitVec.ofBool qn) 0 5).trans ((bits_lo (op ++ t ++ x) y 0 5 (by decide)).trans ((bits_all y)))))
@[simp] theorem encMT_qn (op : BitVec 8) (t : BitVec 7) (x : BitVec 5) (y : BitVec 5) (qn : Bool) (q : BitVec 4) : flag 6 (encMT op t x y qn q) = qn := flag_of_bits _ _ _ ((bits_hi (op ++ t ++ x ++ y ++ (BitVec.ofBool qn) ++ q) (0 : BitVec 2) 4 1).trans ((bits_hi (op ++ t ++ x ++ y ++ (BitVec.ofBool qn)) q 0 1).trans ((bits_lo (op ++ t ++ x ++ y) (BitVec.ofBool qn) 0 1 (by decide)).trans ((bits_all (BitVec.ofBool qn))))))
@[simp] theorem encMT_q (op : BitVec 8) (t : BitVec 7) (x : BitVec 5) (y : BitVec 5) (qn : Bool) (q : BitVec 4) : bits 2 4 (encMT op t x y qn q) = q := (bits_hi (op ++ t ++ x ++ y ++ (BitVec.ofBool qn) ++ q) (0 : BitVec 2) 0 4).trans ((bits_lo (op ++ t ++ x ++ y ++ (BitVec.ofBool qn)) q 0 4 (by decide)).trans ((bits_all q)))

@[simp] theorem encMK_op (op : BitVec 8) (n : BitVec 8) (imm : BitVec 16) : bits 24 8 (encMK op n imm) = op := (bits_hi (op ++ n) imm 8 8).trans ((bits_hi (op) n 0 8).trans ((bits_all op)))
@[simp] theorem encMK_n (op : BitVec 8) (n : BitVec 8) (imm : BitVec 16) : bits 16 8 (encMK op n imm) = n := (bits_hi (op ++ n) imm 0 8).trans ((bits_lo (op) n 0 8 (by decide)).trans ((bits_all n)))
@[simp] theorem encMK_imm (op : BitVec 8) (n : BitVec 8) (imm : BitVec 16) : bits 0 16 (encMK op n imm) = imm := (bits_lo (op ++ n) imm 0 16 (by decide)).trans ((bits_all imm))

@[simp] theorem encEC_op (op : BitVec 8) (d : BitVec 8) (a : BitVec 7) (b : BitVec 7) : bits 24 8 (encEC op d a b) = op := (bits_hi (op ++ d ++ a ++ b) (0 : BitVec 2) 22 8).trans ((bits_hi (op ++ d ++ a) b 15 8).trans ((bits_hi (op ++ d) a 8 8).trans ((bits_hi (op) d 0 8).trans ((bits_all op)))))
@[simp] theorem encEC_d (op : BitVec 8) (d : BitVec 8) (a : BitVec 7) (b : BitVec 7) : bits 16 8 (encEC op d a b) = d := (bits_hi (op ++ d ++ a ++ b) (0 : BitVec 2) 14 8).trans ((bits_hi (op ++ d ++ a) b 7 8).trans ((bits_hi (op ++ d) a 0 8).trans ((bits_lo (op) d 0 8 (by decide)).trans ((bits_all d)))))
@[simp] theorem encEC_a (op : BitVec 8) (d : BitVec 8) (a : BitVec 7) (b : BitVec 7) : bits 9 7 (encEC op d a b) = a := (bits_hi (op ++ d ++ a ++ b) (0 : BitVec 2) 7 7).trans ((bits_hi (op ++ d ++ a) b 0 7).trans ((bits_lo (op ++ d) a 0 7 (by decide)).trans ((bits_all a))))
@[simp] theorem encEC_b (op : BitVec 8) (d : BitVec 8) (a : BitVec 7) (b : BitVec 7) : bits 2 7 (encEC op d a b) = b := (bits_hi (op ++ d ++ a ++ b) (0 : BitVec 2) 0 7).trans ((bits_lo (op ++ d ++ a) b 0 7 (by decide)).trans ((bits_all b)))

@[simp] theorem encSY_op (op : BitVec 8) (d : BitVec 7) (a : BitVec 7) (imm : BitVec 10) : bits 24 8 (encSY op d a imm) = op := (bits_hi (op ++ d ++ a) imm 14 8).trans ((bits_hi (op ++ d) a 7 8).trans ((bits_hi (op) d 0 8).trans ((bits_all op))))
@[simp] theorem encSY_d (op : BitVec 8) (d : BitVec 7) (a : BitVec 7) (imm : BitVec 10) : bits 17 7 (encSY op d a imm) = d := (bits_hi (op ++ d ++ a) imm 7 7).trans ((bits_hi (op ++ d) a 0 7).trans ((bits_lo (op) d 0 7 (by decide)).trans ((bits_all d))))
@[simp] theorem encSY_a (op : BitVec 8) (d : BitVec 7) (a : BitVec 7) (imm : BitVec 10) : bits 10 7 (encSY op d a imm) = a := (bits_hi (op ++ d ++ a) imm 0 7).trans ((bits_lo (op ++ d) a 0 7 (by decide)).trans ((bits_all a)))
@[simp] theorem encSY_imm (op : BitVec 8) (d : BitVec 7) (a : BitVec 7) (imm : BitVec 10) : bits 0 10 (encSY op d a imm) = imm := (bits_lo (op ++ d ++ a) imm 0 10 (by decide)).trans ((bits_all imm))

theorem VL.word_c (l : VL) : bits 24 8 l.word = l.c := (bits_hi (l.c ++ l.pred ++ l.exh ++ l.exw ++ l.fe ++ l.type ++ l.rnd ++ (BitVec.ofBool l.sat) ++ l.mod) (0 : BitVec 3) 21 8).trans ((bits_hi (l.c ++ l.pred ++ l.exh ++ l.exw ++ l.fe ++ l.type ++ l.rnd ++ (BitVec.ofBool l.sat)) l.mod 17 8).trans ((bits_hi (l.c ++ l.pred ++ l.exh ++ l.exw ++ l.fe ++ l.type ++ l.rnd) (BitVec.ofBool l.sat) 16 8).trans ((bits_hi (l.c ++ l.pred ++ l.exh ++ l.exw ++ l.fe ++ l.type) l.rnd 14 8).trans ((bits_hi (l.c ++ l.pred ++ l.exh ++ l.exw ++ l.fe) l.type 10 8).trans ((bits_hi (l.c ++ l.pred ++ l.exh ++ l.exw) l.fe 7 8).trans ((bits_hi (l.c ++ l.pred ++ l.exh) l.exw 5 8).trans ((bits_hi (l.c ++ l.pred) l.exh 3 8).trans ((bits_hi (l.c) l.pred 0 8).trans ((bits_all l.c))))))))))
theorem VL.word_pred (l : VL) : bits 21 3 l.word = l.pred := (bits_hi (l.c ++ l.pred ++ l.exh ++ l.exw ++ l.fe ++ l.type ++ l.rnd ++ (BitVec.ofBool l.sat) ++ l.mod) (0 : BitVec 3) 18 3).trans ((bits_hi (l.c ++ l.pred ++ l.exh ++ l.exw ++ l.fe ++ l.type ++ l.rnd ++ (BitVec.ofBool l.sat)) l.mod 14 3).trans ((bits_hi (l.c ++ l.pred ++ l.exh ++ l.exw ++ l.fe ++ l.type ++ l.rnd) (BitVec.ofBool l.sat) 13 3).trans ((bits_hi (l.c ++ l.pred ++ l.exh ++ l.exw ++ l.fe ++ l.type) l.rnd 11 3).trans ((bits_hi (l.c ++ l.pred ++ l.exh ++ l.exw ++ l.fe) l.type 7 3).trans ((bits_hi (l.c ++ l.pred ++ l.exh ++ l.exw) l.fe 4 3).trans ((bits_hi (l.c ++ l.pred ++ l.exh) l.exw 2 3).trans ((bits_hi (l.c ++ l.pred) l.exh 0 3).trans ((bits_lo (l.c) l.pred 0 3 (by decide)).trans ((bits_all l.pred))))))))))
theorem VL.word_exh (l : VL) : bits 19 2 l.word = l.exh := (bits_hi (l.c ++ l.pred ++ l.exh ++ l.exw ++ l.fe ++ l.type ++ l.rnd ++ (BitVec.ofBool l.sat) ++ l.mod) (0 : BitVec 3) 16 2).trans ((bits_hi (l.c ++ l.pred ++ l.exh ++ l.exw ++ l.fe ++ l.type ++ l.rnd ++ (BitVec.ofBool l.sat)) l.mod 12 2).trans ((bits_hi (l.c ++ l.pred ++ l.exh ++ l.exw ++ l.fe ++ l.type ++ l.rnd) (BitVec.ofBool l.sat) 11 2).trans ((bits_hi (l.c ++ l.pred ++ l.exh ++ l.exw ++ l.fe ++ l.type) l.rnd 9 2).trans ((bits_hi (l.c ++ l.pred ++ l.exh ++ l.exw ++ l.fe) l.type 5 2).trans ((bits_hi (l.c ++ l.pred ++ l.exh ++ l.exw) l.fe 2 2).trans ((bits_hi (l.c ++ l.pred ++ l.exh) l.exw 0 2).trans ((bits_lo (l.c ++ l.pred) l.exh 0 2 (by decide)).trans ((bits_all l.exh)))))))))
theorem VL.word_exw (l : VL) : bits 17 2 l.word = l.exw := (bits_hi (l.c ++ l.pred ++ l.exh ++ l.exw ++ l.fe ++ l.type ++ l.rnd ++ (BitVec.ofBool l.sat) ++ l.mod) (0 : BitVec 3) 14 2).trans ((bits_hi (l.c ++ l.pred ++ l.exh ++ l.exw ++ l.fe ++ l.type ++ l.rnd ++ (BitVec.ofBool l.sat)) l.mod 10 2).trans ((bits_hi (l.c ++ l.pred ++ l.exh ++ l.exw ++ l.fe ++ l.type ++ l.rnd) (BitVec.ofBool l.sat) 9 2).trans ((bits_hi (l.c ++ l.pred ++ l.exh ++ l.exw ++ l.fe ++ l.type) l.rnd 7 2).trans ((bits_hi (l.c ++ l.pred ++ l.exh ++ l.exw ++ l.fe) l.type 3 2).trans ((bits_hi (l.c ++ l.pred ++ l.exh ++ l.exw) l.fe 0 2).trans ((bits_lo (l.c ++ l.pred ++ l.exh) l.exw 0 2 (by decide)).trans ((bits_all l.exw))))))))
theorem VL.word_fe (l : VL) : bits 14 3 l.word = l.fe := (bits_hi (l.c ++ l.pred ++ l.exh ++ l.exw ++ l.fe ++ l.type ++ l.rnd ++ (BitVec.ofBool l.sat) ++ l.mod) (0 : BitVec 3) 11 3).trans ((bits_hi (l.c ++ l.pred ++ l.exh ++ l.exw ++ l.fe ++ l.type ++ l.rnd ++ (BitVec.ofBool l.sat)) l.mod 7 3).trans ((bits_hi (l.c ++ l.pred ++ l.exh ++ l.exw ++ l.fe ++ l.type ++ l.rnd) (BitVec.ofBool l.sat) 6 3).trans ((bits_hi (l.c ++ l.pred ++ l.exh ++ l.exw ++ l.fe ++ l.type) l.rnd 4 3).trans ((bits_hi (l.c ++ l.pred ++ l.exh ++ l.exw ++ l.fe) l.type 0 3).trans ((bits_lo (l.c ++ l.pred ++ l.exh ++ l.exw) l.fe 0 3 (by decide)).trans ((bits_all l.fe)))))))
theorem VL.word_type (l : VL) : bits 10 4 l.word = l.type := (bits_hi (l.c ++ l.pred ++ l.exh ++ l.exw ++ l.fe ++ l.type ++ l.rnd ++ (BitVec.ofBool l.sat) ++ l.mod) (0 : BitVec 3) 7 4).trans ((bits_hi (l.c ++ l.pred ++ l.exh ++ l.exw ++ l.fe ++ l.type ++ l.rnd ++ (BitVec.ofBool l.sat)) l.mod 3 4).trans ((bits_hi (l.c ++ l.pred ++ l.exh ++ l.exw ++ l.fe ++ l.type ++ l.rnd) (BitVec.ofBool l.sat) 2 4).trans ((bits_hi (l.c ++ l.pred ++ l.exh ++ l.exw ++ l.fe ++ l.type) l.rnd 0 4).trans ((bits_lo (l.c ++ l.pred ++ l.exh ++ l.exw ++ l.fe) l.type 0 4 (by decide)).trans ((bits_all l.type))))))
theorem VL.word_rnd (l : VL) : bits 8 2 l.word = l.rnd := (bits_hi (l.c ++ l.pred ++ l.exh ++ l.exw ++ l.fe ++ l.type ++ l.rnd ++ (BitVec.ofBool l.sat) ++ l.mod) (0 : BitVec 3) 5 2).trans ((bits_hi (l.c ++ l.pred ++ l.exh ++ l.exw ++ l.fe ++ l.type ++ l.rnd ++ (BitVec.ofBool l.sat)) l.mod 1 2).trans ((bits_hi (l.c ++ l.pred ++ l.exh ++ l.exw ++ l.fe ++ l.type ++ l.rnd) (BitVec.ofBool l.sat) 0 2).trans ((bits_lo (l.c ++ l.pred ++ l.exh ++ l.exw ++ l.fe ++ l.type) l.rnd 0 2 (by decide)).trans ((bits_all l.rnd)))))
theorem VL.word_sat (l : VL) : flag 7 l.word = l.sat := flag_of_bits _ _ _ ((bits_hi (l.c ++ l.pred ++ l.exh ++ l.exw ++ l.fe ++ l.type ++ l.rnd ++ (BitVec.ofBool l.sat) ++ l.mod) (0 : BitVec 3) 4 1).trans ((bits_hi (l.c ++ l.pred ++ l.exh ++ l.exw ++ l.fe ++ l.type ++ l.rnd ++ (BitVec.ofBool l.sat)) l.mod 0 1).trans ((bits_lo (l.c ++ l.pred ++ l.exh ++ l.exw ++ l.fe ++ l.type ++ l.rnd) (BitVec.ofBool l.sat) 0 1 (by decide)).trans ((bits_all (BitVec.ofBool l.sat))))))
theorem VL.word_mod (l : VL) : bits 3 4 l.word = l.mod := (bits_hi (l.c ++ l.pred ++ l.exh ++ l.exw ++ l.fe ++ l.type ++ l.rnd ++ (BitVec.ofBool l.sat) ++ l.mod) (0 : BitVec 3) 0 4).trans ((bits_lo (l.c ++ l.pred ++ l.exh ++ l.exw ++ l.fe ++ l.type ++ l.rnd ++ (BitVec.ofBool l.sat)) l.mod 0 4 (by decide)).trans ((bits_all l.mod)))

/-- The second word of a long form reads back. -/
@[simp] theorem VL.of_word (l : VL) : VL.of l.word = l := by
  unfold VL.of
  rw [VL.word_c, VL.word_pred, VL.word_exh, VL.word_exw, VL.word_fe, VL.word_type, VL.word_rnd, VL.word_sat, VL.word_mod]

theorem ML.word_fmt8 (l : ML) : bits 24 8 l.word = l.fmt8 := (bits_hi (l.fmt8 ++ l.pred ++ l.exh ++ l.exw ++ l.fe ++ (BitVec.ofBool l.acq) ++ (BitVec.ofBool l.rel) ++ l.scope ++ (BitVec.ofBool l.rlx) ++ (BitVec.ofBool l.nt)) (0 : BitVec 7) 17 8).trans ((bits_hi (l.fmt8 ++ l.pred ++ l.exh ++ l.exw ++ l.fe ++ (BitVec.ofBool l.acq) ++ (BitVec.ofBool l.rel) ++ l.scope ++ (BitVec.ofBool l.rlx)) (BitVec.ofBool l.nt) 16 8).trans ((bits_hi (l.fmt8 ++ l.pred ++ l.exh ++ l.exw ++ l.fe ++ (BitVec.ofBool l.acq) ++ (BitVec.ofBool l.rel) ++ l.scope) (BitVec.ofBool l.rlx) 15 8).trans ((bits_hi (l.fmt8 ++ l.pred ++ l.exh ++ l.exw ++ l.fe ++ (BitVec.ofBool l.acq) ++ (BitVec.ofBool l.rel)) l.scope 12 8).trans ((bits_hi (l.fmt8 ++ l.pred ++ l.exh ++ l.exw ++ l.fe ++ (BitVec.ofBool l.acq)) (BitVec.ofBool l.rel) 11 8).trans ((bits_hi (l.fmt8 ++ l.pred ++ l.exh ++ l.exw ++ l.fe) (BitVec.ofBool l.acq) 10 8).trans ((bits_hi (l.fmt8 ++ l.pred ++ l.exh ++ l.exw) l.fe 7 8).trans ((bits_hi (l.fmt8 ++ l.pred ++ l.exh) l.exw 5 8).trans ((bits_hi (l.fmt8 ++ l.pred) l.exh 3 8).trans ((bits_hi (l.fmt8) l.pred 0 8).trans ((bits_all l.fmt8)))))))))))
theorem ML.word_pred (l : ML) : bits 21 3 l.word = l.pred := (bits_hi (l.fmt8 ++ l.pred ++ l.exh ++ l.exw ++ l.fe ++ (BitVec.ofBool l.acq) ++ (BitVec.ofBool l.rel) ++ l.scope ++ (BitVec.ofBool l.rlx) ++ (BitVec.ofBool l.nt)) (0 : BitVec 7) 14 3).trans ((bits_hi (l.fmt8 ++ l.pred ++ l.exh ++ l.exw ++ l.fe ++ (BitVec.ofBool l.acq) ++ (BitVec.ofBool l.rel) ++ l.scope ++ (BitVec.ofBool l.rlx)) (BitVec.ofBool l.nt) 13 3).trans ((bits_hi (l.fmt8 ++ l.pred ++ l.exh ++ l.exw ++ l.fe ++ (BitVec.ofBool l.acq) ++ (BitVec.ofBool l.rel) ++ l.scope) (BitVec.ofBool l.rlx) 12 3).trans ((bits_hi (l.fmt8 ++ l.pred ++ l.exh ++ l.exw ++ l.fe ++ (BitVec.ofBool l.acq) ++ (BitVec.ofBool l.rel)) l.scope 9 3).trans ((bits_hi (l.fmt8 ++ l.pred ++ l.exh ++ l.exw ++ l.fe ++ (BitVec.ofBool l.acq)) (BitVec.ofBool l.rel) 8 3).trans ((bits_hi (l.fmt8 ++ l.pred ++ l.exh ++ l.exw ++ l.fe) (BitVec.ofBool l.acq) 7 3).trans ((bits_hi (l.fmt8 ++ l.pred ++ l.exh ++ l.exw) l.fe 4 3).trans ((bits_hi (l.fmt8 ++ l.pred ++ l.exh) l.exw 2 3).trans ((bits_hi (l.fmt8 ++ l.pred) l.exh 0 3).trans ((bits_lo (l.fmt8) l.pred 0 3 (by decide)).trans ((bits_all l.pred)))))))))))
theorem ML.word_exh (l : ML) : bits 19 2 l.word = l.exh := (bits_hi (l.fmt8 ++ l.pred ++ l.exh ++ l.exw ++ l.fe ++ (BitVec.ofBool l.acq) ++ (BitVec.ofBool l.rel) ++ l.scope ++ (BitVec.ofBool l.rlx) ++ (BitVec.ofBool l.nt)) (0 : BitVec 7) 12 2).trans ((bits_hi (l.fmt8 ++ l.pred ++ l.exh ++ l.exw ++ l.fe ++ (BitVec.ofBool l.acq) ++ (BitVec.ofBool l.rel) ++ l.scope ++ (BitVec.ofBool l.rlx)) (BitVec.ofBool l.nt) 11 2).trans ((bits_hi (l.fmt8 ++ l.pred ++ l.exh ++ l.exw ++ l.fe ++ (BitVec.ofBool l.acq) ++ (BitVec.ofBool l.rel) ++ l.scope) (BitVec.ofBool l.rlx) 10 2).trans ((bits_hi (l.fmt8 ++ l.pred ++ l.exh ++ l.exw ++ l.fe ++ (BitVec.ofBool l.acq) ++ (BitVec.ofBool l.rel)) l.scope 7 2).trans ((bits_hi (l.fmt8 ++ l.pred ++ l.exh ++ l.exw ++ l.fe ++ (BitVec.ofBool l.acq)) (BitVec.ofBool l.rel) 6 2).trans ((bits_hi (l.fmt8 ++ l.pred ++ l.exh ++ l.exw ++ l.fe) (BitVec.ofBool l.acq) 5 2).trans ((bits_hi (l.fmt8 ++ l.pred ++ l.exh ++ l.exw) l.fe 2 2).trans ((bits_hi (l.fmt8 ++ l.pred ++ l.exh) l.exw 0 2).trans ((bits_lo (l.fmt8 ++ l.pred) l.exh 0 2 (by decide)).trans ((bits_all l.exh))))))))))
theorem ML.word_exw (l : ML) : bits 17 2 l.word = l.exw := (bits_hi (l.fmt8 ++ l.pred ++ l.exh ++ l.exw ++ l.fe ++ (BitVec.ofBool l.acq) ++ (BitVec.ofBool l.rel) ++ l.scope ++ (BitVec.ofBool l.rlx) ++ (BitVec.ofBool l.nt)) (0 : BitVec 7) 10 2).trans ((bits_hi (l.fmt8 ++ l.pred ++ l.exh ++ l.exw ++ l.fe ++ (BitVec.ofBool l.acq) ++ (BitVec.ofBool l.rel) ++ l.scope ++ (BitVec.ofBool l.rlx)) (BitVec.ofBool l.nt) 9 2).trans ((bits_hi (l.fmt8 ++ l.pred ++ l.exh ++ l.exw ++ l.fe ++ (BitVec.ofBool l.acq) ++ (BitVec.ofBool l.rel) ++ l.scope) (BitVec.ofBool l.rlx) 8 2).trans ((bits_hi (l.fmt8 ++ l.pred ++ l.exh ++ l.exw ++ l.fe ++ (BitVec.ofBool l.acq) ++ (BitVec.ofBool l.rel)) l.scope 5 2).trans ((bits_hi (l.fmt8 ++ l.pred ++ l.exh ++ l.exw ++ l.fe ++ (BitVec.ofBool l.acq)) (BitVec.ofBool l.rel) 4 2).trans ((bits_hi (l.fmt8 ++ l.pred ++ l.exh ++ l.exw ++ l.fe) (BitVec.ofBool l.acq) 3 2).trans ((bits_hi (l.fmt8 ++ l.pred ++ l.exh ++ l.exw) l.fe 0 2).trans ((bits_lo (l.fmt8 ++ l.pred ++ l.exh) l.exw 0 2 (by decide)).trans ((bits_all l.exw)))))))))
theorem ML.word_fe (l : ML) : bits 14 3 l.word = l.fe := (bits_hi (l.fmt8 ++ l.pred ++ l.exh ++ l.exw ++ l.fe ++ (BitVec.ofBool l.acq) ++ (BitVec.ofBool l.rel) ++ l.scope ++ (BitVec.ofBool l.rlx) ++ (BitVec.ofBool l.nt)) (0 : BitVec 7) 7 3).trans ((bits_hi (l.fmt8 ++ l.pred ++ l.exh ++ l.exw ++ l.fe ++ (BitVec.ofBool l.acq) ++ (BitVec.ofBool l.rel) ++ l.scope ++ (BitVec.ofBool l.rlx)) (BitVec.ofBool l.nt) 6 3).trans ((bits_hi (l.fmt8 ++ l.pred ++ l.exh ++ l.exw ++ l.fe ++ (BitVec.ofBool l.acq) ++ (BitVec.ofBool l.rel) ++ l.scope) (BitVec.ofBool l.rlx) 5 3).trans ((bits_hi (l.fmt8 ++ l.pred ++ l.exh ++ l.exw ++ l.fe ++ (BitVec.ofBool l.acq) ++ (BitVec.ofBool l.rel)) l.scope 2 3).trans ((bits_hi (l.fmt8 ++ l.pred ++ l.exh ++ l.exw ++ l.fe ++ (BitVec.ofBool l.acq)) (BitVec.ofBool l.rel) 1 3).trans ((bits_hi (l.fmt8 ++ l.pred ++ l.exh ++ l.exw ++ l.fe) (BitVec.ofBool l.acq) 0 3).trans ((bits_lo (l.fmt8 ++ l.pred ++ l.exh ++ l.exw) l.fe 0 3 (by decide)).trans ((bits_all l.fe))))))))
theorem ML.word_acq (l : ML) : flag 13 l.word = l.acq := flag_of_bits _ _ _ ((bits_hi (l.fmt8 ++ l.pred ++ l.exh ++ l.exw ++ l.fe ++ (BitVec.ofBool l.acq) ++ (BitVec.ofBool l.rel) ++ l.scope ++ (BitVec.ofBool l.rlx) ++ (BitVec.ofBool l.nt)) (0 : BitVec 7) 6 1).trans ((bits_hi (l.fmt8 ++ l.pred ++ l.exh ++ l.exw ++ l.fe ++ (BitVec.ofBool l.acq) ++ (BitVec.ofBool l.rel) ++ l.scope ++ (BitVec.ofBool l.rlx)) (BitVec.ofBool l.nt) 5 1).trans ((bits_hi (l.fmt8 ++ l.pred ++ l.exh ++ l.exw ++ l.fe ++ (BitVec.ofBool l.acq) ++ (BitVec.ofBool l.rel) ++ l.scope) (BitVec.ofBool l.rlx) 4 1).trans ((bits_hi (l.fmt8 ++ l.pred ++ l.exh ++ l.exw ++ l.fe ++ (BitVec.ofBool l.acq) ++ (BitVec.ofBool l.rel)) l.scope 1 1).trans ((bits_hi (l.fmt8 ++ l.pred ++ l.exh ++ l.exw ++ l.fe ++ (BitVec.ofBool l.acq)) (BitVec.ofBool l.rel) 0 1).trans ((bits_lo (l.fmt8 ++ l.pred ++ l.exh ++ l.exw ++ l.fe) (BitVec.ofBool l.acq) 0 1 (by decide)).trans ((bits_all (BitVec.ofBool l.acq)))))))))
theorem ML.word_rel (l : ML) : flag 12 l.word = l.rel := flag_of_bits _ _ _ ((bits_hi (l.fmt8 ++ l.pred ++ l.exh ++ l.exw ++ l.fe ++ (BitVec.ofBool l.acq) ++ (BitVec.ofBool l.rel) ++ l.scope ++ (BitVec.ofBool l.rlx) ++ (BitVec.ofBool l.nt)) (0 : BitVec 7) 5 1).trans ((bits_hi (l.fmt8 ++ l.pred ++ l.exh ++ l.exw ++ l.fe ++ (BitVec.ofBool l.acq) ++ (BitVec.ofBool l.rel) ++ l.scope ++ (BitVec.ofBool l.rlx)) (BitVec.ofBool l.nt) 4 1).trans ((bits_hi (l.fmt8 ++ l.pred ++ l.exh ++ l.exw ++ l.fe ++ (BitVec.ofBool l.acq) ++ (BitVec.ofBool l.rel) ++ l.scope) (BitVec.ofBool l.rlx) 3 1).trans ((bits_hi (l.fmt8 ++ l.pred ++ l.exh ++ l.exw ++ l.fe ++ (BitVec.ofBool l.acq) ++ (BitVec.ofBool l.rel)) l.scope 0 1).trans ((bits_lo (l.fmt8 ++ l.pred ++ l.exh ++ l.exw ++ l.fe ++ (BitVec.ofBool l.acq)) (BitVec.ofBool l.rel) 0 1 (by decide)).trans ((bits_all (BitVec.ofBool l.rel))))))))
theorem ML.word_scope (l : ML) : bits 9 3 l.word = l.scope := (bits_hi (l.fmt8 ++ l.pred ++ l.exh ++ l.exw ++ l.fe ++ (BitVec.ofBool l.acq) ++ (BitVec.ofBool l.rel) ++ l.scope ++ (BitVec.ofBool l.rlx) ++ (BitVec.ofBool l.nt)) (0 : BitVec 7) 2 3).trans ((bits_hi (l.fmt8 ++ l.pred ++ l.exh ++ l.exw ++ l.fe ++ (BitVec.ofBool l.acq) ++ (BitVec.ofBool l.rel) ++ l.scope ++ (BitVec.ofBool l.rlx)) (BitVec.ofBool l.nt) 1 3).trans ((bits_hi (l.fmt8 ++ l.pred ++ l.exh ++ l.exw ++ l.fe ++ (BitVec.ofBool l.acq) ++ (BitVec.ofBool l.rel) ++ l.scope) (BitVec.ofBool l.rlx) 0 3).trans ((bits_lo (l.fmt8 ++ l.pred ++ l.exh ++ l.exw ++ l.fe ++ (BitVec.ofBool l.acq) ++ (BitVec.ofBool l.rel)) l.scope 0 3 (by decide)).trans ((bits_all l.scope)))))
theorem ML.word_rlx (l : ML) : flag 8 l.word = l.rlx := flag_of_bits _ _ _ ((bits_hi (l.fmt8 ++ l.pred ++ l.exh ++ l.exw ++ l.fe ++ (BitVec.ofBool l.acq) ++ (BitVec.ofBool l.rel) ++ l.scope ++ (BitVec.ofBool l.rlx) ++ (BitVec.ofBool l.nt)) (0 : BitVec 7) 1 1).trans ((bits_hi (l.fmt8 ++ l.pred ++ l.exh ++ l.exw ++ l.fe ++ (BitVec.ofBool l.acq) ++ (BitVec.ofBool l.rel) ++ l.scope ++ (BitVec.ofBool l.rlx)) (BitVec.ofBool l.nt) 0 1).trans ((bits_lo (l.fmt8 ++ l.pred ++ l.exh ++ l.exw ++ l.fe ++ (BitVec.ofBool l.acq) ++ (BitVec.ofBool l.rel) ++ l.scope) (BitVec.ofBool l.rlx) 0 1 (by decide)).trans ((bits_all (BitVec.ofBool l.rlx))))))
theorem ML.word_nt (l : ML) : flag 7 l.word = l.nt := flag_of_bits _ _ _ ((bits_hi (l.fmt8 ++ l.pred ++ l.exh ++ l.exw ++ l.fe ++ (BitVec.ofBool l.acq) ++ (BitVec.ofBool l.rel) ++ l.scope ++ (BitVec.ofBool l.rlx) ++ (BitVec.ofBool l.nt)) (0 : BitVec 7) 0 1).trans ((bits_lo (l.fmt8 ++ l.pred ++ l.exh ++ l.exw ++ l.fe ++ (BitVec.ofBool l.acq) ++ (BitVec.ofBool l.rel) ++ l.scope ++ (BitVec.ofBool l.rlx)) (BitVec.ofBool l.nt) 0 1 (by decide)).trans ((bits_all (BitVec.ofBool l.nt)))))

/-- The second word of a long form reads back. -/
@[simp] theorem ML.of_word (l : ML) : ML.of l.word = l := by
  unfold ML.of
  rw [ML.word_fmt8, ML.word_pred, ML.word_exh, ML.word_exw, ML.word_fe, ML.word_acq, ML.word_rel, ML.word_scope, ML.word_rlx, ML.word_nt]

theorem EL.word_c (l : EL) : bits 24 8 l.word = l.c := (bits_hi (l.c ++ l.pred ++ l.exh ++ l.exw ++ l.fe ++ (BitVec.ofBool l.acq) ++ (BitVec.ofBool l.rel) ++ l.scope ++ (BitVec.ofBool l.rlx)) (0 : BitVec 8) 16 8).trans ((bits_hi (l.c ++ l.pred ++ l.exh ++ l.exw ++ l.fe ++ (BitVec.ofBool l.acq) ++ (BitVec.ofBool l.rel) ++ l.scope) (BitVec.ofBool l.rlx) 15 8).trans ((bits_hi (l.c ++ l.pred ++ l.exh ++ l.exw ++ l.fe ++ (BitVec.ofBool l.acq) ++ (BitVec.ofBool l.rel)) l.scope 12 8).trans ((bits_hi (l.c ++ l.pred ++ l.exh ++ l.exw ++ l.fe ++ (BitVec.ofBool l.acq)) (BitVec.ofBool l.rel) 11 8).trans ((bits_hi (l.c ++ l.pred ++ l.exh ++ l.exw ++ l.fe) (BitVec.ofBool l.acq) 10 8).trans ((bits_hi (l.c ++ l.pred ++ l.exh ++ l.exw) l.fe 7 8).trans ((bits_hi (l.c ++ l.pred ++ l.exh) l.exw 5 8).trans ((bits_hi (l.c ++ l.pred) l.exh 3 8).trans ((bits_hi (l.c) l.pred 0 8).trans ((bits_all l.c))))))))))
theorem EL.word_pred (l : EL) : bits 21 3 l.word = l.pred := (bits_hi (l.c ++ l.pred ++ l.exh ++ l.exw ++ l.fe ++ (BitVec.ofBool l.acq) ++ (BitVec.ofBool l.rel) ++ l.scope ++ (BitVec.ofBool l.rlx)) (0 : BitVec 8) 13 3).trans ((bits_hi (l.c ++ l.pred ++ l.exh ++ l.exw ++ l.fe ++ (BitVec.ofBool l.acq) ++ (BitVec.ofBool l.rel) ++ l.scope) (BitVec.ofBool l.rlx) 12 3).trans ((bits_hi (l.c ++ l.pred ++ l.exh ++ l.exw ++ l.fe ++ (BitVec.ofBool l.acq) ++ (BitVec.ofBool l.rel)) l.scope 9 3).trans ((bits_hi (l.c ++ l.pred ++ l.exh ++ l.exw ++ l.fe ++ (BitVec.ofBool l.acq)) (BitVec.ofBool l.rel) 8 3).trans ((bits_hi (l.c ++ l.pred ++ l.exh ++ l.exw ++ l.fe) (BitVec.ofBool l.acq) 7 3).trans ((bits_hi (l.c ++ l.pred ++ l.exh ++ l.exw) l.fe 4 3).trans ((bits_hi (l.c ++ l.pred ++ l.exh) l.exw 2 3).trans ((bits_hi (l.c ++ l.pred) l.exh 0 3).trans ((bits_lo (l.c) l.pred 0 3 (by decide)).trans ((bits_all l.pred))))))))))
theorem EL.word_exh (l : EL) : bits 19 2 l.word = l.exh := (bits_hi (l.c ++ l.pred ++ l.exh ++ l.exw ++ l.fe ++ (BitVec.ofBool l.acq) ++ (BitVec.ofBool l.rel) ++ l.scope ++ (BitVec.ofBool l.rlx)) (0 : BitVec 8) 11 2).trans ((bits_hi (l.c ++ l.pred ++ l.exh ++ l.exw ++ l.fe ++ (BitVec.ofBool l.acq) ++ (BitVec.ofBool l.rel) ++ l.scope) (BitVec.ofBool l.rlx) 10 2).trans ((bits_hi (l.c ++ l.pred ++ l.exh ++ l.exw ++ l.fe ++ (BitVec.ofBool l.acq) ++ (BitVec.ofBool l.rel)) l.scope 7 2).trans ((bits_hi (l.c ++ l.pred ++ l.exh ++ l.exw ++ l.fe ++ (BitVec.ofBool l.acq)) (BitVec.ofBool l.rel) 6 2).trans ((bits_hi (l.c ++ l.pred ++ l.exh ++ l.exw ++ l.fe) (BitVec.ofBool l.acq) 5 2).trans ((bits_hi (l.c ++ l.pred ++ l.exh ++ l.exw) l.fe 2 2).trans ((bits_hi (l.c ++ l.pred ++ l.exh) l.exw 0 2).trans ((bits_lo (l.c ++ l.pred) l.exh 0 2 (by decide)).trans ((bits_all l.exh)))))))))
theorem EL.word_exw (l : EL) : bits 17 2 l.word = l.exw := (bits_hi (l.c ++ l.pred ++ l.exh ++ l.exw ++ l.fe ++ (BitVec.ofBool l.acq) ++ (BitVec.ofBool l.rel) ++ l.scope ++ (BitVec.ofBool l.rlx)) (0 : BitVec 8) 9 2).trans ((bits_hi (l.c ++ l.pred ++ l.exh ++ l.exw ++ l.fe ++ (BitVec.ofBool l.acq) ++ (BitVec.ofBool l.rel) ++ l.scope) (BitVec.ofBool l.rlx) 8 2).trans ((bits_hi (l.c ++ l.pred ++ l.exh ++ l.exw ++ l.fe ++ (BitVec.ofBool l.acq) ++ (BitVec.ofBool l.rel)) l.scope 5 2).trans ((bits_hi (l.c ++ l.pred ++ l.exh ++ l.exw ++ l.fe ++ (BitVec.ofBool l.acq)) (BitVec.ofBool l.rel) 4 2).trans ((bits_hi (l.c ++ l.pred ++ l.exh ++ l.exw ++ l.fe) (BitVec.ofBool l.acq) 3 2).trans ((bits_hi (l.c ++ l.pred ++ l.exh ++ l.exw) l.fe 0 2).trans ((bits_lo (l.c ++ l.pred ++ l.exh) l.exw 0 2 (by decide)).trans ((bits_all l.exw))))))))
theorem EL.word_fe (l : EL) : bits 14 3 l.word = l.fe := (bits_hi (l.c ++ l.pred ++ l.exh ++ l.exw ++ l.fe ++ (BitVec.ofBool l.acq) ++ (BitVec.ofBool l.rel) ++ l.scope ++ (BitVec.ofBool l.rlx)) (0 : BitVec 8) 6 3).trans ((bits_hi (l.c ++ l.pred ++ l.exh ++ l.exw ++ l.fe ++ (BitVec.ofBool l.acq) ++ (BitVec.ofBool l.rel) ++ l.scope) (BitVec.ofBool l.rlx) 5 3).trans ((bits_hi (l.c ++ l.pred ++ l.exh ++ l.exw ++ l.fe ++ (BitVec.ofBool l.acq) ++ (BitVec.ofBool l.rel)) l.scope 2 3).trans ((bits_hi (l.c ++ l.pred ++ l.exh ++ l.exw ++ l.fe ++ (BitVec.ofBool l.acq)) (BitVec.ofBool l.rel) 1 3).trans ((bits_hi (l.c ++ l.pred ++ l.exh ++ l.exw ++ l.fe) (BitVec.ofBool l.acq) 0 3).trans ((bits_lo (l.c ++ l.pred ++ l.exh ++ l.exw) l.fe 0 3 (by decide)).trans ((bits_all l.fe)))))))
theorem EL.word_acq (l : EL) : flag 13 l.word = l.acq := flag_of_bits _ _ _ ((bits_hi (l.c ++ l.pred ++ l.exh ++ l.exw ++ l.fe ++ (BitVec.ofBool l.acq) ++ (BitVec.ofBool l.rel) ++ l.scope ++ (BitVec.ofBool l.rlx)) (0 : BitVec 8) 5 1).trans ((bits_hi (l.c ++ l.pred ++ l.exh ++ l.exw ++ l.fe ++ (BitVec.ofBool l.acq) ++ (BitVec.ofBool l.rel) ++ l.scope) (BitVec.ofBool l.rlx) 4 1).trans ((bits_hi (l.c ++ l.pred ++ l.exh ++ l.exw ++ l.fe ++ (BitVec.ofBool l.acq) ++ (BitVec.ofBool l.rel)) l.scope 1 1).trans ((bits_hi (l.c ++ l.pred ++ l.exh ++ l.exw ++ l.fe ++ (BitVec.ofBool l.acq)) (BitVec.ofBool l.rel) 0 1).trans ((bits_lo (l.c ++ l.pred ++ l.exh ++ l.exw ++ l.fe) (BitVec.ofBool l.acq) 0 1 (by decide)).trans ((bits_all (BitVec.ofBool l.acq))))))))
theorem EL.word_rel (l : EL) : flag 12 l.word = l.rel := flag_of_bits _ _ _ ((bits_hi (l.c ++ l.pred ++ l.exh ++ l.exw ++ l.fe ++ (BitVec.ofBool l.acq) ++ (BitVec.ofBool l.rel) ++ l.scope ++ (BitVec.ofBool l.rlx)) (0 : BitVec 8) 4 1).trans ((bits_hi (l.c ++ l.pred ++ l.exh ++ l.exw ++ l.fe ++ (BitVec.ofBool l.acq) ++ (BitVec.ofBool l.rel) ++ l.scope) (BitVec.ofBool l.rlx) 3 1).trans ((bits_hi (l.c ++ l.pred ++ l.exh ++ l.exw ++ l.fe ++ (BitVec.ofBool l.acq) ++ (BitVec.ofBool l.rel)) l.scope 0 1).trans ((bits_lo (l.c ++ l.pred ++ l.exh ++ l.exw ++ l.fe ++ (BitVec.ofBool l.acq)) (BitVec.ofBool l.rel) 0 1 (by decide)).trans ((bits_all (BitVec.ofBool l.rel)))))))
theorem EL.word_scope (l : EL) : bits 9 3 l.word = l.scope := (bits_hi (l.c ++ l.pred ++ l.exh ++ l.exw ++ l.fe ++ (BitVec.ofBool l.acq) ++ (BitVec.ofBool l.rel) ++ l.scope ++ (BitVec.ofBool l.rlx)) (0 : BitVec 8) 1 3).trans ((bits_hi (l.c ++ l.pred ++ l.exh ++ l.exw ++ l.fe ++ (BitVec.ofBool l.acq) ++ (BitVec.ofBool l.rel) ++ l.scope) (BitVec.ofBool l.rlx) 0 3).trans ((bits_lo (l.c ++ l.pred ++ l.exh ++ l.exw ++ l.fe ++ (BitVec.ofBool l.acq) ++ (BitVec.ofBool l.rel)) l.scope 0 3 (by decide)).trans ((bits_all l.scope))))
theorem EL.word_rlx (l : EL) : flag 8 l.word = l.rlx := flag_of_bits _ _ _ ((bits_hi (l.c ++ l.pred ++ l.exh ++ l.exw ++ l.fe ++ (BitVec.ofBool l.acq) ++ (BitVec.ofBool l.rel) ++ l.scope ++ (BitVec.ofBool l.rlx)) (0 : BitVec 8) 0 1).trans ((bits_lo (l.c ++ l.pred ++ l.exh ++ l.exw ++ l.fe ++ (BitVec.ofBool l.acq) ++ (BitVec.ofBool l.rel) ++ l.scope) (BitVec.ofBool l.rlx) 0 1 (by decide)).trans ((bits_all (BitVec.ofBool l.rlx)))))

/-- The second word of a long form reads back. -/
@[simp] theorem EL.of_word (l : EL) : EL.of l.word = l := by
  unfold EL.of
  rw [EL.word_c, EL.word_pred, EL.word_exh, EL.word_exw, EL.word_fe, EL.word_acq, EL.word_rel, EL.word_scope, EL.word_rlx]

end Sys2Proof
end

