-- ==== Sys2Proof/Laws/Exec.lean ====
section
/-!
SUPPORT. `exec` of each constructor is that instruction's meaning. With these, no proof unfolds the whole dispatch.
-/
namespace Sys2Proof.Machine

@[simp] theorem exec_sadd (d : BitVec 7) (a : BitVec 7) (b : BitVec 7) (t : BitVec 3) (st : State) : exec (.sadd d a b t) st = execSadd d a b t st := rfl
@[simp] theorem exec_ssub (d : BitVec 7) (a : BitVec 7) (b : BitVec 7) (t : BitVec 3) (st : State) : exec (.ssub d a b t) st = execSsub d a b t st := rfl
@[simp] theorem exec_smul (d : BitVec 7) (a : BitVec 7) (b : BitVec 7) (t : BitVec 3) (st : State) : exec (.smul d a b t) st = execSmul d a b t st := rfl
@[simp] theorem exec_smulh (d : BitVec 7) (a : BitVec 7) (b : BitVec 7) (t : BitVec 3) (st : State) : exec (.smulh d a b t) st = execSmulh d a b t st := rfl
@[simp] theorem exec_sdiv (d : BitVec 7) (a : BitVec 7) (b : BitVec 7) (t : BitVec 3) (st : State) : exec (.sdiv d a b t) st = execSdiv d a b t st := rfl
@[simp] theorem exec_srem (d : BitVec 7) (a : BitVec 7) (b : BitVec 7) (t : BitVec 3) (st : State) : exec (.srem d a b t) st = execSrem d a b t st := rfl
@[simp] theorem exec_smin (d : BitVec 7) (a : BitVec 7) (b : BitVec 7) (t : BitVec 3) (st : State) : exec (.smin d a b t) st = execSmin d a b t st := rfl
@[simp] theorem exec_smax (d : BitVec 7) (a : BitVec 7) (b : BitVec 7) (t : BitVec 3) (st : State) : exec (.smax d a b t) st = execSmax d a b t st := rfl
@[simp] theorem exec_sand (d : BitVec 7) (a : BitVec 7) (b : BitVec 7) (t : BitVec 3) (st : State) : exec (.sand d a b t) st = execSand d a b t st := rfl
@[simp] theorem exec_sor (d : BitVec 7) (a : BitVec 7) (b : BitVec 7) (t : BitVec 3) (st : State) : exec (.sor d a b t) st = execSor d a b t st := rfl
@[simp] theorem exec_sxor (d : BitVec 7) (a : BitVec 7) (b : BitVec 7) (t : BitVec 3) (st : State) : exec (.sxor d a b t) st = execSxor d a b t st := rfl
@[simp] theorem exec_sandn (d : BitVec 7) (a : BitVec 7) (b : BitVec 7) (t : BitVec 3) (st : State) : exec (.sandn d a b t) st = execSandn d a b t st := rfl
@[simp] theorem exec_sshl (d : BitVec 7) (a : BitVec 7) (b : BitVec 7) (t : BitVec 3) (st : State) : exec (.sshl d a b t) st = execSshl d a b t st := rfl
@[simp] theorem exec_sshr (d : BitVec 7) (a : BitVec 7) (b : BitVec 7) (t : BitVec 3) (st : State) : exec (.sshr d a b t) st = execSshr d a b t st := rfl
@[simp] theorem exec_srot (d : BitVec 7) (a : BitVec 7) (b : BitVec 7) (t : BitVec 3) (st : State) : exec (.srot d a b t) st = execSrot d a b t st := rfl
@[simp] theorem exec_sclz (d : BitVec 7) (a : BitVec 7) (t : BitVec 3) (st : State) : exec (.sclz d a t) st = execSclz d a t st := rfl
@[simp] theorem exec_seq (d : BitVec 7) (a : BitVec 7) (b : BitVec 7) (t : BitVec 3) (st : State) : exec (.seq d a b t) st = execSeq d a b t st := rfl
@[simp] theorem exec_sne (d : BitVec 7) (a : BitVec 7) (b : BitVec 7) (t : BitVec 3) (st : State) : exec (.sne d a b t) st = execSne d a b t st := rfl
@[simp] theorem exec_slt (d : BitVec 7) (a : BitVec 7) (b : BitVec 7) (t : BitVec 3) (st : State) : exec (.slt d a b t) st = execSlt d a b t st := rfl
@[simp] theorem exec_sle (d : BitVec 7) (a : BitVec 7) (b : BitVec 7) (t : BitVec 3) (st : State) : exec (.sle d a b t) st = execSle d a b t st := rfl
@[simp] theorem exec_ssel (d : BitVec 7) (a : BitVec 7) (b : BitVec 7) (t : BitVec 3) (st : State) : exec (.ssel d a b t) st = execSsel d a b t st := rfl
@[simp] theorem exec_spopc (d : BitVec 7) (a : BitVec 7) (t : BitVec 3) (st : State) : exec (.spopc d a t) st = execSpopc d a t st := rfl
@[simp] theorem exec_sctz (d : BitVec 7) (a : BitVec 7) (t : BitVec 3) (st : State) : exec (.sctz d a t) st = execSctz d a t st := rfl
@[simp] theorem exec_sbrev (d : BitVec 7) (a : BitVec 7) (t : BitVec 3) (st : State) : exec (.sbrev d a t) st = execSbrev d a t st := rfl
@[simp] theorem exec_sbfx (d : BitVec 7) (a : BitVec 7) (b : BitVec 7) (t : BitVec 3) (st : State) : exec (.sbfx d a b t) st = execSbfx d a b t st := rfl
@[simp] theorem exec_sbfi (d : BitVec 7) (a : BitVec 7) (b : BitVec 7) (t : BitVec 3) (st : State) : exec (.sbfi d a b t) st = execSbfi d a b t st := rfl
@[simp] theorem exec_smov (d : BitVec 7) (a : BitVec 7) (t : BitVec 3) (st : State) : exec (.smov d a t) st = execSmov d a t st := rfl
@[simp] theorem exec_saddi (d : BitVec 7) (a : BitVec 7) (imm : BitVec 10) (st : State) : exec (.saddi d a imm) st = execSaddi d a imm st := rfl
@[simp] theorem exec_smuli (d : BitVec 7) (a : BitVec 7) (imm : BitVec 10) (st : State) : exec (.smuli d a imm) st = execSmuli d a imm st := rfl
@[simp] theorem exec_sandi (d : BitVec 7) (a : BitVec 7) (imm : BitVec 10) (st : State) : exec (.sandi d a imm) st = execSandi d a imm st := rfl
@[simp] theorem exec_sori (d : BitVec 7) (a : BitVec 7) (imm : BitVec 10) (st : State) : exec (.sori d a imm) st = execSori d a imm st := rfl
@[simp] theorem exec_sxori (d : BitVec 7) (a : BitVec 7) (imm : BitVec 10) (st : State) : exec (.sxori d a imm) st = execSxori d a imm st := rfl
@[simp] theorem exec_sshli (d : BitVec 7) (a : BitVec 7) (imm : BitVec 10) (st : State) : exec (.sshli d a imm) st = execSshli d a imm st := rfl
@[simp] theorem exec_sshri (d : BitVec 7) (a : BitVec 7) (imm : BitVec 10) (st : State) : exec (.sshri d a imm) st = execSshri d a imm st := rfl
@[simp] theorem exec_ssrai (d : BitVec 7) (a : BitVec 7) (imm : BitVec 10) (st : State) : exec (.ssrai d a imm) st = execSsrai d a imm st := rfl
@[simp] theorem exec_seqi (d : BitVec 7) (a : BitVec 7) (imm : BitVec 10) (st : State) : exec (.seqi d a imm) st = execSeqi d a imm st := rfl
@[simp] theorem exec_slti (d : BitVec 7) (a : BitVec 7) (imm : BitVec 10) (st : State) : exec (.slti d a imm) st = execSlti d a imm st := rfl
@[simp] theorem exec_sltni (d : BitVec 7) (a : BitVec 7) (imm : BitVec 10) (st : State) : exec (.sltni d a imm) st = execSltni d a imm st := rfl
@[simp] theorem exec_smovi (d : BitVec 7) (imm : BitVec 10) (st : State) : exec (.smovi d imm) st = execSmovi d imm st := rfl
@[simp] theorem exec_saddiLong (d : BitVec 7) (a : BitVec 7) (imm : BitVec 32) (st : State) : exec (.saddiLong d a imm) st = execSaddiLong d a imm st := rfl
@[simp] theorem exec_smuliLong (d : BitVec 7) (a : BitVec 7) (imm : BitVec 32) (st : State) : exec (.smuliLong d a imm) st = execSmuliLong d a imm st := rfl
@[simp] theorem exec_sandiLong (d : BitVec 7) (a : BitVec 7) (imm : BitVec 32) (st : State) : exec (.sandiLong d a imm) st = execSandiLong d a imm st := rfl
@[simp] theorem exec_soriLong (d : BitVec 7) (a : BitVec 7) (imm : BitVec 32) (st : State) : exec (.soriLong d a imm) st = execSoriLong d a imm st := rfl
@[simp] theorem exec_sxoriLong (d : BitVec 7) (a : BitVec 7) (imm : BitVec 32) (st : State) : exec (.sxoriLong d a imm) st = execSxoriLong d a imm st := rfl
@[simp] theorem exec_sshliLong (d : BitVec 7) (a : BitVec 7) (imm : BitVec 32) (st : State) : exec (.sshliLong d a imm) st = execSshliLong d a imm st := rfl
@[simp] theorem exec_sshriLong (d : BitVec 7) (a : BitVec 7) (imm : BitVec 32) (st : State) : exec (.sshriLong d a imm) st = execSshriLong d a imm st := rfl
@[simp] theorem exec_ssraiLong (d : BitVec 7) (a : BitVec 7) (imm : BitVec 32) (st : State) : exec (.ssraiLong d a imm) st = execSsraiLong d a imm st := rfl
@[simp] theorem exec_seqiLong (d : BitVec 7) (a : BitVec 7) (imm : BitVec 32) (st : State) : exec (.seqiLong d a imm) st = execSeqiLong d a imm st := rfl
@[simp] theorem exec_sltiLong (d : BitVec 7) (a : BitVec 7) (imm : BitVec 32) (st : State) : exec (.sltiLong d a imm) st = execSltiLong d a imm st := rfl
@[simp] theorem exec_sltniLong (d : BitVec 7) (a : BitVec 7) (imm : BitVec 32) (st : State) : exec (.sltniLong d a imm) st = execSltniLong d a imm st := rfl
@[simp] theorem exec_smoviLong (d : BitVec 7) (imm : BitVec 32) (st : State) : exec (.smoviLong d imm) st = execSmoviLong d imm st := rfl
@[simp] theorem exec_smovh (d : BitVec 7) (imm : BitVec 32) (st : State) : exec (.smovh d imm) st = execSmovh d imm st := rfl
@[simp] theorem exec_bra (off : BitVec 17) (st : State) : exec (.bra off) st = execBra off st := rfl
@[simp] theorem exec_bz (a : BitVec 7) (off : BitVec 17) (st : State) : exec (.bz a off) st = execBz a off st := rfl
@[simp] theorem exec_bnz (a : BitVec 7) (off : BitVec 17) (st : State) : exec (.bnz a off) st = execBnz a off st := rfl
@[simp] theorem exec_call (a : BitVec 7) (off : BitVec 17) (st : State) : exec (.call a off) st = execCall a off st := rfl
@[simp] theorem exec_ret (a : BitVec 7) (st : State) : exec (.ret a) st = execRet a st := rfl
@[simp] theorem exec_brx (a : BitVec 7) (off : BitVec 17) (st : State) : exec (.brx a off) st = execBrx a off st := rfl
@[simp] theorem exec_loop (a : BitVec 7) (off : BitVec 17) (st : State) : exec (.loop a off) st = execLoop a off st := rfl
@[simp] theorem exec_lpop (st : State) : exec (.lpop) st = execLpop st := rfl
@[simp] theorem exec_exit (st : State) : exec (.exit) st = execExit st := rfl
@[simp] theorem exec_tail (st : State) : exec (.tail) st = execTail st := rfl
@[simp] theorem exec_yield (off : BitVec 17) (st : State) : exec (.yield off) st = execYield off st := rfl
@[simp] theorem exec_nop (st : State) : exec (.nop) st = execNop st := rfl
@[simp] theorem exec_braLong (off : BitVec 32) (st : State) : exec (.braLong off) st = execBraLong off st := rfl
@[simp] theorem exec_bzLong (a : BitVec 7) (off : BitVec 32) (st : State) : exec (.bzLong a off) st = execBzLong a off st := rfl
@[simp] theorem exec_bnzLong (a : BitVec 7) (off : BitVec 32) (st : State) : exec (.bnzLong a off) st = execBnzLong a off st := rfl
@[simp] theorem exec_callLong (a : BitVec 7) (off : BitVec 32) (st : State) : exec (.callLong a off) st = execCallLong a off st := rfl
@[simp] theorem exec_loopLong (a : BitVec 7) (off : BitVec 32) (st : State) : exec (.loopLong a off) st = execLoopLong a off st := rfl
@[simp] theorem exec_yieldLong (off : BitVec 32) (st : State) : exec (.yieldLong off) st = execYieldLong off st := rfl
@[simp] theorem exec_hint (lo : BitVec 4) (st : State) : exec (.hint lo) st = execHint lo st := rfl
@[simp] theorem exec_mfs (d : BitVec 7) (n : BitVec 10) (st : State) : exec (.mfs d n) st = execMfs d n st := rfl
@[simp] theorem exec_mts (a : BitVec 7) (n : BitVec 10) (st : State) : exec (.mts a n) st = execMts a n st := rfl
@[simp] theorem exec_bar (n : BitVec 10) (st : State) : exec (.bar n) st = execBar n st := rfl
@[simp] theorem exec_barPod (st : State) : exec (.barPod) st = execBarPod st := rfl
@[simp] theorem exec_nbarw (d : BitVec 7) (n : BitVec 10) (st : State) : exec (.nbarw d n) st = execNbarw d n st := rfl
@[simp] theorem exec_nbarr (n : BitVec 10) (st : State) : exec (.nbarr n) st = execNbarr n st := rfl
@[simp] theorem exec_nbwait (a : BitVec 7) (n : BitVec 10) (st : State) : exec (.nbwait a n) st = execNbwait a n st := rfl
@[simp] theorem exec_nbinit (a : BitVec 7) (n : BitVec 10) (st : State) : exec (.nbinit a n) st = execNbinit a n st := rfl
@[simp] theorem exec_trap (code : BitVec 10) (st : State) : exec (.trap code) st = execTrap code st := rfl
@[simp] theorem exec_rft (st : State) : exec (.rft) st = execRft st := rfl
@[simp] theorem exec_brk (code : BitVec 10) (st : State) : exec (.brk code) st = execBrk code st := rfl
@[simp] theorem exec_phint (nm : BitVec 2) (ap : BitVec 6) (smap : BitVec 16) (vmap : BitVec 32) (st : State) : exec (.phint nm ap smap vmap) st = execPhint nm ap smap vmap st := rfl
@[simp] theorem exec_vadd (d : BitVec 8) (a : BitVec 8) (b : BitVec 8) (st : State) : exec (.vadd d a b) st = execVadd d a b st := rfl
@[simp] theorem exec_vsub (d : BitVec 8) (a : BitVec 8) (b : BitVec 8) (st : State) : exec (.vsub d a b) st = execVsub d a b st := rfl
@[simp] theorem exec_vmul (d : BitVec 8) (a : BitVec 8) (b : BitVec 8) (st : State) : exec (.vmul d a b) st = execVmul d a b st := rfl
@[simp] theorem exec_vfma (d : BitVec 8) (a : BitVec 8) (b : BitVec 8) (st : State) : exec (.vfma d a b) st = execVfma d a b st := rfl
@[simp] theorem exec_vmin (d : BitVec 8) (a : BitVec 8) (b : BitVec 8) (st : State) : exec (.vmin d a b) st = execVmin d a b st := rfl
@[simp] theorem exec_vmax (d : BitVec 8) (a : BitVec 8) (b : BitVec 8) (st : State) : exec (.vmax d a b) st = execVmax d a b st := rfl
@[simp] theorem exec_vaddmin (d : BitVec 8) (a : BitVec 8) (b : BitVec 8) (st : State) : exec (.vaddmin d a b) st = execVaddmin d a b st := rfl
@[simp] theorem exec_vaddmax (d : BitVec 8) (a : BitVec 8) (b : BitVec 8) (st : State) : exec (.vaddmax d a b) st = execVaddmax d a b st := rfl
@[simp] theorem exec_vrcp (d : BitVec 8) (a : BitVec 8) (st : State) : exec (.vrcp d a) st = execVrcp d a st := rfl
@[simp] theorem exec_vsqrt (d : BitVec 8) (a : BitVec 8) (st : State) : exec (.vsqrt d a) st = execVsqrt d a st := rfl
@[simp] theorem exec_vrsq (d : BitVec 8) (a : BitVec 8) (st : State) : exec (.vrsq d a) st = execVrsq d a st := rfl
@[simp] theorem exec_vexp2 (d : BitVec 8) (a : BitVec 8) (st : State) : exec (.vexp2 d a) st = execVexp2 d a st := rfl
@[simp] theorem exec_vlog2 (d : BitVec 8) (a : BitVec 8) (st : State) : exec (.vlog2 d a) st = execVlog2 d a st := rfl
@[simp] theorem exec_vsin (d : BitVec 8) (a : BitVec 8) (st : State) : exec (.vsin d a) st = execVsin d a st := rfl
@[simp] theorem exec_vcos (d : BitVec 8) (a : BitVec 8) (st : State) : exec (.vcos d a) st = execVcos d a st := rfl
@[simp] theorem exec_vrint (d : BitVec 8) (a : BitVec 8) (st : State) : exec (.vrint d a) st = execVrint d a st := rfl
@[simp] theorem exec_vand (d : BitVec 8) (a : BitVec 8) (b : BitVec 8) (st : State) : exec (.vand d a b) st = execVand d a b st := rfl
@[simp] theorem exec_vor (d : BitVec 8) (a : BitVec 8) (b : BitVec 8) (st : State) : exec (.vor d a b) st = execVor d a b st := rfl
@[simp] theorem exec_vxor (d : BitVec 8) (a : BitVec 8) (b : BitVec 8) (st : State) : exec (.vxor d a b) st = execVxor d a b st := rfl
@[simp] theorem exec_vandn (d : BitVec 8) (a : BitVec 8) (b : BitVec 8) (st : State) : exec (.vandn d a b) st = execVandn d a b st := rfl
@[simp] theorem exec_vshl (d : BitVec 8) (a : BitVec 8) (b : BitVec 8) (st : State) : exec (.vshl d a b) st = execVshl d a b st := rfl
@[simp] theorem exec_vshr (d : BitVec 8) (a : BitVec 8) (b : BitVec 8) (st : State) : exec (.vshr d a b) st = execVshr d a b st := rfl
@[simp] theorem exec_vmullo (d : BitVec 8) (a : BitVec 8) (b : BitVec 8) (st : State) : exec (.vmullo d a b) st = execVmullo d a b st := rfl
@[simp] theorem exec_vmulhi (d : BitVec 8) (a : BitVec 8) (b : BitVec 8) (st : State) : exec (.vmulhi d a b) st = execVmulhi d a b st := rfl
@[simp] theorem exec_vpopc (d : BitVec 8) (a : BitVec 8) (st : State) : exec (.vpopc d a) st = execVpopc d a st := rfl
@[simp] theorem exec_vclz (d : BitVec 8) (a : BitVec 8) (st : State) : exec (.vclz d a) st = execVclz d a st := rfl
@[simp] theorem exec_vcmpEqF32 (d : BitVec 3) (a : BitVec 8) (b : BitVec 8) (st : State) : exec (.vcmpEqF32 d a b) st = execVcmpEqF32 d a b st := rfl
@[simp] theorem exec_vcmpNeF32 (d : BitVec 3) (a : BitVec 8) (b : BitVec 8) (st : State) : exec (.vcmpNeF32 d a b) st = execVcmpNeF32 d a b st := rfl
@[simp] theorem exec_vcmpLtF32 (d : BitVec 3) (a : BitVec 8) (b : BitVec 8) (st : State) : exec (.vcmpLtF32 d a b) st = execVcmpLtF32 d a b st := rfl
@[simp] theorem exec_vcmpLeF32 (d : BitVec 3) (a : BitVec 8) (b : BitVec 8) (st : State) : exec (.vcmpLeF32 d a b) st = execVcmpLeF32 d a b st := rfl
@[simp] theorem exec_vcmpGtF32 (d : BitVec 3) (a : BitVec 8) (b : BitVec 8) (st : State) : exec (.vcmpGtF32 d a b) st = execVcmpGtF32 d a b st := rfl
@[simp] theorem exec_vcmpGeF32 (d : BitVec 3) (a : BitVec 8) (b : BitVec 8) (st : State) : exec (.vcmpGeF32 d a b) st = execVcmpGeF32 d a b st := rfl
@[simp] theorem exec_vcmpEqI32 (d : BitVec 3) (a : BitVec 8) (b : BitVec 8) (st : State) : exec (.vcmpEqI32 d a b) st = execVcmpEqI32 d a b st := rfl
@[simp] theorem exec_vcmpNeI32 (d : BitVec 3) (a : BitVec 8) (b : BitVec 8) (st : State) : exec (.vcmpNeI32 d a b) st = execVcmpNeI32 d a b st := rfl
@[simp] theorem exec_vcmpLtI32 (d : BitVec 3) (a : BitVec 8) (b : BitVec 8) (st : State) : exec (.vcmpLtI32 d a b) st = execVcmpLtI32 d a b st := rfl
@[simp] theorem exec_vcmpLeI32 (d : BitVec 3) (a : BitVec 8) (b : BitVec 8) (st : State) : exec (.vcmpLeI32 d a b) st = execVcmpLeI32 d a b st := rfl
@[simp] theorem exec_vcmpGtI32 (d : BitVec 3) (a : BitVec 8) (b : BitVec 8) (st : State) : exec (.vcmpGtI32 d a b) st = execVcmpGtI32 d a b st := rfl
@[simp] theorem exec_vcmpGeI32 (d : BitVec 3) (a : BitVec 8) (b : BitVec 8) (st : State) : exec (.vcmpGeI32 d a b) st = execVcmpGeI32 d a b st := rfl
@[simp] theorem exec_vcmpLtN32 (d : BitVec 3) (a : BitVec 8) (b : BitVec 8) (st : State) : exec (.vcmpLtN32 d a b) st = execVcmpLtN32 d a b st := rfl
@[simp] theorem exec_vcmpLeN32 (d : BitVec 3) (a : BitVec 8) (b : BitVec 8) (st : State) : exec (.vcmpLeN32 d a b) st = execVcmpLeN32 d a b st := rfl
@[simp] theorem exec_vcmpGtN32 (d : BitVec 3) (a : BitVec 8) (b : BitVec 8) (st : State) : exec (.vcmpGtN32 d a b) st = execVcmpGtN32 d a b st := rfl
@[simp] theorem exec_vcmpGeN32 (d : BitVec 3) (a : BitVec 8) (b : BitVec 8) (st : State) : exec (.vcmpGeN32 d a b) st = execVcmpGeN32 d a b st := rfl
@[simp] theorem exec_vpack (d : BitVec 8) (a : BitVec 8) (b : BitVec 8) (st : State) : exec (.vpack d a b) st = execVpack d a b st := rfl
@[simp] theorem exec_vunplo (d : BitVec 8) (a : BitVec 8) (st : State) : exec (.vunplo d a) st = execVunplo d a st := rfl
@[simp] theorem exec_vunphi (d : BitVec 8) (a : BitVec 8) (st : State) : exec (.vunphi d a) st = execVunphi d a st := rfl
@[simp] theorem exec_vmov (d : BitVec 8) (a : BitVec 8) (st : State) : exec (.vmov d a) st = execVmov d a st := rfl
@[simp] theorem exec_vbcst (d : BitVec 8) (a : BitVec 8) (b : BitVec 7) (st : State) : exec (.vbcst d a b) st = execVbcst d a b st := rfl
@[simp] theorem exec_vshfl (d : BitVec 8) (a : BitVec 8) (b : BitVec 8) (st : State) : exec (.vshfl d a b) st = execVshfl d a b st := rfl
@[simp] theorem exec_vbfly (d : BitVec 8) (a : BitVec 8) (b : BitVec 7) (st : State) : exec (.vbfly d a b) st = execVbfly d a b st := rfl
@[simp] theorem exec_vlsu (d : BitVec 8) (a : BitVec 8) (b : BitVec 7) (st : State) : exec (.vlsu d a b) st = execVlsu d a b st := rfl
@[simp] theorem exec_vlsd (d : BitVec 8) (a : BitVec 8) (b : BitVec 7) (st : State) : exec (.vlsd d a b) st = execVlsd d a b st := rfl
@[simp] theorem exec_vscan (d : BitVec 8) (a : BitVec 8) (st : State) : exec (.vscan d a) st = execVscan d a st := rfl
@[simp] theorem exec_vdot2 (d : BitVec 8) (a : BitVec 8) (b : BitVec 8) (st : State) : exec (.vdot2 d a b) st = execVdot2 d a b st := rfl
@[simp] theorem exec_vaddLong (d : BitVec 8) (a : BitVec 8) (b : BitVec 8) (l : VL) (st : State) : exec (.vaddLong d a b l) st = execVaddLong d a b l st := rfl
@[simp] theorem exec_vsubLong (d : BitVec 8) (a : BitVec 8) (b : BitVec 8) (l : VL) (st : State) : exec (.vsubLong d a b l) st = execVsubLong d a b l st := rfl
@[simp] theorem exec_vmulLong (d : BitVec 8) (a : BitVec 8) (b : BitVec 8) (l : VL) (st : State) : exec (.vmulLong d a b l) st = execVmulLong d a b l st := rfl
@[simp] theorem exec_vfmaLong (d : BitVec 8) (a : BitVec 8) (b : BitVec 8) (l : VL) (st : State) : exec (.vfmaLong d a b l) st = execVfmaLong d a b l st := rfl
@[simp] theorem exec_vminLong (d : BitVec 8) (a : BitVec 8) (b : BitVec 8) (l : VL) (st : State) : exec (.vminLong d a b l) st = execVminLong d a b l st := rfl
@[simp] theorem exec_vmaxLong (d : BitVec 8) (a : BitVec 8) (b : BitVec 8) (l : VL) (st : State) : exec (.vmaxLong d a b l) st = execVmaxLong d a b l st := rfl
@[simp] theorem exec_vaddminLong (d : BitVec 8) (a : BitVec 8) (b : BitVec 8) (l : VL) (st : State) : exec (.vaddminLong d a b l) st = execVaddminLong d a b l st := rfl
@[simp] theorem exec_vaddmaxLong (d : BitVec 8) (a : BitVec 8) (b : BitVec 8) (l : VL) (st : State) : exec (.vaddmaxLong d a b l) st = execVaddmaxLong d a b l st := rfl
@[simp] theorem exec_vrcpLong (d : BitVec 8) (a : BitVec 8) (l : VL) (st : State) : exec (.vrcpLong d a l) st = execVrcpLong d a l st := rfl
@[simp] theorem exec_vsqrtLong (d : BitVec 8) (a : BitVec 8) (l : VL) (st : State) : exec (.vsqrtLong d a l) st = execVsqrtLong d a l st := rfl
@[simp] theorem exec_vrsqLong (d : BitVec 8) (a : BitVec 8) (l : VL) (st : State) : exec (.vrsqLong d a l) st = execVrsqLong d a l st := rfl
@[simp] theorem exec_vexp2Long (d : BitVec 8) (a : BitVec 8) (l : VL) (st : State) : exec (.vexp2Long d a l) st = execVexp2Long d a l st := rfl
@[simp] theorem exec_vlog2Long (d : BitVec 8) (a : BitVec 8) (l : VL) (st : State) : exec (.vlog2Long d a l) st = execVlog2Long d a l st := rfl
@[simp] theorem exec_vsinLong (d : BitVec 8) (a : BitVec 8) (l : VL) (st : State) : exec (.vsinLong d a l) st = execVsinLong d a l st := rfl
@[simp] theorem exec_vcosLong (d : BitVec 8) (a : BitVec 8) (l : VL) (st : State) : exec (.vcosLong d a l) st = execVcosLong d a l st := rfl
@[simp] theorem exec_vrintLong (d : BitVec 8) (a : BitVec 8) (l : VL) (st : State) : exec (.vrintLong d a l) st = execVrintLong d a l st := rfl
@[simp] theorem exec_vandLong (d : BitVec 8) (a : BitVec 8) (b : BitVec 8) (l : VL) (st : State) : exec (.vandLong d a b l) st = execVandLong d a b l st := rfl
@[simp] theorem exec_vorLong (d : BitVec 8) (a : BitVec 8) (b : BitVec 8) (l : VL) (st : State) : exec (.vorLong d a b l) st = execVorLong d a b l st := rfl
@[simp] theorem exec_vxorLong (d : BitVec 8) (a : BitVec 8) (b : BitVec 8) (l : VL) (st : State) : exec (.vxorLong d a b l) st = execVxorLong d a b l st := rfl
@[simp] theorem exec_vandnLong (d : BitVec 8) (a : BitVec 8) (b : BitVec 8) (l : VL) (st : State) : exec (.vandnLong d a b l) st = execVandnLong d a b l st := rfl
@[simp] theorem exec_vshlLong (d : BitVec 8) (a : BitVec 8) (b : BitVec 8) (l : VL) (st : State) : exec (.vshlLong d a b l) st = execVshlLong d a b l st := rfl
@[simp] theorem exec_vshrLong (d : BitVec 8) (a : BitVec 8) (b : BitVec 8) (l : VL) (st : State) : exec (.vshrLong d a b l) st = execVshrLong d a b l st := rfl
@[simp] theorem exec_vmulloLong (d : BitVec 8) (a : BitVec 8) (b : BitVec 8) (l : VL) (st : State) : exec (.vmulloLong d a b l) st = execVmulloLong d a b l st := rfl
@[simp] theorem exec_vmulhiLong (d : BitVec 8) (a : BitVec 8) (b : BitVec 8) (l : VL) (st : State) : exec (.vmulhiLong d a b l) st = execVmulhiLong d a b l st := rfl
@[simp] theorem exec_vpopcLong (d : BitVec 8) (a : BitVec 8) (l : VL) (st : State) : exec (.vpopcLong d a l) st = execVpopcLong d a l st := rfl
@[simp] theorem exec_vclzLong (d : BitVec 8) (a : BitVec 8) (l : VL) (st : State) : exec (.vclzLong d a l) st = execVclzLong d a l st := rfl
@[simp] theorem exec_vcmpEqF32Long (d : BitVec 3) (a : BitVec 8) (b : BitVec 8) (l : VL) (st : State) : exec (.vcmpEqF32Long d a b l) st = execVcmpEqF32Long d a b l st := rfl
@[simp] theorem exec_vcmpNeF32Long (d : BitVec 3) (a : BitVec 8) (b : BitVec 8) (l : VL) (st : State) : exec (.vcmpNeF32Long d a b l) st = execVcmpNeF32Long d a b l st := rfl
@[simp] theorem exec_vcmpLtF32Long (d : BitVec 3) (a : BitVec 8) (b : BitVec 8) (l : VL) (st : State) : exec (.vcmpLtF32Long d a b l) st = execVcmpLtF32Long d a b l st := rfl
@[simp] theorem exec_vcmpLeF32Long (d : BitVec 3) (a : BitVec 8) (b : BitVec 8) (l : VL) (st : State) : exec (.vcmpLeF32Long d a b l) st = execVcmpLeF32Long d a b l st := rfl
@[simp] theorem exec_vcmpGtF32Long (d : BitVec 3) (a : BitVec 8) (b : BitVec 8) (l : VL) (st : State) : exec (.vcmpGtF32Long d a b l) st = execVcmpGtF32Long d a b l st := rfl
@[simp] theorem exec_vcmpGeF32Long (d : BitVec 3) (a : BitVec 8) (b : BitVec 8) (l : VL) (st : State) : exec (.vcmpGeF32Long d a b l) st = execVcmpGeF32Long d a b l st := rfl
@[simp] theorem exec_vcmpEqI32Long (d : BitVec 3) (a : BitVec 8) (b : BitVec 8) (l : VL) (st : State) : exec (.vcmpEqI32Long d a b l) st = execVcmpEqI32Long d a b l st := rfl
@[simp] theorem exec_vcmpNeI32Long (d : BitVec 3) (a : BitVec 8) (b : BitVec 8) (l : VL) (st : State) : exec (.vcmpNeI32Long d a b l) st = execVcmpNeI32Long d a b l st := rfl
@[simp] theorem exec_vcmpLtI32Long (d : BitVec 3) (a : BitVec 8) (b : BitVec 8) (l : VL) (st : State) : exec (.vcmpLtI32Long d a b l) st = execVcmpLtI32Long d a b l st := rfl
@[simp] theorem exec_vcmpLeI32Long (d : BitVec 3) (a : BitVec 8) (b : BitVec 8) (l : VL) (st : State) : exec (.vcmpLeI32Long d a b l) st = execVcmpLeI32Long d a b l st := rfl
@[simp] theorem exec_vcmpGtI32Long (d : BitVec 3) (a : BitVec 8) (b : BitVec 8) (l : VL) (st : State) : exec (.vcmpGtI32Long d a b l) st = execVcmpGtI32Long d a b l st := rfl
@[simp] theorem exec_vcmpGeI32Long (d : BitVec 3) (a : BitVec 8) (b : BitVec 8) (l : VL) (st : State) : exec (.vcmpGeI32Long d a b l) st = execVcmpGeI32Long d a b l st := rfl
@[simp] theorem exec_vcmpLtN32Long (d : BitVec 3) (a : BitVec 8) (b : BitVec 8) (l : VL) (st : State) : exec (.vcmpLtN32Long d a b l) st = execVcmpLtN32Long d a b l st := rfl
@[simp] theorem exec_vcmpLeN32Long (d : BitVec 3) (a : BitVec 8) (b : BitVec 8) (l : VL) (st : State) : exec (.vcmpLeN32Long d a b l) st = execVcmpLeN32Long d a b l st := rfl
@[simp] theorem exec_vcmpGtN32Long (d : BitVec 3) (a : BitVec 8) (b : BitVec 8) (l : VL) (st : State) : exec (.vcmpGtN32Long d a b l) st = execVcmpGtN32Long d a b l st := rfl
@[simp] theorem exec_vcmpGeN32Long (d : BitVec 3) (a : BitVec 8) (b : BitVec 8) (l : VL) (st : State) : exec (.vcmpGeN32Long d a b l) st = execVcmpGeN32Long d a b l st := rfl
@[simp] theorem exec_vpackLong (d : BitVec 8) (a : BitVec 8) (b : BitVec 8) (l : VL) (st : State) : exec (.vpackLong d a b l) st = execVpackLong d a b l st := rfl
@[simp] theorem exec_vunploLong (d : BitVec 8) (a : BitVec 8) (l : VL) (st : State) : exec (.vunploLong d a l) st = execVunploLong d a l st := rfl
@[simp] theorem exec_vunphiLong (d : BitVec 8) (a : BitVec 8) (l : VL) (st : State) : exec (.vunphiLong d a l) st = execVunphiLong d a l st := rfl
@[simp] theorem exec_vmovLong (d : BitVec 8) (a : BitVec 8) (l : VL) (st : State) : exec (.vmovLong d a l) st = execVmovLong d a l st := rfl
@[simp] theorem exec_vbcstLong (d : BitVec 8) (a : BitVec 8) (b : BitVec 7) (l : VL) (st : State) : exec (.vbcstLong d a b l) st = execVbcstLong d a b l st := rfl
@[simp] theorem exec_vshflLong (d : BitVec 8) (a : BitVec 8) (b : BitVec 8) (l : VL) (st : State) : exec (.vshflLong d a b l) st = execVshflLong d a b l st := rfl
@[simp] theorem exec_vbflyLong (d : BitVec 8) (a : BitVec 8) (b : BitVec 7) (l : VL) (st : State) : exec (.vbflyLong d a b l) st = execVbflyLong d a b l st := rfl
@[simp] theorem exec_vlsuLong (d : BitVec 8) (a : BitVec 8) (b : BitVec 7) (l : VL) (st : State) : exec (.vlsuLong d a b l) st = execVlsuLong d a b l st := rfl
@[simp] theorem exec_vlsdLong (d : BitVec 8) (a : BitVec 8) (b : BitVec 7) (l : VL) (st : State) : exec (.vlsdLong d a b l) st = execVlsdLong d a b l st := rfl
@[simp] theorem exec_vscanLong (d : BitVec 8) (a : BitVec 8) (l : VL) (st : State) : exec (.vscanLong d a l) st = execVscanLong d a l st := rfl
@[simp] theorem exec_vdot2Long (d : BitVec 8) (a : BitVec 8) (b : BitVec 8) (l : VL) (st : State) : exec (.vdot2Long d a b l) st = execVdot2Long d a b l st := rfl
@[simp] theorem exec_vlane (d : BitVec 8) (st : State) : exec (.vlane d) st = execVlane d st := rfl
@[simp] theorem exec_vmovs (d : BitVec 8) (a : BitVec 7) (st : State) : exec (.vmovs d a) st = execVmovs d a st := rfl
@[simp] theorem exec_vgetr (d : BitVec 8) (a : BitVec 7) (st : State) : exec (.vgetr d a) st = execVgetr d a st := rfl
@[simp] theorem exec_vsetr (d : BitVec 7) (a : BitVec 8) (st : State) : exec (.vsetr d a) st = execVsetr d a st := rfl
@[simp] theorem exec_vgetl (d : BitVec 7) (a : BitVec 8) (b : BitVec 7) (st : State) : exec (.vgetl d a b) st = execVgetl d a b st := rfl
@[simp] theorem exec_vputl (d : BitVec 8) (a : BitVec 7) (b : BitVec 7) (st : State) : exec (.vputl d a b) st = execVputl d a b st := rfl
@[simp] theorem exec_vpand (d : BitVec 3) (a : BitVec 3) (b : BitVec 3) (st : State) : exec (.vpand d a b) st = execVpand d a b st := rfl
@[simp] theorem exec_vpor (d : BitVec 3) (a : BitVec 3) (b : BitVec 3) (st : State) : exec (.vpor d a b) st = execVpor d a b st := rfl
@[simp] theorem exec_vpxor (d : BitVec 3) (a : BitVec 3) (b : BitVec 3) (st : State) : exec (.vpxor d a b) st = execVpxor d a b st := rfl
@[simp] theorem exec_vpandn (d : BitVec 3) (a : BitVec 3) (b : BitVec 3) (st : State) : exec (.vpandn d a b) st = execVpandn d a b st := rfl
@[simp] theorem exec_vpmov (d : BitVec 3) (a : BitVec 7) (st : State) : exec (.vpmov d a) st = execVpmov d a st := rfl
@[simp] theorem exec_vpget (d : BitVec 7) (a : BitVec 3) (st : State) : exec (.vpget d a) st = execVpget d a st := rfl
@[simp] theorem exec_vvall (d : BitVec 7) (a : BitVec 3) (st : State) : exec (.vvall d a) st = execVvall d a st := rfl
@[simp] theorem exec_vvany (d : BitVec 7) (a : BitVec 3) (st : State) : exec (.vvany d a) st = execVvany d a st := rfl
@[simp] theorem exec_vpcnt (d : BitVec 7) (a : BitVec 3) (st : State) : exec (.vpcnt d a) st = execVpcnt d a st := rfl
@[simp] theorem exec_vmovi (d : BitVec 8) (imm : BitVec 8) (st : State) : exec (.vmovi d imm) st = execVmovi d imm st := rfl
@[simp] theorem exec_vcvt (d : BitVec 8) (a : BitVec 8) (dfmt : BitVec 8) (l : VL) (st : State) : exec (.vcvt d a dfmt l) st = execVcvt d a dfmt l st := rfl
@[simp] theorem exec_sldN8 (d : BitVec 7) (a : BitVec 7) (off : BitVec 9) (st : State) : exec (.sldN8 d a off) st = execSldN8 d a off st := rfl
@[simp] theorem exec_sldI8 (d : BitVec 7) (a : BitVec 7) (off : BitVec 9) (st : State) : exec (.sldI8 d a off) st = execSldI8 d a off st := rfl
@[simp] theorem exec_sldN16 (d : BitVec 7) (a : BitVec 7) (off : BitVec 9) (st : State) : exec (.sldN16 d a off) st = execSldN16 d a off st := rfl
@[simp] theorem exec_sldI16 (d : BitVec 7) (a : BitVec 7) (off : BitVec 9) (st : State) : exec (.sldI16 d a off) st = execSldI16 d a off st := rfl
@[simp] theorem exec_sldN32 (d : BitVec 7) (a : BitVec 7) (off : BitVec 9) (st : State) : exec (.sldN32 d a off) st = execSldN32 d a off st := rfl
@[simp] theorem exec_sldI32 (d : BitVec 7) (a : BitVec 7) (off : BitVec 9) (st : State) : exec (.sldI32 d a off) st = execSldI32 d a off st := rfl
@[simp] theorem exec_sldN64 (d : BitVec 7) (a : BitVec 7) (off : BitVec 9) (st : State) : exec (.sldN64 d a off) st = execSldN64 d a off st := rfl
@[simp] theorem exec_sstN8 (d : BitVec 7) (a : BitVec 7) (off : BitVec 9) (st : State) : exec (.sstN8 d a off) st = execSstN8 d a off st := rfl
@[simp] theorem exec_sstN16 (d : BitVec 7) (a : BitVec 7) (off : BitVec 9) (st : State) : exec (.sstN16 d a off) st = execSstN16 d a off st := rfl
@[simp] theorem exec_sstN32 (d : BitVec 7) (a : BitVec 7) (off : BitVec 9) (st : State) : exec (.sstN32 d a off) st = execSstN32 d a off st := rfl
@[simp] theorem exec_sstN64 (d : BitVec 7) (a : BitVec 7) (off : BitVec 9) (st : State) : exec (.sstN64 d a off) st = execSstN64 d a off st := rfl
@[simp] theorem exec_vld (d : BitVec 8) (a : BitVec 7) (off : BitVec 9) (st : State) : exec (.vld d a off) st = execVld d a off st := rfl
@[simp] theorem exec_vst (d : BitVec 8) (a : BitVec 7) (off : BitVec 9) (st : State) : exec (.vst d a off) st = execVst d a off st := rfl
@[simp] theorem exec_vldx (d : BitVec 8) (a : BitVec 7) (sc : Bool) (x : BitVec 8) (st : State) : exec (.vldx d a sc x) st = execVldx d a sc x st := rfl
@[simp] theorem exec_vstx (d : BitVec 8) (a : BitVec 7) (sc : Bool) (x : BitVec 8) (st : State) : exec (.vstx d a sc x) st = execVstx d a sc x st := rfl
@[simp] theorem exec_vldro (d : BitVec 8) (a : BitVec 7) (off : BitVec 9) (st : State) : exec (.vldro d a off) st = execVldro d a off st := rfl
@[simp] theorem exec_vldrox (d : BitVec 8) (a : BitVec 7) (sc : Bool) (x : BitVec 8) (st : State) : exec (.vldrox d a sc x) st = execVldrox d a sc x st := rfl
@[simp] theorem exec_vldv (d : BitVec 8) (a : BitVec 7) (off : BitVec 9) (st : State) : exec (.vldv d a off) st = execVldv d a off st := rfl
@[simp] theorem exec_vstv (d : BitVec 8) (a : BitVec 7) (off : BitVec 9) (st : State) : exec (.vstv d a off) st = execVstv d a off st := rfl
@[simp] theorem exec_vldvx (d : BitVec 8) (a : BitVec 7) (sc : Bool) (x : BitVec 8) (st : State) : exec (.vldvx d a sc x) st = execVldvx d a sc x st := rfl
@[simp] theorem exec_vstvx (d : BitVec 8) (a : BitVec 7) (sc : Bool) (x : BitVec 8) (st : State) : exec (.vstvx d a sc x) st = execVstvx d a sc x st := rfl
@[simp] theorem exec_vsts (d : BitVec 8) (a : BitVec 7) (off : BitVec 9) (st : State) : exec (.vsts d a off) st = execVsts d a off st := rfl
@[simp] theorem exec_vaadd (d : BitVec 8) (a : BitVec 7) (sc : Bool) (x : BitVec 8) (st : State) : exec (.vaadd d a sc x) st = execVaadd d a sc x st := rfl
@[simp] theorem exec_vamin (d : BitVec 8) (a : BitVec 7) (sc : Bool) (x : BitVec 8) (st : State) : exec (.vamin d a sc x) st = execVamin d a sc x st := rfl
@[simp] theorem exec_vamax (d : BitVec 8) (a : BitVec 7) (sc : Bool) (x : BitVec 8) (st : State) : exec (.vamax d a sc x) st = execVamax d a sc x st := rfl
@[simp] theorem exec_vaand (d : BitVec 8) (a : BitVec 7) (sc : Bool) (x : BitVec 8) (st : State) : exec (.vaand d a sc x) st = execVaand d a sc x st := rfl
@[simp] theorem exec_vaor (d : BitVec 8) (a : BitVec 7) (sc : Bool) (x : BitVec 8) (st : State) : exec (.vaor d a sc x) st = execVaor d a sc x st := rfl
@[simp] theorem exec_vaxor (d : BitVec 8) (a : BitVec 7) (sc : Bool) (x : BitVec 8) (st : State) : exec (.vaxor d a sc x) st = execVaxor d a sc x st := rfl
@[simp] theorem exec_vaxchg (d : BitVec 8) (a : BitVec 7) (sc : Bool) (x : BitVec 8) (st : State) : exec (.vaxchg d a sc x) st = execVaxchg d a sc x st := rfl
@[simp] theorem exec_vacas (d : BitVec 8) (a : BitVec 7) (sc : Bool) (x : BitVec 8) (st : State) : exec (.vacas d a sc x) st = execVacas d a sc x st := rfl
@[simp] theorem exec_vafadd (d : BitVec 8) (a : BitVec 7) (sc : Bool) (x : BitVec 8) (st : State) : exec (.vafadd d a sc x) st = execVafadd d a sc x st := rfl
@[simp] theorem exec_vafmin (d : BitVec 8) (a : BitVec 7) (sc : Bool) (x : BitVec 8) (st : State) : exec (.vafmin d a sc x) st = execVafmin d a sc x st := rfl
@[simp] theorem exec_vafmax (d : BitVec 8) (a : BitVec 7) (sc : Bool) (x : BitVec 8) (st : State) : exec (.vafmax d a sc x) st = execVafmax d a sc x st := rfl
@[simp] theorem exec_vredadd (d : BitVec 8) (a : BitVec 7) (sc : Bool) (x : BitVec 8) (st : State) : exec (.vredadd d a sc x) st = execVredadd d a sc x st := rfl
@[simp] theorem exec_vredmin (d : BitVec 8) (a : BitVec 7) (sc : Bool) (x : BitVec 8) (st : State) : exec (.vredmin d a sc x) st = execVredmin d a sc x st := rfl
@[simp] theorem exec_vredmax (d : BitVec 8) (a : BitVec 7) (sc : Bool) (x : BitVec 8) (st : State) : exec (.vredmax d a sc x) st = execVredmax d a sc x st := rfl
@[simp] theorem exec_vredand (d : BitVec 8) (a : BitVec 7) (sc : Bool) (x : BitVec 8) (st : State) : exec (.vredand d a sc x) st = execVredand d a sc x st := rfl
@[simp] theorem exec_vredor (d : BitVec 8) (a : BitVec 7) (sc : Bool) (x : BitVec 8) (st : State) : exec (.vredor d a sc x) st = execVredor d a sc x st := rfl
@[simp] theorem exec_vredxor (d : BitVec 8) (a : BitVec 7) (sc : Bool) (x : BitVec 8) (st : State) : exec (.vredxor d a sc x) st = execVredxor d a sc x st := rfl
@[simp] theorem exec_vredfadd (d : BitVec 8) (a : BitVec 7) (sc : Bool) (x : BitVec 8) (st : State) : exec (.vredfadd d a sc x) st = execVredfadd d a sc x st := rfl
@[simp] theorem exec_vredfmin (d : BitVec 8) (a : BitVec 7) (sc : Bool) (x : BitVec 8) (st : State) : exec (.vredfmin d a sc x) st = execVredfmin d a sc x st := rfl
@[simp] theorem exec_vredfmax (d : BitVec 8) (a : BitVec 7) (sc : Bool) (x : BitVec 8) (st : State) : exec (.vredfmax d a sc x) st = execVredfmax d a sc x st := rfl
@[simp] theorem exec_sseqadd (d : BitVec 7) (a : BitVec 7) (off : BitVec 9) (st : State) : exec (.sseqadd d a off) st = execSseqadd d a off st := rfl
@[simp] theorem exec_sarwait (d : BitVec 7) (a : BitVec 7) (off : BitVec 9) (st : State) : exec (.sarwait d a off) st = execSarwait d a off st := rfl
@[simp] theorem exec_saadd (d : BitVec 7) (a : BitVec 7) (off : BitVec 9) (st : State) : exec (.saadd d a off) st = execSaadd d a off st := rfl
@[simp] theorem exec_sacas (d : BitVec 7) (a : BitVec 7) (off : BitVec 9) (st : State) : exec (.sacas d a off) st = execSacas d a off st := rfl
@[simp] theorem exec_fence (paths : BitVec 8) (scope : BitVec 3) (st : State) : exec (.fence paths scope) st = execFence paths scope st := rfl
@[simp] theorem exec_fenceAcq (paths : BitVec 8) (scope : BitVec 3) (st : State) : exec (.fenceAcq paths scope) st = execFenceAcq paths scope st := rfl
@[simp] theorem exec_fenceRel (paths : BitVec 8) (scope : BitVec 3) (st : State) : exec (.fenceRel paths scope) st = execFenceRel paths scope st := rfl
@[simp] theorem exec_roinv (st : State) : exec (.roinv) st = execRoinv st := rfl
@[simp] theorem exec_vpref (a : BitVec 7) (off : BitVec 9) (st : State) : exec (.vpref a off) st = execVpref a off st := rfl
@[simp] theorem exec_spref (a : BitVec 7) (off : BitVec 9) (st : State) : exec (.spref a off) st = execSpref a off st := rfl
@[simp] theorem exec_sldN8Long (d : BitVec 7) (a : BitVec 7) (off : BitVec 9) (l : ML) (st : State) : exec (.sldN8Long d a off l) st = execSldN8Long d a off l st := rfl
@[simp] theorem exec_sldI8Long (d : BitVec 7) (a : BitVec 7) (off : BitVec 9) (l : ML) (st : State) : exec (.sldI8Long d a off l) st = execSldI8Long d a off l st := rfl
@[simp] theorem exec_sldN16Long (d : BitVec 7) (a : BitVec 7) (off : BitVec 9) (l : ML) (st : State) : exec (.sldN16Long d a off l) st = execSldN16Long d a off l st := rfl
@[simp] theorem exec_sldI16Long (d : BitVec 7) (a : BitVec 7) (off : BitVec 9) (l : ML) (st : State) : exec (.sldI16Long d a off l) st = execSldI16Long d a off l st := rfl
@[simp] theorem exec_sldN32Long (d : BitVec 7) (a : BitVec 7) (off : BitVec 9) (l : ML) (st : State) : exec (.sldN32Long d a off l) st = execSldN32Long d a off l st := rfl
@[simp] theorem exec_sldI32Long (d : BitVec 7) (a : BitVec 7) (off : BitVec 9) (l : ML) (st : State) : exec (.sldI32Long d a off l) st = execSldI32Long d a off l st := rfl
@[simp] theorem exec_sldN64Long (d : BitVec 7) (a : BitVec 7) (off : BitVec 9) (l : ML) (st : State) : exec (.sldN64Long d a off l) st = execSldN64Long d a off l st := rfl
@[simp] theorem exec_sstN8Long (d : BitVec 7) (a : BitVec 7) (off : BitVec 9) (l : ML) (st : State) : exec (.sstN8Long d a off l) st = execSstN8Long d a off l st := rfl
@[simp] theorem exec_sstN16Long (d : BitVec 7) (a : BitVec 7) (off : BitVec 9) (l : ML) (st : State) : exec (.sstN16Long d a off l) st = execSstN16Long d a off l st := rfl
@[simp] theorem exec_sstN32Long (d : BitVec 7) (a : BitVec 7) (off : BitVec 9) (l : ML) (st : State) : exec (.sstN32Long d a off l) st = execSstN32Long d a off l st := rfl
@[simp] theorem exec_sstN64Long (d : BitVec 7) (a : BitVec 7) (off : BitVec 9) (l : ML) (st : State) : exec (.sstN64Long d a off l) st = execSstN64Long d a off l st := rfl
@[simp] theorem exec_vldLong (d : BitVec 8) (a : BitVec 7) (off : BitVec 9) (l : ML) (st : State) : exec (.vldLong d a off l) st = execVldLong d a off l st := rfl
@[simp] theorem exec_vstLong (d : BitVec 8) (a : BitVec 7) (off : BitVec 9) (l : ML) (st : State) : exec (.vstLong d a off l) st = execVstLong d a off l st := rfl
@[simp] theorem exec_vldxLong (d : BitVec 8) (a : BitVec 7) (sc : Bool) (x : BitVec 8) (l : ML) (st : State) : exec (.vldxLong d a sc x l) st = execVldxLong d a sc x l st := rfl
@[simp] theorem exec_vstxLong (d : BitVec 8) (a : BitVec 7) (sc : Bool) (x : BitVec 8) (l : ML) (st : State) : exec (.vstxLong d a sc x l) st = execVstxLong d a sc x l st := rfl
@[simp] theorem exec_vldroLong (d : BitVec 8) (a : BitVec 7) (off : BitVec 9) (l : ML) (st : State) : exec (.vldroLong d a off l) st = execVldroLong d a off l st := rfl
@[simp] theorem exec_vldroxLong (d : BitVec 8) (a : BitVec 7) (sc : Bool) (x : BitVec 8) (l : ML) (st : State) : exec (.vldroxLong d a sc x l) st = execVldroxLong d a sc x l st := rfl
@[simp] theorem exec_vldvLong (d : BitVec 8) (a : BitVec 7) (off : BitVec 9) (l : ML) (st : State) : exec (.vldvLong d a off l) st = execVldvLong d a off l st := rfl
@[simp] theorem exec_vstvLong (d : BitVec 8) (a : BitVec 7) (off : BitVec 9) (l : ML) (st : State) : exec (.vstvLong d a off l) st = execVstvLong d a off l st := rfl
@[simp] theorem exec_vldvxLong (d : BitVec 8) (a : BitVec 7) (sc : Bool) (x : BitVec 8) (l : ML) (st : State) : exec (.vldvxLong d a sc x l) st = execVldvxLong d a sc x l st := rfl
@[simp] theorem exec_vstvxLong (d : BitVec 8) (a : BitVec 7) (sc : Bool) (x : BitVec 8) (l : ML) (st : State) : exec (.vstvxLong d a sc x l) st = execVstvxLong d a sc x l st := rfl
@[simp] theorem exec_vstsLong (d : BitVec 8) (a : BitVec 7) (off : BitVec 9) (l : ML) (st : State) : exec (.vstsLong d a off l) st = execVstsLong d a off l st := rfl
@[simp] theorem exec_vaaddLong (d : BitVec 8) (a : BitVec 7) (sc : Bool) (x : BitVec 8) (l : ML) (st : State) : exec (.vaaddLong d a sc x l) st = execVaaddLong d a sc x l st := rfl
@[simp] theorem exec_vaminLong (d : BitVec 8) (a : BitVec 7) (sc : Bool) (x : BitVec 8) (l : ML) (st : State) : exec (.vaminLong d a sc x l) st = execVaminLong d a sc x l st := rfl
@[simp] theorem exec_vamaxLong (d : BitVec 8) (a : BitVec 7) (sc : Bool) (x : BitVec 8) (l : ML) (st : State) : exec (.vamaxLong d a sc x l) st = execVamaxLong d a sc x l st := rfl
@[simp] theorem exec_vaandLong (d : BitVec 8) (a : BitVec 7) (sc : Bool) (x : BitVec 8) (l : ML) (st : State) : exec (.vaandLong d a sc x l) st = execVaandLong d a sc x l st := rfl
@[simp] theorem exec_vaorLong (d : BitVec 8) (a : BitVec 7) (sc : Bool) (x : BitVec 8) (l : ML) (st : State) : exec (.vaorLong d a sc x l) st = execVaorLong d a sc x l st := rfl
@[simp] theorem exec_vaxorLong (d : BitVec 8) (a : BitVec 7) (sc : Bool) (x : BitVec 8) (l : ML) (st : State) : exec (.vaxorLong d a sc x l) st = execVaxorLong d a sc x l st := rfl
@[simp] theorem exec_vaxchgLong (d : BitVec 8) (a : BitVec 7) (sc : Bool) (x : BitVec 8) (l : ML) (st : State) : exec (.vaxchgLong d a sc x l) st = execVaxchgLong d a sc x l st := rfl
@[simp] theorem exec_vacasLong (d : BitVec 8) (a : BitVec 7) (sc : Bool) (x : BitVec 8) (l : ML) (st : State) : exec (.vacasLong d a sc x l) st = execVacasLong d a sc x l st := rfl
@[simp] theorem exec_vafaddLong (d : BitVec 8) (a : BitVec 7) (sc : Bool) (x : BitVec 8) (l : ML) (st : State) : exec (.vafaddLong d a sc x l) st = execVafaddLong d a sc x l st := rfl
@[simp] theorem exec_vafminLong (d : BitVec 8) (a : BitVec 7) (sc : Bool) (x : BitVec 8) (l : ML) (st : State) : exec (.vafminLong d a sc x l) st = execVafminLong d a sc x l st := rfl
@[simp] theorem exec_vafmaxLong (d : BitVec 8) (a : BitVec 7) (sc : Bool) (x : BitVec 8) (l : ML) (st : State) : exec (.vafmaxLong d a sc x l) st = execVafmaxLong d a sc x l st := rfl
@[simp] theorem exec_vredaddLong (d : BitVec 8) (a : BitVec 7) (sc : Bool) (x : BitVec 8) (l : ML) (st : State) : exec (.vredaddLong d a sc x l) st = execVredaddLong d a sc x l st := rfl
@[simp] theorem exec_vredminLong (d : BitVec 8) (a : BitVec 7) (sc : Bool) (x : BitVec 8) (l : ML) (st : State) : exec (.vredminLong d a sc x l) st = execVredminLong d a sc x l st := rfl
@[simp] theorem exec_vredmaxLong (d : BitVec 8) (a : BitVec 7) (sc : Bool) (x : BitVec 8) (l : ML) (st : State) : exec (.vredmaxLong d a sc x l) st = execVredmaxLong d a sc x l st := rfl
@[simp] theorem exec_vredandLong (d : BitVec 8) (a : BitVec 7) (sc : Bool) (x : BitVec 8) (l : ML) (st : State) : exec (.vredandLong d a sc x l) st = execVredandLong d a sc x l st := rfl
@[simp] theorem exec_vredorLong (d : BitVec 8) (a : BitVec 7) (sc : Bool) (x : BitVec 8) (l : ML) (st : State) : exec (.vredorLong d a sc x l) st = execVredorLong d a sc x l st := rfl
@[simp] theorem exec_vredxorLong (d : BitVec 8) (a : BitVec 7) (sc : Bool) (x : BitVec 8) (l : ML) (st : State) : exec (.vredxorLong d a sc x l) st = execVredxorLong d a sc x l st := rfl
@[simp] theorem exec_vredfaddLong (d : BitVec 8) (a : BitVec 7) (sc : Bool) (x : BitVec 8) (l : ML) (st : State) : exec (.vredfaddLong d a sc x l) st = execVredfaddLong d a sc x l st := rfl
@[simp] theorem exec_vredfminLong (d : BitVec 8) (a : BitVec 7) (sc : Bool) (x : BitVec 8) (l : ML) (st : State) : exec (.vredfminLong d a sc x l) st = execVredfminLong d a sc x l st := rfl
@[simp] theorem exec_vredfmaxLong (d : BitVec 8) (a : BitVec 7) (sc : Bool) (x : BitVec 8) (l : ML) (st : State) : exec (.vredfmaxLong d a sc x l) st = execVredfmaxLong d a sc x l st := rfl
@[simp] theorem exec_sseqaddLong (d : BitVec 7) (a : BitVec 7) (off : BitVec 9) (l : ML) (st : State) : exec (.sseqaddLong d a off l) st = execSseqaddLong d a off l st := rfl
@[simp] theorem exec_sarwaitLong (d : BitVec 7) (a : BitVec 7) (off : BitVec 9) (l : ML) (st : State) : exec (.sarwaitLong d a off l) st = execSarwaitLong d a off l st := rfl
@[simp] theorem exec_saaddLong (d : BitVec 7) (a : BitVec 7) (off : BitVec 9) (l : ML) (st : State) : exec (.saaddLong d a off l) st = execSaaddLong d a off l st := rfl
@[simp] theorem exec_sacasLong (d : BitVec 7) (a : BitVec 7) (off : BitVec 9) (l : ML) (st : State) : exec (.sacasLong d a off l) st = execSacasLong d a off l st := rfl
@[simp] theorem exec_mma (t : BitVec 7) (x : BitVec 5) (y : BitVec 5) (qn : Bool) (q : BitVec 4) (st : State) : exec (.mma t x y qn q) st = execMma t x y qn q st := rfl
@[simp] theorem exec_mdual (t : BitVec 7) (x : BitVec 5) (y : BitVec 5) (qn : Bool) (q : BitVec 4) (st : State) : exec (.mdual t x y qn q) st = execMdual t x y qn q st := rfl
@[simp] theorem exec_mclr (t : BitVec 7) (qn : Bool) (q : BitVec 4) (st : State) : exec (.mclr t qn q) st = execMclr t qn q st := rfl
@[simp] theorem exec_mdrain (t : BitVec 7) (x : BitVec 5) (qn : Bool) (q : BitVec 4) (st : State) : exec (.mdrain t x qn q) st = execMdrain t x qn q st := rfl
@[simp] theorem exec_mstash (t : BitVec 7) (x : BitVec 5) (qn : Bool) (q : BitVec 4) (st : State) : exec (.mstash t x qn q) st = execMstash t x qn q st := rfl
@[simp] theorem exec_mmaxr (x : BitVec 5) (qn : Bool) (q : BitVec 4) (st : State) : exec (.mmaxr x qn q) st = execMmaxr x qn q st := rfl
@[simp] theorem exec_mmaLong (t : BitVec 7) (x : BitVec 5) (y : BitVec 5) (qn : Bool) (q : BitVec 4) (imm : BitVec 32) (st : State) : exec (.mmaLong t x y qn q imm) st = execMmaLong t x y qn q imm st := rfl
@[simp] theorem exec_mdualLong (t : BitVec 7) (x : BitVec 5) (y : BitVec 5) (qn : Bool) (q : BitVec 4) (imm : BitVec 32) (st : State) : exec (.mdualLong t x y qn q imm) st = execMdualLong t x y qn q imm st := rfl
@[simp] theorem exec_mdrainLong (t : BitVec 7) (x : BitVec 5) (qn : Bool) (q : BitVec 4) (imm : BitVec 32) (st : State) : exec (.mdrainLong t x qn q imm) st = execMdrainLong t x qn q imm st := rfl
@[simp] theorem exec_mstashLong (t : BitVec 7) (x : BitVec 5) (qn : Bool) (q : BitVec 4) (imm : BitVec 32) (st : State) : exec (.mstashLong t x qn q imm) st = execMstashLong t x qn q imm st := rfl
@[simp] theorem exec_mringConfig (n : BitVec 8) (st : State) : exec (.mringConfig n) st = execMringConfig n st := rfl
@[simp] theorem exec_mringAdvance (n : BitVec 8) (st : State) : exec (.mringAdvance n) st = execMringAdvance n st := rfl
@[simp] theorem exec_mtqset (n : BitVec 8) (imm : BitVec 16) (st : State) : exec (.mtqset n imm) st = execMtqset n imm st := rfl
@[simp] theorem exec_mwait (n : BitVec 8) (st : State) : exec (.mwait n) st = execMwait n st := rfl
@[simp] theorem exec_marrive (n : BitVec 8) (st : State) : exec (.marrive n) st = execMarrive n st := rfl
@[simp] theorem exec_mfmt (n : BitVec 8) (st : State) : exec (.mfmt n) st = execMfmt n st := rfl
@[simp] theorem exec_mend (st : State) : exec (.mend) st = execMend st := rfl
@[simp] theorem exec_mreuse (sel : BitVec 3) (st : State) : exec (.mreuse sel) st = execMreuse sel st := rfl
@[simp] theorem exec_mnop (st : State) : exec (.mnop) st = execMnop st := rfl
@[simp] theorem exec_mfmtLong (n : BitVec 8) (imm : BitVec 32) (st : State) : exec (.mfmtLong n imm) st = execMfmtLong n imm st := rfl
@[simp] theorem exec_mdesc (n : BitVec 8) (imm : BitVec 32) (st : State) : exec (.mdesc n imm) st = execMdesc n imm st := rfl
@[simp] theorem exec_mloop (count : BitVec 16) (off : BitVec 32) (st : State) : exec (.mloop count off) st = execMloop count off st := rfl
@[simp] theorem exec_mbra (n : BitVec 8) (inv : Bool) (off : BitVec 32) (st : State) : exec (.mbra n inv off) st = execMbra n inv off st := rfl
@[simp] theorem exec_kemit (d : BitVec 8) (a : BitVec 7) (b : BitVec 7) (st : State) : exec (.kemit d a b) st = execKemit d a b st := rfl
@[simp] theorem exec_srtrun (d : BitVec 7) (a : BitVec 7) (b : BitVec 7) (st : State) : exec (.srtrun d a b) st = execSrtrun d a b st := rfl
@[simp] theorem exec_srtmrg (d : BitVec 7) (a : BitVec 7) (b : BitVec 7) (st : State) : exec (.srtmrg d a b) st = execSrtmrg d a b st := rfl
@[simp] theorem exec_srttab (d : BitVec 7) (a : BitVec 7) (b : BitVec 7) (st : State) : exec (.srttab d a b) st = execSrttab d a b st := rfl
@[simp] theorem exec_vblend (d : BitVec 7) (a : BitVec 7) (b : BitVec 7) (st : State) : exec (.vblend d a b) st = execVblend d a b st := rfl
@[simp] theorem exec_vblendg (d : BitVec 7) (a : BitVec 7) (b : BitVec 7) (st : State) : exec (.vblendg d a b) st = execVblendg d a b st := rfl
@[simp] theorem exec_gdeg (d : BitVec 7) (a : BitVec 7) (b : BitVec 7) (st : State) : exec (.gdeg d a b) st = execGdeg d a b st := rfl
@[simp] theorem exec_gdes (d : BitVec 7) (a : BitVec 7) (b : BitVec 7) (st : State) : exec (.gdes d a b) st = execGdes d a b st := rfl
@[simp] theorem exec_claimPost (d : BitVec 7) (a : BitVec 7) (b : BitVec 7) (st : State) : exec (.claimPost d a b) st = execClaimPost d a b st := rfl
@[simp] theorem exec_claimTake (d : BitVec 7) (a : BitVec 7) (b : BitVec 7) (st : State) : exec (.claimTake d a b) st = execClaimTake d a b st := rfl
@[simp] theorem exec_claimDone (d : BitVec 7) (st : State) : exec (.claimDone d) st = execClaimDone d st := rfl
@[simp] theorem exec_taskPush (d : BitVec 7) (a : BitVec 7) (b : BitVec 7) (st : State) : exec (.taskPush d a b) st = execTaskPush d a b st := rfl
@[simp] theorem exec_taskSpawn (d : BitVec 7) (a : BitVec 7) (b : BitVec 7) (st : State) : exec (.taskSpawn d a b) st = execTaskSpawn d a b st := rfl
@[simp] theorem exec_wpset (d : BitVec 7) (a : BitVec 7) (b : BitVec 7) (st : State) : exec (.wpset d a b) st = execWpset d a b st := rfl
@[simp] theorem exec_wpclr (d : BitVec 7) (a : BitVec 7) (st : State) : exec (.wpclr d a) st = execWpclr d a st := rfl
@[simp] theorem exec_cpy (d : BitVec 7) (a : BitVec 7) (b : BitVec 7) (st : State) : exec (.cpy d a b) st = execCpy d a b st := rfl
@[simp] theorem exec_cpym (d : BitVec 7) (a : BitVec 7) (b : BitVec 7) (st : State) : exec (.cpym d a b) st = execCpym d a b st := rfl
@[simp] theorem exec_cpydrn (d : BitVec 7) (a : BitVec 7) (b : BitVec 7) (st : State) : exec (.cpydrn d a b) st = execCpydrn d a b st := rfl
@[simp] theorem exec_cstage (d : BitVec 7) (a : BitVec 7) (st : State) : exec (.cstage d a) st = execCstage d a st := rfl
@[simp] theorem exec_colRun (d : BitVec 7) (a : BitVec 7) (b : BitVec 7) (st : State) : exec (.colRun d a b) st = execColRun d a b st := rfl
@[simp] theorem exec_colSend (a : BitVec 7) (b : BitVec 7) (st : State) : exec (.colSend a b) st = execColSend a b st := rfl
@[simp] theorem exec_colRed (a : BitVec 7) (b : BitVec 7) (st : State) : exec (.colRed a b) st = execColRed a b st := rfl
@[simp] theorem exec_colStep (st : State) : exec (.colStep) st = execColStep st := rfl
@[simp] theorem exec_colEnd (st : State) : exec (.colEnd) st = execColEnd st := rfl
@[simp] theorem exec_colSig (a : BitVec 7) (b : BitVec 7) (st : State) : exec (.colSig a b) st = execColSig a b st := rfl
@[simp] theorem exec_fblkw (d : BitVec 7) (a : BitVec 7) (b : BitVec 7) (st : State) : exec (.fblkw d a b) st = execFblkw d a b st := rfl
@[simp] theorem exec_fblkr (d : BitVec 7) (a : BitVec 7) (b : BitVec 7) (st : State) : exec (.fblkr d a b) st = execFblkr d a b st := rfl
@[simp] theorem exec_fld (d : BitVec 7) (a : BitVec 7) (st : State) : exec (.fld d a) st = execFld d a st := rfl
@[simp] theorem exec_fst (d : BitVec 7) (a : BitVec 7) (b : BitVec 7) (st : State) : exec (.fst d a b) st = execFst d a b st := rfl
@[simp] theorem exec_stepArrive (d : BitVec 7) (st : State) : exec (.stepArrive d) st = execStepArrive d st := rfl
@[simp] theorem exec_stepWait (d : BitVec 7) (st : State) : exec (.stepWait d) st = execStepWait d st := rfl
@[simp] theorem exec_arrtgt (d : BitVec 7) (a : BitVec 7) (st : State) : exec (.arrtgt d a) st = execArrtgt d a st := rfl
@[simp] theorem exec_lnkdrn (d : BitVec 7) (a : BitVec 7) (st : State) : exec (.lnkdrn d a) st = execLnkdrn d a st := rfl
@[simp] theorem exec_lnkctlRead (d : BitVec 7) (a : BitVec 7) (b : BitVec 7) (st : State) : exec (.lnkctlRead d a b) st = execLnkctlRead d a b st := rfl
@[simp] theorem exec_lnkctlHold (d : BitVec 7) (a : BitVec 7) (b : BitVec 7) (st : State) : exec (.lnkctlHold d a b) st = execLnkctlHold d a b st := rfl
@[simp] theorem exec_lnkctlRelease (d : BitVec 7) (a : BitVec 7) (b : BitVec 7) (st : State) : exec (.lnkctlRelease d a b) st = execLnkctlRelease d a b st := rfl
@[simp] theorem exec_lnkctlDisable (d : BitVec 7) (a : BitVec 7) (b : BitVec 7) (st : State) : exec (.lnkctlDisable d a b) st = execLnkctlDisable d a b st := rfl
@[simp] theorem exec_lnkctlEnable (d : BitVec 7) (a : BitVec 7) (b : BitVec 7) (st : State) : exec (.lnkctlEnable d a b) st = execLnkctlEnable d a b st := rfl
@[simp] theorem exec_kemitLong (d : BitVec 8) (a : BitVec 7) (b : BitVec 7) (l : EL) (st : State) : exec (.kemitLong d a b l) st = execKemitLong d a b l st := rfl
@[simp] theorem exec_srtrunLong (d : BitVec 7) (a : BitVec 7) (b : BitVec 7) (l : EL) (st : State) : exec (.srtrunLong d a b l) st = execSrtrunLong d a b l st := rfl
@[simp] theorem exec_srtmrgLong (d : BitVec 7) (a : BitVec 7) (b : BitVec 7) (l : EL) (st : State) : exec (.srtmrgLong d a b l) st = execSrtmrgLong d a b l st := rfl
@[simp] theorem exec_srttabLong (d : BitVec 7) (a : BitVec 7) (b : BitVec 7) (l : EL) (st : State) : exec (.srttabLong d a b l) st = execSrttabLong d a b l st := rfl
@[simp] theorem exec_vblendLong (d : BitVec 7) (a : BitVec 7) (b : BitVec 7) (l : EL) (st : State) : exec (.vblendLong d a b l) st = execVblendLong d a b l st := rfl
@[simp] theorem exec_vblendgLong (d : BitVec 7) (a : BitVec 7) (b : BitVec 7) (l : EL) (st : State) : exec (.vblendgLong d a b l) st = execVblendgLong d a b l st := rfl
@[simp] theorem exec_gdegLong (d : BitVec 7) (a : BitVec 7) (b : BitVec 7) (l : EL) (st : State) : exec (.gdegLong d a b l) st = execGdegLong d a b l st := rfl
@[simp] theorem exec_gdesLong (d : BitVec 7) (a : BitVec 7) (b : BitVec 7) (l : EL) (st : State) : exec (.gdesLong d a b l) st = execGdesLong d a b l st := rfl
@[simp] theorem exec_claimPostLong (d : BitVec 7) (a : BitVec 7) (b : BitVec 7) (l : EL) (st : State) : exec (.claimPostLong d a b l) st = execClaimPostLong d a b l st := rfl
@[simp] theorem exec_claimTakeLong (d : BitVec 7) (a : BitVec 7) (b : BitVec 7) (l : EL) (st : State) : exec (.claimTakeLong d a b l) st = execClaimTakeLong d a b l st := rfl
@[simp] theorem exec_claimDoneLong (d : BitVec 7) (l : EL) (st : State) : exec (.claimDoneLong d l) st = execClaimDoneLong d l st := rfl
@[simp] theorem exec_taskPushLong (d : BitVec 7) (a : BitVec 7) (b : BitVec 7) (l : EL) (st : State) : exec (.taskPushLong d a b l) st = execTaskPushLong d a b l st := rfl
@[simp] theorem exec_taskSpawnLong (d : BitVec 7) (a : BitVec 7) (b : BitVec 7) (l : EL) (st : State) : exec (.taskSpawnLong d a b l) st = execTaskSpawnLong d a b l st := rfl
@[simp] theorem exec_wpsetLong (d : BitVec 7) (a : BitVec 7) (b : BitVec 7) (l : EL) (st : State) : exec (.wpsetLong d a b l) st = execWpsetLong d a b l st := rfl
@[simp] theorem exec_wpclrLong (d : BitVec 7) (a : BitVec 7) (l : EL) (st : State) : exec (.wpclrLong d a l) st = execWpclrLong d a l st := rfl
@[simp] theorem exec_cpyLong (d : BitVec 7) (a : BitVec 7) (b : BitVec 7) (l : EL) (st : State) : exec (.cpyLong d a b l) st = execCpyLong d a b l st := rfl
@[simp] theorem exec_cpymLong (d : BitVec 7) (a : BitVec 7) (b : BitVec 7) (l : EL) (st : State) : exec (.cpymLong d a b l) st = execCpymLong d a b l st := rfl
@[simp] theorem exec_cpydrnLong (d : BitVec 7) (a : BitVec 7) (b : BitVec 7) (l : EL) (st : State) : exec (.cpydrnLong d a b l) st = execCpydrnLong d a b l st := rfl
@[simp] theorem exec_cstageLong (d : BitVec 7) (a : BitVec 7) (l : EL) (st : State) : exec (.cstageLong d a l) st = execCstageLong d a l st := rfl
@[simp] theorem exec_colRunLong (d : BitVec 7) (a : BitVec 7) (b : BitVec 7) (l : EL) (st : State) : exec (.colRunLong d a b l) st = execColRunLong d a b l st := rfl
@[simp] theorem exec_fblkwLong (d : BitVec 7) (a : BitVec 7) (b : BitVec 7) (l : EL) (st : State) : exec (.fblkwLong d a b l) st = execFblkwLong d a b l st := rfl
@[simp] theorem exec_fblkrLong (d : BitVec 7) (a : BitVec 7) (b : BitVec 7) (l : EL) (st : State) : exec (.fblkrLong d a b l) st = execFblkrLong d a b l st := rfl
@[simp] theorem exec_fldLong (d : BitVec 7) (a : BitVec 7) (l : EL) (st : State) : exec (.fldLong d a l) st = execFldLong d a l st := rfl
@[simp] theorem exec_fstLong (d : BitVec 7) (a : BitVec 7) (b : BitVec 7) (l : EL) (st : State) : exec (.fstLong d a b l) st = execFstLong d a b l st := rfl
@[simp] theorem exec_stepArriveLong (d : BitVec 7) (l : EL) (st : State) : exec (.stepArriveLong d l) st = execStepArriveLong d l st := rfl
@[simp] theorem exec_stepWaitLong (d : BitVec 7) (l : EL) (st : State) : exec (.stepWaitLong d l) st = execStepWaitLong d l st := rfl
@[simp] theorem exec_arrtgtLong (d : BitVec 7) (a : BitVec 7) (l : EL) (st : State) : exec (.arrtgtLong d a l) st = execArrtgtLong d a l st := rfl
@[simp] theorem exec_lnkdrnLong (d : BitVec 7) (a : BitVec 7) (l : EL) (st : State) : exec (.lnkdrnLong d a l) st = execLnkdrnLong d a l st := rfl
@[simp] theorem exec_lnkctlLong (d : BitVec 7) (a : BitVec 7) (b : BitVec 7) (l : EL) (st : State) : exec (.lnkctlLong d a b l) st = execLnkctlLong d a b l st := rfl
@[simp] theorem exec_clauseFetch (st : State) : exec (.clauseFetch) st = execClauseFetch st := rfl
@[simp] theorem exec_clauseWaitMet (st : State) : exec (.clauseWaitMet) st = execClauseWaitMet st := rfl
@[simp] theorem exec_watchdogBudget (st : State) : exec (.watchdogBudget) st = execWatchdogBudget st := rfl
@[simp] theorem exec_watchdogStall (st : State) : exec (.watchdogStall) st = execWatchdogStall st := rfl
@[simp] theorem exec_impreciseFaultDeliver (w : Nat) (st : State) : exec (.impreciseFaultDeliver w) st = execImpreciseFaultDeliver w st := rfl
@[simp] theorem exec_loadDataArrive (op : Nat) (st : State) : exec (.loadDataArrive op) st = execLoadDataArrive op st := rfl
@[simp] theorem exec_atomicResultReturn (op : Nat) (st : State) : exec (.atomicResultReturn op) st = execAtomicResultReturn op st := rfl
@[simp] theorem exec_trackerAck (op : Nat) (st : State) : exec (.trackerAck op) st = execTrackerAck op st := rfl
@[simp] theorem exec_reduceFlushApply (line : Nat) (st : State) : exec (.reduceFlushApply line) st = execReduceFlushApply line st := rfl
@[simp] theorem exec_pageWalk (st : State) : exec (.pageWalk) st = execPageWalk st := rfl
@[simp] theorem exec_binTimerExpire (die : Nat) (node : Nat) (st : State) : exec (.binTimerExpire die node) st = execBinTimerExpire die node st := rfl
@[simp] theorem exec_gangPlace (die : Nat) (st : State) : exec (.gangPlace die) st = execGangPlace die st := rfl
@[simp] theorem exec_gangAge (entry : Nat) (st : State) : exec (.gangAge entry) st = execGangAge entry st := rfl
@[simp] theorem exec_gangBlocking (entry : Nat) (st : State) : exec (.gangBlocking entry) st = execGangBlocking entry st := rfl
@[simp] theorem exec_saveBudgetExpire (gang : Nat) (st : State) : exec (.saveBudgetExpire gang) st = execSaveBudgetExpire gang st := rfl
@[simp] theorem exec_saveWrite (gang : Nat) (st : State) : exec (.saveWrite gang) st = execSaveWrite gang st := rfl
@[simp] theorem exec_gangRestore (gang : Nat) (die : Nat) (st : State) : exec (.gangRestore gang die) st = execGangRestore gang die st := rfl
@[simp] theorem exec_gangRetire (gang : Nat) (st : State) : exec (.gangRetire gang) st = execGangRetire gang st := rfl
@[simp] theorem exec_launchCompletion (launch : Nat) (st : State) : exec (.launchCompletion launch) st = execLaunchCompletion launch st := rfl
@[simp] theorem exec_bodyPhaseStart (launch : Nat) (st : State) : exec (.bodyPhaseStart launch) st = execBodyPhaseStart launch st := rfl
@[simp] theorem exec_bodyWaveForm (launch : Nat) (die : Nat) (st : State) : exec (.bodyWaveForm launch die) st = execBodyWaveForm launch die st := rfl
@[simp] theorem exec_pitchRequest (req : Nat) (st : State) : exec (.pitchRequest req) st = execPitchRequest req st := rfl
@[simp] theorem exec_pitchRelease (rel : Nat) (st : State) : exec (.pitchRelease rel) st = execPitchRelease rel st := rfl
@[simp] theorem exec_sortStart (die : Nat) (st : State) : exec (.sortStart die) st = execSortStart die st := rfl
@[simp] theorem exec_gdeStart (die : Nat) (st : State) : exec (.gdeStart die) st = execGdeStart die st := rfl
@[simp] theorem exec_copyStart (quad : Nat) (st : State) : exec (.copyStart quad) st = execCopyStart quad st := rfl
@[simp] theorem exec_scheduleEntryStart (gang : Nat) (st : State) : exec (.scheduleEntryStart gang) st = execScheduleEntryStart gang st := rfl
@[simp] theorem exec_collectiveStart (st : State) : exec (.collectiveStart) st = execCollectiveStart st := rfl
@[simp] theorem exec_engineCompletion (cmd : Nat) (st : State) : exec (.engineCompletion cmd) st = execEngineCompletion cmd st := rfl
@[simp] theorem exec_chainTailWrite (c : Nat) (tail : BitVec 64) (st : State) : exec (.chainTailWrite c tail) st = execChainTailWrite c tail st := rfl
@[simp] theorem exec_chainEnable (c : Nat) (on : Bool) (st : State) : exec (.chainEnable c on) st = execChainEnable c on st := rfl
@[simp] theorem exec_chainReset (c : Nat) (st : State) : exec (.chainReset c) st = execChainReset c st := rfl
@[simp] theorem exec_chainLaunch (c : Nat) (st : State) : exec (.chainLaunch c) st = execChainLaunch c st := rfl
@[simp] theorem exec_chainSignal (c : Nat) (st : State) : exec (.chainSignal c) st = execChainSignal c st := rfl
@[simp] theorem exec_chainNodedef (c : Nat) (st : State) : exec (.chainNodedef c) st = execChainNodedef c st := rfl
@[simp] theorem exec_chainNop (c : Nat) (st : State) : exec (.chainNop c) st = execChainNop c st := rfl
@[simp] theorem exec_launchPacketSend (go : BitVec 64) (st : State) : exec (.launchPacketSend go) st = execLaunchPacketSend go st := rfl
@[simp] theorem exec_launchPacketAck (st : State) : exec (.launchPacketAck) st = execLaunchPacketAck st := rfl
@[simp] theorem exec_launchPacketReceive (pkt : LaunchPacket) (st : State) : exec (.launchPacketReceive pkt) st = execLaunchPacketReceive pkt st := rfl
@[simp] theorem exec_residencyReportReceive (rep : Report) (st : State) : exec (.residencyReportReceive rep) st = execResidencyReportReceive rep st := rfl
@[simp] theorem exec_pieceArrive (piece : Piece) (st : State) : exec (.pieceArrive piece) st = execPieceArrive piece st := rfl
@[simp] theorem exec_pieceAck (dst : BitVec 16) (step : BitVec 64) (seqNo : Nat) (denied : Bool) (st : State) : exec (.pieceAck dst step seqNo denied) st = execPieceAck dst step seqNo denied st := rfl
@[simp] theorem exec_pieceRetransmit (dst : BitVec 16) (step : BitVec 64) (seqNo : Nat) (st : State) : exec (.pieceRetransmit dst step seqNo) st = execPieceRetransmit dst step seqNo st := rfl
@[simp] theorem exec_remoteReadRequest (req : ReadReq) (st : State) : exec (.remoteReadRequest req) st = execRemoteReadRequest req st := rfl
@[simp] theorem exec_remoteReadReply (req : Nat) (data : List (BitVec 8)) (denied : Bool) (st : State) : exec (.remoteReadReply req data denied) st = execRemoteReadReply req data denied st := rfl
@[simp] theorem exec_vcEscape (glob : Bool) (port : Nat) (crossed : Bool) (st : State) : exec (.vcEscape glob port crossed) st = execVcEscape glob port crossed st := rfl
@[simp] theorem exec_stepArrivedSend (st : State) : exec (.stepArrivedSend) st = execStepArrivedSend st := rfl
@[simp] theorem exec_stepArrivedReceive (dev : BitVec 16) (step : BitVec 64) (msg : Arrived) (st : State) : exec (.stepArrivedReceive dev step msg) st = execStepArrivedReceive dev step msg st := rfl
@[simp] theorem exec_stepLostReceive (dev : BitVec 16) (step : BitVec 64) (st : State) : exec (.stepLostReceive dev step) st = execStepLostReceive dev step st := rfl
@[simp] theorem exec_stepOpenReceive (step : BitVec 64) (st : State) : exec (.stepOpenReceive step) st = execStepOpenReceive step st := rfl
@[simp] theorem exec_stepTimeout (st : State) : exec (.stepTimeout) st = execStepTimeout st := rfl
@[simp] theorem exec_stepCommit (msg : Commit) (st : State) : exec (.stepCommit msg) st = execStepCommit msg st := rfl
@[simp] theorem exec_stepAbort (step : BitVec 64) (st : State) : exec (.stepAbort step) st = execStepAbort step st := rfl
@[simp] theorem exec_stepOutcomeAck (dev : BitVec 16) (step : BitVec 64) (st : State) : exec (.stepOutcomeAck dev step) st = execStepOutcomeAck dev step st := rfl
@[simp] theorem exec_stepApplyComplete (st : State) : exec (.stepApplyComplete) st = execStepApplyComplete st := rfl
@[simp] theorem exec_linkLoss (glob : Bool) (port : Nat) (st : State) : exec (.linkLoss glob port) st = execLinkLoss glob port st := rfl
@[simp] theorem exec_linkLock (glob : Bool) (port : Nat) (nbr : BitVec 16) (st : State) : exec (.linkLock glob port nbr) st = execLinkLock glob port nbr st := rfl
@[simp] theorem exec_noRouteTimeout (dst : BitVec 16) (st : State) : exec (.noRouteTimeout dst) st = execNoRouteTimeout dst st := rfl
@[simp] theorem exec_drainMarkerReturn (cmd : Nat) (st : State) : exec (.drainMarkerReturn cmd) st = execDrainMarkerReturn cmd st := rfl
@[simp] theorem exec_linkEnableTimeout (cmd : Nat) (st : State) : exec (.linkEnableTimeout cmd) st = execLinkEnableTimeout cmd st := rfl
@[simp] theorem exec_podForm (st : State) : exec (.podForm) st = execPodForm st := rfl
@[simp] theorem exec_podDissolve (st : State) : exec (.podDissolve) st = execPodDissolve st := rfl
@[simp] theorem exec_tlbInvalidate (st : State) : exec (.tlbInvalidate) st = execTlbInvalidate st := rfl
@[simp] theorem exec_invalidateComplete (st : State) : exec (.invalidateComplete) st = execInvalidateComplete st := rfl
@[simp] theorem exec_lineRepair (pa : BitVec 64) (st : State) : exec (.lineRepair pa) st = execLineRepair pa st := rfl
@[simp] theorem exec_serviceWrite (v : BitVec 64) (st : State) : exec (.serviceWrite v) st = execServiceWrite v st := rfl
@[simp] theorem exec_thermalResume (st : State) : exec (.thermalResume) st = execThermalResume st := rfl
@[simp] theorem exec_evstatClear (m : BitVec 64) (st : State) : exec (.evstatClear m) st = execEvstatClear m st := rfl
@[simp] theorem exec_wpclearHandle (h : BitVec 8) (st : State) : exec (.wpclearHandle h) st = execWpclearHandle h st := rfl
@[simp] theorem exec_wpclearAsid (asid : BitVec 16) (st : State) : exec (.wpclearAsid asid) st = execWpclearAsid asid st := rfl
@[simp] theorem exec_wpclearAll (st : State) : exec (.wpclearAll) st = execWpclearAll st := rfl
@[simp] theorem exec_routeWrite (group : Nat) (v : BitVec 64) (st : State) : exec (.routeWrite group v) st = execRouteWrite group v st := rfl
@[simp] theorem exec_checkpointGo (st : State) : exec (.checkpointGo) st = execCheckpointGo st := rfl
@[simp] theorem exec_checkpointDone (err : Bool) (st : State) : exec (.checkpointDone err) st = execCheckpointDone err st := rfl
@[simp] theorem exec_msixVectorUnmask (vec : Nat) (st : State) : exec (.msixVectorUnmask vec) st = execMsixVectorUnmask vec st := rfl
@[simp] theorem exec_registerWrite (off : Nat) (v : BitVec 64) (st : State) : exec (.registerWrite off v) st = execRegisterWrite off v st := rfl
@[simp] theorem exec_deviceReset (st : State) : exec (.deviceReset) st = execDeviceReset st := rfl
@[simp] theorem exec_powerStateEnter (st : State) : exec (.powerStateEnter) st = execPowerStateEnter st := rfl
@[simp] theorem exec_powerWake (st : State) : exec (.powerWake) st = execPowerWake st := rfl
@[simp] theorem exec_powerExitComplete (st : State) : exec (.powerExitComplete) st = execPowerExitComplete st := rfl
@[simp] theorem exec_thermalTrip (die : Nat) (st : State) : exec (.thermalTrip die) st = execThermalTrip die st := rfl
@[simp] theorem exec_thermalHoldEnd (st : State) : exec (.thermalHoldEnd) st = execThermalHoldEnd st := rfl
@[simp] theorem exec_unassignedOpcode (w : BitVec 32) (st : State) : exec (.unassignedOpcode w) st = execUnassignedOpcode w st := rfl
@[simp] theorem exec_drainPerformed (op : Nat) (st : State) : exec (.drainPerformed op) st = execDrainPerformed op st := rfl
@[simp] theorem exec_stepOutcomeResend (step : BitVec 64) (st : State) : exec (.stepOutcomeResend step) st = execStepOutcomeResend step st := rfl
@[simp] theorem exec_arithmeticClockChange (mhz : Nat) (st : State) : exec (.arithmeticClockChange mhz) st = execArithmeticClockChange mhz st := rfl

end Sys2Proof.Machine
end

