-- ==== Sys2Proof/Laws/Map.lean ====
section
/-!
SUPPORT. The basic laws of the sparse tables: reading after writing, at the same key and at another.
-/
namespace Sys2Proof.Map

@[simp] theorem get_set_same {α : Type} (d : α) (m : Map α) (k : Nat) (v : α) : (Map.set m k v).get d k = v := by
  induction m with
  | nil => simp [Map.set, Map.get]
  | cons p m ih =>
    obtain ⟨i, u⟩ := p
    simp only [Map.set]
    split
    · simp [Map.get]
    · split
      · simp [Map.get]
      · rename_i h
        simp [Map.get, h, ih]

theorem get_set_other {α : Type} (d : α) (m : Map α) (k j : Nat) (v : α) (h : j ≠ k) : (Map.set m k v).get d j = Map.get d m j := by
  induction m with
  | nil => simp [Map.set, Map.get, Ne.symm h]
  | cons p m ih =>
    obtain ⟨i, u⟩ := p
    simp only [Map.set]
    split
    · simp [Map.get, Ne.symm h]
    · split
      · rename_i e
        subst e
        simp [Map.get, Ne.symm h]
      · simp [Map.get, ih]

@[simp] theorem set_set {α : Type} (m : Map α) (k : Nat) (u v : α) : Map.set (Map.set m k u) k v = Map.set m k v := by
  induction m with
  | nil => simp [Map.set]
  | cons p m ih =>
    obtain ⟨i, w⟩ := p
    simp only [Map.set]
    split
    · simp [Map.set]
    · split
      · simp [Map.set]
      · rename_i h1 h2
        simp [Map.set, h1, h2, ih]

@[simp] theorem find_set_same {α : Type} (m : Map α) (k : Nat) (v : α) : (Map.set m k v).find k = some v := by
  induction m with
  | nil => simp [Map.set, Map.find]
  | cons p m ih =>
    obtain ⟨i, u⟩ := p
    simp only [Map.set]
    split
    · simp [Map.find]
    · split
      · simp [Map.find]
      · rename_i h
        simp [Map.find, h, ih]

theorem find_set_other {α : Type} (m : Map α) (k j : Nat) (v : α) (h : j ≠ k) : (Map.set m k v).find j = Map.find m j := by
  induction m with
  | nil => simp [Map.set, Map.find, Ne.symm h]
  | cons p m ih =>
    obtain ⟨i, u⟩ := p
    simp only [Map.set]
    split
    · simp [Map.find, Ne.symm h]
    · split
      · rename_i e
        subst e
        simp [Map.find, Ne.symm h]
      · simp [Map.find, ih]

/-- `get` is `find` with the default for a key that is not listed. -/
theorem get_eq_find {α : Type} (d : α) (m : Map α) (k : Nat) : Map.get d m k = (Map.find m k).getD d := by
  induction m with
  | nil => rfl
  | cons p m ih =>
    obtain ⟨i, u⟩ := p
    simp only [Map.get, Map.find]
    split
    · rfl
    · exact ih

end Sys2Proof.Map
end

