-- ==== Sys2Proof/Laws/Issue.lean ====
section
/-!
SUPPORT. What the shared issue operations answer: the effect of an instruction whose checks pass, ILLEGAL, or a wait.
-/
namespace Sys2Proof.Machine

/-- An issue whose checks pass is the instruction's effect. -/
theorem State.issue_go {s : State} {c : Check} (hs : s.wave.status = .live) (hp : s.wave.phase = .issue) (hc : c = .go)
    (eff : State → State) : s.issue c eff = eff s := by
  simp [State.issue, Wave.canIssue, hs, hp, hc]

theorem State.issue_illegal {s : State} {c : Check} (hs : s.wave.status = .live) (hp : s.wave.phase = .issue) (hc : c = .illegal)
    (eff : State → State) : s.issue c eff = s.illegal := by
  simp [State.issue, Wave.canIssue, hs, hp, hc]

theorem State.issue_block {s : State} {c : Check} (hs : s.wave.status = .live) (hp : s.wave.phase = .issue) (hc : c = .block)
    (eff : State → State) : s.issue c eff = s.block := by
  simp [State.issue, Wave.canIssue, hs, hp, hc]

theorem State.issue_hold {s : State} {c : Check} (hs : s.wave.status = .live) (hp : s.wave.phase = .issue) (hc : c = .hold)
    (eff : State → State) : s.issue c eff = s.hold := by
  simp [State.issue, Wave.canIssue, hs, hp, hc]

/-- The check of scalar registers that are owned and full passes. -/
theorem Wave.scalarCheck_go {w : Wave} {srcs dsts : List Nat} (h : ∀ n ∈ srcs ++ dsts, n < w.sregN ∧ w.sFull n = true) :
    w.scalarCheck srcs dsts = .go := by
  have ha : w.sOk (srcs ++ dsts) = true := by
    simp only [Wave.sOk, List.all_eq_true]
    intro n hn
    simpa using (h n hn).1
  have hb : w.sReady (srcs ++ dsts) = true := by
    simp only [Wave.sReady, List.all_eq_true]
    intro n hn
    exact (h n hn).2
  simp [Wave.scalarCheck, Check.need, Check.ready, Check.andThen, ha, hb]

/-- A scalar register beyond the allocation is ILLEGAL. -/
theorem Wave.scalarCheck_illegal {w : Wave} {srcs dsts : List Nat} (h : ∃ n ∈ srcs ++ dsts, w.sregN ≤ n) :
    w.scalarCheck srcs dsts = .illegal := by
  have ha : w.sOk (srcs ++ dsts) = false := by
    obtain ⟨n, hn, hl⟩ := h
    simp only [Wave.sOk, List.all_eq_false]
    exact ⟨n, hn, by simpa using hl⟩
  simp [Wave.scalarCheck, Check.need, Check.andThen, ha]

/-- An owned scalar register that is empty makes the instruction wait. -/
theorem Wave.scalarCheck_block {w : Wave} {srcs dsts : List Nat} (ho : ∀ n ∈ srcs ++ dsts, n < w.sregN)
    (h : ∃ n ∈ srcs ++ dsts, w.sFull n = false) : w.scalarCheck srcs dsts = .block := by
  have ha : w.sOk (srcs ++ dsts) = true := by
    simp only [Wave.sOk, List.all_eq_true]
    intro n hn
    simpa using ho n hn
  have hb : w.sReady (srcs ++ dsts) = false := by
    obtain ⟨n, hn, hl⟩ := h
    simp only [Wave.sReady, List.all_eq_false]
    exact ⟨n, hn, by simp [hl]⟩
  simp [Wave.scalarCheck, Check.need, Check.ready, Check.andThen, ha, hb]

/-- A scalar form that has its registers does its effect on the wave and goes on. -/
theorem State.scalar_next {s : State} (hs : s.wave.status = .live) (hp : s.wave.phase = .issue) {srcs dsts : List Nat}
    (h : ∀ n ∈ srcs ++ dsts, n < s.wave.sregN ∧ s.wave.sFull n = true) (n : Nat) (eff : Wave → Wave) :
    s.scalar srcs dsts n eff = .next (s.setWave ((eff s.wave).retire n)) := by
  simp [State.scalar, State.issue_go hs hp (Wave.scalarCheck_go h), State.modWave]

/-- A control transfer that ends its clause and has its registers does its effect. -/
theorem State.transfer_next {s : State} (hs : s.wave.status = .live) (hp : s.wave.phase = .issue) {srcs dsts : List Nat} {n : Nat}
    (hl : hdrCount s.wave.hdr ≤ s.wave.idx + n) (h : ∀ n ∈ srcs ++ dsts, n < s.wave.sregN ∧ s.wave.sFull n = true)
    (eff : State → State) : s.transfer srcs dsts n eff = .next (eff s) := by
  have hc : (Check.need (s.wave.endsClause n)).andThen (s.wave.scalarCheck srcs dsts) = .go := by
    simp [Wave.endsClause, hl, Check.need, Check.andThen, Wave.scalarCheck_go h]
  simp [State.transfer, State.issue_go hs hp hc]

/-- One that does not end its clause is ILLEGAL. -/
theorem State.transfer_illegal {s : State} (hs : s.wave.status = .live) (hp : s.wave.phase = .issue) {srcs dsts : List Nat} {n : Nat}
    (hl : ¬ hdrCount s.wave.hdr ≤ s.wave.idx + n) (eff : State → State) : s.transfer srcs dsts n eff = .next s.illegal := by
  have hc : (Check.need (s.wave.endsClause n)).andThen (s.wave.scalarCheck srcs dsts) = .illegal := by
    simp [Wave.endsClause, hl, Check.need, Check.andThen]
  simp [State.transfer, State.issue_illegal hs hp hc]

/-- The registers of an operand are owned and full. -/
def Wave.has (w : Wave) (o : Opnd) : Prop := ∀ n ∈ o.regs, n < (if o.vec then w.vregN else w.sregN) ∧ w.full o.vec n = true

theorem Wave.emptyCheck_go {w : Wave} : ∀ {os : List Opnd}, (∀ o ∈ os, w.has o) → w.emptyCheck os = .go
  | [], _ => rfl
  | o :: os, h => by
    have ih : w.emptyCheck os = .go := Wave.emptyCheck_go fun o ho => h o (List.mem_cons_of_mem _ ho)
    simp only [Wave.emptyCheck]
    split
    · exact ih
    · have : o.regs.find? (fun n => !w.full o.vec n) = none := by
        simp only [List.find?_eq_none]
        intro n hn
        simp [((h o List.mem_cons_self) n hn).2]
      simp [this, ih]

/-- The check of operands that the wave has passes. -/
theorem Wave.opndCheck_go {w : Wave} {srcs dsts : List Opnd} (h : ∀ o ∈ srcs ++ dsts, w.has o) : w.opndCheck true srcs dsts = .go := by
  have h1 : (srcs ++ dsts).all w.opndOk = true := by
    simp only [List.all_eq_true]
    intro o ho
    simp only [Wave.opndOk, List.all_eq_true]
    intro n hn
    simpa using ((h o ho) n hn).1
  have h2 : w.emptyCheck srcs = .go := Wave.emptyCheck_go fun o ho => h o (List.mem_append_left _ ho)
  have h3 : w.allReady (srcs ++ dsts) = true := by
    simp only [Wave.allReady, List.all_eq_true]
    intro o ho n hn
    exact ((h o ho) n hn).2
  simp [Wave.opndCheck, Check.need, Check.ready, Check.andThen, h1, h2, h3]

/-- Operands that are not legal are ILLEGAL. -/
theorem Wave.opndCheck_illegal {w : Wave} {srcs dsts : List Opnd} : w.opndCheck false srcs dsts = .illegal := by
  simp [Wave.opndCheck, Check.need, Check.andThen]

/-- A vector form that has its operands does its effect on the wave and goes on. -/
theorem State.vector_next {s : State} (hs : s.wave.status = .live) (hp : s.wave.phase = .issue) (hh : s.wave.inHandler = false)
    {x : VArgs} {srcs dsts : List Opnd} (h : ∀ o ∈ srcs ++ dsts, s.wave.has o) (eff : Wave → Wave) :
    s.vector x true srcs dsts eff = .next (s.setWave ((eff s.wave).retire x.len)) := by
  have : s.wave.opndCheck (true && !s.wave.inHandler) srcs dsts = .go := by simp [hh, Wave.opndCheck_go h]
  unfold State.vector
  rw [State.issue_go hs hp this]
  rfl

/-- In a trap handler it is ILLEGAL (R198). -/
theorem State.vector_handler {s : State} (hs : s.wave.status = .live) (hp : s.wave.phase = .issue) (hh : s.wave.inHandler = true)
    (x : VArgs) (legal : Bool) (srcs dsts : List Opnd) (eff : Wave → Wave) : s.vector x legal srcs dsts eff = .next s.illegal := by
  have : s.wave.opndCheck (legal && !s.wave.inHandler) srcs dsts = .illegal := by simp [hh, Wave.opndCheck_illegal]
  unfold State.vector
  rw [State.issue_illegal hs hp this]

/-- An engine form whose scope is assigned does its effect where it has its registers. -/
theorem State.engine_next {s : State} (hs : s.wave.status = .live) (hp : s.wave.phase = .issue) (hh : s.wave.inHandler = false)
    {x : EArgs} (hx : x.scope ≤ 4) {srcs dsts : List Opnd} (h : ∀ o ∈ srcs ++ dsts, s.wave.has o) (eff : State → State) :
    s.engine x true srcs dsts eff = .next (eff s) := by
  have : s.wave.opndCheck (true && decide (x.scope ≤ 4) && !s.wave.inHandler) srcs dsts = .go := by simp [hh, hx, Wave.opndCheck_go h]
  unfold State.engine
  rw [State.issue_go hs hp this]

/-- In a trap handler it is ILLEGAL (R198, R346). -/
theorem State.engine_handler {s : State} (hs : s.wave.status = .live) (hp : s.wave.phase = .issue) (hh : s.wave.inHandler = true)
    (x : EArgs) (legal : Bool) (srcs dsts : List Opnd) (eff : State → State) : s.engine x legal srcs dsts eff = .next s.illegal := by
  have : s.wave.opndCheck (legal && decide (x.scope ≤ 4) && !s.wave.inHandler) srcs dsts = .illegal := by simp [hh, Wave.opndCheck_illegal]
  unfold State.engine
  rw [State.issue_illegal hs hp this]

end Sys2Proof.Machine
end

