-- ==== Sys2Proof/Laws/PerInstr.lean ====
section
/-!
SUPPORT. The round trip of decoding, one lemma per constructor of `Instr`: an instruction that has a class and is canonical
decodes from its own words, in its own class, to itself.
-/
namespace Sys2Proof

/-- The fields of the formats whose operands of 7 or 3 bits stand in a field of 8. -/
theorem bits_in8 {lo n : Nat} {w : BitVec 32} {x : BitVec n} (h : bits lo 8 w = in8 x) (hn : n ≤ 8) : bits lo n w = x := by
  have e : bits lo n w = (bits lo 8 w).extractLsb' 0 n := by
    ext i hi
    simp [show i < 8 by omega]
  rw [e, h, in8_low hn]

@[simp] theorem encVC_d_in8 {n : Nat} (op a b : BitVec 8) (x : BitVec n) (hn : n ≤ 8) : bits 16 n (encVC op (in8 x) a b) = x :=
  bits_in8 (encVC_d op (in8 x) a b) hn
@[simp] theorem encVC_a_in8 {n : Nat} (op d b : BitVec 8) (x : BitVec n) (hn : n ≤ 8) : bits 8 n (encVC op d (in8 x) b) = x :=
  bits_in8 (encVC_a op d (in8 x) b) hn
@[simp] theorem encVC_b_in8 {n : Nat} (op d a : BitVec 8) (x : BitVec n) (hn : n ≤ 8) : bits 0 n (encVC op d a (in8 x)) = x :=
  bits_in8 (encVC_b op d a (in8 x)) hn
@[simp] theorem encMD_d_in8 {n : Nat} (op : BitVec 8) (a : BitVec 7) (off : BitVec 9) (x : BitVec n) (hn : n ≤ 8) : bits 16 n (encMD op (in8 x) a off) = x :=
  bits_in8 (encMD_d op (in8 x) a off) hn
@[simp] theorem encEC_d_in8 {n : Nat} (op : BitVec 8) (a b : BitVec 7) (x : BitVec n) (hn : n ≤ 8) : bits 16 n (encEC op (in8 x) a b) = x :=
  bits_in8 (encEC_d op (in8 x) a b) hn
theorem encMK_low (op n : BitVec 8) (imm : BitVec 16) (lo k : Nat) (h : lo + k ≤ 16) : bits lo k (encMK op n imm) = imm.extractLsb' lo k :=
  bits_lo (op ++ n) imm lo k h
theorem encMK_flag (op n : BitVec 8) (imm : BitVec 16) : flag 0 (encMK op n imm) = imm.getLsbD 0 := by
  show (op ++ n ++ imm).getLsbD 0 = imm.getLsbD 0
  rw [BitVec.getLsbD_append]; rfl

@[simp] theorem encMX_sc_getElem (op d : BitVec 8) (a : BitVec 7) (sc : Bool) (x : BitVec 8) : (encMX op d a sc x)[8] = sc := by
  rw [← BitVec.getLsbD_eq_getElem]; exact encMX_sc ..
@[simp] theorem encMT_qn_getElem (op : BitVec 8) (t : BitVec 7) (x y : BitVec 5) (qn : Bool) (q : BitVec 4) :
    (encMT op t x y qn q)[6] = qn := by rw [← BitVec.getLsbD_eq_getElem]; exact encMT_qn ..

theorem encPhint_op (nm : BitVec 2) (ap : BitVec 6) (s : BitVec 16) : bits 24 8 ((0x89 : BitVec 8) ++ nm ++ ap ++ s) = 0x89 :=
  (bits_hi ((0x89 : BitVec 8) ++ nm ++ ap) s 8 8).trans ((bits_hi ((0x89 : BitVec 8) ++ nm) ap 2 8).trans
    ((bits_hi (0x89 : BitVec 8) nm 0 8).trans (bits_all _)))
theorem encPhint_nm (nm : BitVec 2) (ap : BitVec 6) (s : BitVec 16) : bits 22 2 ((0x89 : BitVec 8) ++ nm ++ ap ++ s) = nm :=
  (bits_hi ((0x89 : BitVec 8) ++ nm ++ ap) s 6 2).trans ((bits_hi ((0x89 : BitVec 8) ++ nm) ap 0 2).trans
    ((bits_lo (0x89 : BitVec 8) nm 0 2 (by decide)).trans (bits_all _)))
theorem encPhint_ap (nm : BitVec 2) (ap : BitVec 6) (s : BitVec 16) : bits 16 6 ((0x89 : BitVec 8) ++ nm ++ ap ++ s) = ap :=
  (bits_hi ((0x89 : BitVec 8) ++ nm ++ ap) s 0 6).trans ((bits_lo ((0x89 : BitVec 8) ++ nm) ap 0 6 (by decide)).trans (bits_all _))
theorem encPhint_s (nm : BitVec 2) (ap : BitVec 6) (s : BitVec 16) : bits 0 16 ((0x89 : BitVec 8) ++ nm ++ ap ++ s) = s :=
  (bits_lo ((0x89 : BitVec 8) ++ nm ++ ap) s 0 16 (by decide)).trans (bits_all _)

theorem encHint_op (lo : BitVec 4) : bits 24 8 ((0xf : BitVec 4) ++ lo ++ (0 : BitVec 24)) = (0xf : BitVec 4) ++ lo :=
  (bits_hi ((0xf : BitVec 4) ++ lo) (0 : BitVec 24) 0 8).trans (bits_all _)
theorem encHint_lo (lo : BitVec 4) : bits 24 4 ((0xf : BitVec 4) ++ lo ++ (0 : BitVec 24)) = lo :=
  (bits_hi ((0xf : BitVec 4) ++ lo) (0 : BitVec 24) 0 4).trans ((bits_lo (0xf : BitVec 4) lo 0 4 (by decide)).trans (bits_all _))

/-- A word whose opcode is that of a one-word form decodes by its row. -/
theorem decode_one {cls : Nat} {w : BitVec 32} {c : BitVec 8} {r : OpRow} {i : Instr} (w2 : BitVec 32) (h : bits 24 8 w = c)
    (hc : c.toNat < 0x80) (hf : opFind (opRows cls) (c.toNat % 128) = some r) (hi : r.one w = i) : decode cls w w2 = i := by
  have h0 : ¬ 0xf0 ≤ opOf w := by show ¬ 0xf0 ≤ (bits 24 8 w).toNat; rw [h]; omega
  have h1 : opOf w < 0x80 := by show (bits 24 8 w).toNat < 0x80; rw [h]; exact hc
  have h2 : opFind (opRows cls) (opOf w % 128) = some r := by show opFind _ ((bits 24 8 w).toNat % 128) = _; rw [h]; exact hf
  unfold decode
  rw [if_neg h0, h2]
  dsimp only
  rw [if_pos h1, hi]

/-- A word whose opcode is that of a two-word form decodes by its row. -/
theorem decode_two {cls : Nat} {w w2 : BitVec 32} {c : BitVec 8} {r : OpRow} {i : Instr} (h : bits 24 8 w = c)
    (hc : 0x80 ≤ c.toNat ∧ c.toNat < 0xf0) (hf : opFind (opRows cls) (c.toNat % 128) = some r) (hi : r.two w w2 = i) :
    decode cls w w2 = i := by
  have h0 : ¬ 0xf0 ≤ opOf w := by show ¬ 0xf0 ≤ (bits 24 8 w).toNat; rw [h]; omega
  have h1 : ¬ opOf w < 0x80 := by show ¬ (bits 24 8 w).toNat < 0x80; rw [h]; omega
  have h2 : opFind (opRows cls) (opOf w % 128) = some r := by show opFind _ ((bits 24 8 w).toNat % 128) = _; rw [h]; exact hf
  unfold decode
  rw [if_neg h0, h2]
  dsimp only
  rw [if_neg h1, hi]

theorem top_toNat (w : BitVec 32) : (bits 24 8 w).toNat = w.toNat / 2 ^ 24 := by
  have : w.toNat < 2 ^ 32 := w.isLt
  simp only [BitVec.extractLsb'_toNat, Nat.shiftRight_eq_div_pow]
  omega

theorem opWords_one {w : BitVec 32} {c : BitVec 8} (h : bits 24 8 w = c) (hc : c.toNat < 0x80 ∨ 0xf0 ≤ c.toNat) :
    Machine.opWords w = 1 := by
  unfold Machine.opWords
  rw [← top_toNat, h, if_neg]
  omega

theorem opWords_two {w : BitVec 32} {c : BitVec 8} (h : bits 24 8 w = c) (hc : 0x80 ≤ c.toNat ∧ c.toNat < 0xf0) :
    Machine.opWords w = 2 := by
  unfold Machine.opWords
  rw [← top_toNat, h, if_pos hc]

namespace Laws.RoundTrip
open Machine

/-- An instruction with a class, canonical, decodes from its own words to itself, and its first word says how many they are. -/
def Statement (i : Instr) : Prop :=
  ∀ c, i.cls = some c → i.canonical = true →
    (∃ w, encode i = [w] ∧ opWords w = 1 ∧ ∀ w2, decode c w w2 = i) ∨
      (∃ w w2, encode i = [w, w2] ∧ opWords w = 2 ∧ decode c w w2 = i)

theorem of_one {i : Instr} {k : Nat} {w : BitVec 32} (hk : i.cls = some k) (he : encode i = [w]) (hl : opWords w = 1)
    (hd : ∀ w2, decode k w w2 = i) : Statement i := by
  intro c hc _
  rw [hk] at hc
  exact .inl ⟨w, he, hl, by rwa [← Option.some.inj hc]⟩

theorem of_two {i : Instr} {k : Nat} {w w2 : BitVec 32} (hk : i.cls = some k) (he : encode i = [w, w2]) (hl : opWords w = 2)
    (hd : decode k w w2 = i) : Statement i := by
  intro c hc _
  rw [hk] at hc
  exact .inr ⟨w, w2, he, hl, by rwa [← Option.some.inj hc]⟩

theorem of_none {i : Instr} (h : i.cls = none) : Statement i := by
  intro c hc
  rw [h] at hc
  nomatch hc

theorem of_alias {i : Instr} (h : i.canonical = false) : Statement i := by
  intro c _ hc
  rw [h] at hc
  nomatch hc

theorem sadd (d : BitVec 7) (a : BitVec 7) (b : BitVec 7) (t : BitVec 3) : Statement (.sadd d a b t) :=
  of_one rfl rfl (opWords_one (encSC_op ..) (by decide)) (fun w2 => decode_one w2 (encSC_op ..) (by decide) rfl (by simp))
theorem ssub (d : BitVec 7) (a : BitVec 7) (b : BitVec 7) (t : BitVec 3) : Statement (.ssub d a b t) :=
  of_one rfl rfl (opWords_one (encSC_op ..) (by decide)) (fun w2 => decode_one w2 (encSC_op ..) (by decide) rfl (by simp))
theorem smul (d : BitVec 7) (a : BitVec 7) (b : BitVec 7) (t : BitVec 3) : Statement (.smul d a b t) :=
  of_one rfl rfl (opWords_one (encSC_op ..) (by decide)) (fun w2 => decode_one w2 (encSC_op ..) (by decide) rfl (by simp))
theorem smulh (d : BitVec 7) (a : BitVec 7) (b : BitVec 7) (t : BitVec 3) : Statement (.smulh d a b t) :=
  of_one rfl rfl (opWords_one (encSC_op ..) (by decide)) (fun w2 => decode_one w2 (encSC_op ..) (by decide) rfl (by simp))
theorem sdiv (d : BitVec 7) (a : BitVec 7) (b : BitVec 7) (t : BitVec 3) : Statement (.sdiv d a b t) :=
  of_one rfl rfl (opWords_one (encSC_op ..) (by decide)) (fun w2 => decode_one w2 (encSC_op ..) (by decide) rfl (by simp))
theorem srem (d : BitVec 7) (a : BitVec 7) (b : BitVec 7) (t : BitVec 3) : Statement (.srem d a b t) :=
  of_one rfl rfl (opWords_one (encSC_op ..) (by decide)) (fun w2 => decode_one w2 (encSC_op ..) (by decide) rfl (by simp))
theorem smin (d : BitVec 7) (a : BitVec 7) (b : BitVec 7) (t : BitVec 3) : Statement (.smin d a b t) :=
  of_one rfl rfl (opWords_one (encSC_op ..) (by decide)) (fun w2 => decode_one w2 (encSC_op ..) (by decide) rfl (by simp))
theorem smax (d : BitVec 7) (a : BitVec 7) (b : BitVec 7) (t : BitVec 3) : Statement (.smax d a b t) :=
  of_one rfl rfl (opWords_one (encSC_op ..) (by decide)) (fun w2 => decode_one w2 (encSC_op ..) (by decide) rfl (by simp))
theorem sand (d : BitVec 7) (a : BitVec 7) (b : BitVec 7) (t : BitVec 3) : Statement (.sand d a b t) :=
  of_one rfl rfl (opWords_one (encSC_op ..) (by decide)) (fun w2 => decode_one w2 (encSC_op ..) (by decide) rfl (by simp))
theorem sor (d : BitVec 7) (a : BitVec 7) (b : BitVec 7) (t : BitVec 3) : Statement (.sor d a b t) :=
  of_one rfl rfl (opWords_one (encSC_op ..) (by decide)) (fun w2 => decode_one w2 (encSC_op ..) (by decide) rfl (by simp))
theorem sxor (d : BitVec 7) (a : BitVec 7) (b : BitVec 7) (t : BitVec 3) : Statement (.sxor d a b t) :=
  of_one rfl rfl (opWords_one (encSC_op ..) (by decide)) (fun w2 => decode_one w2 (encSC_op ..) (by decide) rfl (by simp))
theorem sandn (d : BitVec 7) (a : BitVec 7) (b : BitVec 7) (t : BitVec 3) : Statement (.sandn d a b t) :=
  of_one rfl rfl (opWords_one (encSC_op ..) (by decide)) (fun w2 => decode_one w2 (encSC_op ..) (by decide) rfl (by simp))
theorem sshl (d : BitVec 7) (a : BitVec 7) (b : BitVec 7) (t : BitVec 3) : Statement (.sshl d a b t) :=
  of_one rfl rfl (opWords_one (encSC_op ..) (by decide)) (fun w2 => decode_one w2 (encSC_op ..) (by decide) rfl (by simp))
theorem sshr (d : BitVec 7) (a : BitVec 7) (b : BitVec 7) (t : BitVec 3) : Statement (.sshr d a b t) :=
  of_one rfl rfl (opWords_one (encSC_op ..) (by decide)) (fun w2 => decode_one w2 (encSC_op ..) (by decide) rfl (by simp))
theorem srot (d : BitVec 7) (a : BitVec 7) (b : BitVec 7) (t : BitVec 3) : Statement (.srot d a b t) :=
  of_one rfl rfl (opWords_one (encSC_op ..) (by decide)) (fun w2 => decode_one w2 (encSC_op ..) (by decide) rfl (by simp))
theorem sclz (d : BitVec 7) (a : BitVec 7) (t : BitVec 3) : Statement (.sclz d a t) :=
  of_one rfl rfl (opWords_one (encSC_op ..) (by decide)) (fun w2 => decode_one w2 (encSC_op ..) (by decide) rfl (by simp))
theorem seq (d : BitVec 7) (a : BitVec 7) (b : BitVec 7) (t : BitVec 3) : Statement (.seq d a b t) :=
  of_one rfl rfl (opWords_one (encSC_op ..) (by decide)) (fun w2 => decode_one w2 (encSC_op ..) (by decide) rfl (by simp))
theorem sne (d : BitVec 7) (a : BitVec 7) (b : BitVec 7) (t : BitVec 3) : Statement (.sne d a b t) :=
  of_one rfl rfl (opWords_one (encSC_op ..) (by decide)) (fun w2 => decode_one w2 (encSC_op ..) (by decide) rfl (by simp))
theorem slt (d : BitVec 7) (a : BitVec 7) (b : BitVec 7) (t : BitVec 3) : Statement (.slt d a b t) :=
  of_one rfl rfl (opWords_one (encSC_op ..) (by decide)) (fun w2 => decode_one w2 (encSC_op ..) (by decide) rfl (by simp))
theorem sle (d : BitVec 7) (a : BitVec 7) (b : BitVec 7) (t : BitVec 3) : Statement (.sle d a b t) :=
  of_one rfl rfl (opWords_one (encSC_op ..) (by decide)) (fun w2 => decode_one w2 (encSC_op ..) (by decide) rfl (by simp))
theorem ssel (d : BitVec 7) (a : BitVec 7) (b : BitVec 7) (t : BitVec 3) : Statement (.ssel d a b t) :=
  of_one rfl rfl (opWords_one (encSC_op ..) (by decide)) (fun w2 => decode_one w2 (encSC_op ..) (by decide) rfl (by simp))
theorem spopc (d : BitVec 7) (a : BitVec 7) (t : BitVec 3) : Statement (.spopc d a t) :=
  of_one rfl rfl (opWords_one (encSC_op ..) (by decide)) (fun w2 => decode_one w2 (encSC_op ..) (by decide) rfl (by simp))
theorem sctz (d : BitVec 7) (a : BitVec 7) (t : BitVec 3) : Statement (.sctz d a t) :=
  of_one rfl rfl (opWords_one (encSC_op ..) (by decide)) (fun w2 => decode_one w2 (encSC_op ..) (by decide) rfl (by simp))
theorem sbrev (d : BitVec 7) (a : BitVec 7) (t : BitVec 3) : Statement (.sbrev d a t) :=
  of_one rfl rfl (opWords_one (encSC_op ..) (by decide)) (fun w2 => decode_one w2 (encSC_op ..) (by decide) rfl (by simp))
theorem sbfx (d : BitVec 7) (a : BitVec 7) (b : BitVec 7) (t : BitVec 3) : Statement (.sbfx d a b t) :=
  of_one rfl rfl (opWords_one (encSC_op ..) (by decide)) (fun w2 => decode_one w2 (encSC_op ..) (by decide) rfl (by simp))
theorem sbfi (d : BitVec 7) (a : BitVec 7) (b : BitVec 7) (t : BitVec 3) : Statement (.sbfi d a b t) :=
  of_one rfl rfl (opWords_one (encSC_op ..) (by decide)) (fun w2 => decode_one w2 (encSC_op ..) (by decide) rfl (by simp))
theorem smov (d : BitVec 7) (a : BitVec 7) (t : BitVec 3) : Statement (.smov d a t) :=
  of_one rfl rfl (opWords_one (encSC_op ..) (by decide)) (fun w2 => decode_one w2 (encSC_op ..) (by decide) rfl (by simp))
theorem saddi (d : BitVec 7) (a : BitVec 7) (imm : BitVec 10) : Statement (.saddi d a imm) :=
  of_one rfl rfl (opWords_one (encSI_op ..) (by decide)) (fun w2 => decode_one w2 (encSI_op ..) (by decide) rfl (by simp))
theorem smuli (d : BitVec 7) (a : BitVec 7) (imm : BitVec 10) : Statement (.smuli d a imm) :=
  of_one rfl rfl (opWords_one (encSI_op ..) (by decide)) (fun w2 => decode_one w2 (encSI_op ..) (by decide) rfl (by simp))
theorem sandi (d : BitVec 7) (a : BitVec 7) (imm : BitVec 10) : Statement (.sandi d a imm) :=
  of_one rfl rfl (opWords_one (encSI_op ..) (by decide)) (fun w2 => decode_one w2 (encSI_op ..) (by decide) rfl (by simp))
theorem sori (d : BitVec 7) (a : BitVec 7) (imm : BitVec 10) : Statement (.sori d a imm) :=
  of_one rfl rfl (opWords_one (encSI_op ..) (by decide)) (fun w2 => decode_one w2 (encSI_op ..) (by decide) rfl (by simp))
theorem sxori (d : BitVec 7) (a : BitVec 7) (imm : BitVec 10) : Statement (.sxori d a imm) :=
  of_one rfl rfl (opWords_one (encSI_op ..) (by decide)) (fun w2 => decode_one w2 (encSI_op ..) (by decide) rfl (by simp))
theorem sshli (d : BitVec 7) (a : BitVec 7) (imm : BitVec 10) : Statement (.sshli d a imm) :=
  of_one rfl rfl (opWords_one (encSI_op ..) (by decide)) (fun w2 => decode_one w2 (encSI_op ..) (by decide) rfl (by simp))
theorem sshri (d : BitVec 7) (a : BitVec 7) (imm : BitVec 10) : Statement (.sshri d a imm) :=
  of_one rfl rfl (opWords_one (encSI_op ..) (by decide)) (fun w2 => decode_one w2 (encSI_op ..) (by decide) rfl (by simp))
theorem ssrai (d : BitVec 7) (a : BitVec 7) (imm : BitVec 10) : Statement (.ssrai d a imm) :=
  of_one rfl rfl (opWords_one (encSI_op ..) (by decide)) (fun w2 => decode_one w2 (encSI_op ..) (by decide) rfl (by simp))
theorem seqi (d : BitVec 7) (a : BitVec 7) (imm : BitVec 10) : Statement (.seqi d a imm) :=
  of_one rfl rfl (opWords_one (encSI_op ..) (by decide)) (fun w2 => decode_one w2 (encSI_op ..) (by decide) rfl (by simp))
theorem slti (d : BitVec 7) (a : BitVec 7) (imm : BitVec 10) : Statement (.slti d a imm) :=
  of_one rfl rfl (opWords_one (encSI_op ..) (by decide)) (fun w2 => decode_one w2 (encSI_op ..) (by decide) rfl (by simp))
theorem sltni (d : BitVec 7) (a : BitVec 7) (imm : BitVec 10) : Statement (.sltni d a imm) :=
  of_one rfl rfl (opWords_one (encSI_op ..) (by decide)) (fun w2 => decode_one w2 (encSI_op ..) (by decide) rfl (by simp))
theorem smovi (d : BitVec 7) (imm : BitVec 10) : Statement (.smovi d imm) :=
  of_one rfl rfl (opWords_one (encSI_op ..) (by decide)) (fun w2 => decode_one w2 (encSI_op ..) (by decide) rfl (by simp))
theorem saddiLong (d : BitVec 7) (a : BitVec 7) (imm : BitVec 32) : Statement (.saddiLong d a imm) :=
  of_two rfl rfl (opWords_two (encSI_op ..) (by decide)) (decode_two (encSI_op ..) (by decide) rfl (by simp))
theorem smuliLong (d : BitVec 7) (a : BitVec 7) (imm : BitVec 32) : Statement (.smuliLong d a imm) :=
  of_two rfl rfl (opWords_two (encSI_op ..) (by decide)) (decode_two (encSI_op ..) (by decide) rfl (by simp))
theorem sandiLong (d : BitVec 7) (a : BitVec 7) (imm : BitVec 32) : Statement (.sandiLong d a imm) :=
  of_two rfl rfl (opWords_two (encSI_op ..) (by decide)) (decode_two (encSI_op ..) (by decide) rfl (by simp))
theorem soriLong (d : BitVec 7) (a : BitVec 7) (imm : BitVec 32) : Statement (.soriLong d a imm) :=
  of_two rfl rfl (opWords_two (encSI_op ..) (by decide)) (decode_two (encSI_op ..) (by decide) rfl (by simp))
theorem sxoriLong (d : BitVec 7) (a : BitVec 7) (imm : BitVec 32) : Statement (.sxoriLong d a imm) :=
  of_two rfl rfl (opWords_two (encSI_op ..) (by decide)) (decode_two (encSI_op ..) (by decide) rfl (by simp))
theorem sshliLong (d : BitVec 7) (a : BitVec 7) (imm : BitVec 32) : Statement (.sshliLong d a imm) :=
  of_two rfl rfl (opWords_two (encSI_op ..) (by decide)) (decode_two (encSI_op ..) (by decide) rfl (by simp))
theorem sshriLong (d : BitVec 7) (a : BitVec 7) (imm : BitVec 32) : Statement (.sshriLong d a imm) :=
  of_two rfl rfl (opWords_two (encSI_op ..) (by decide)) (decode_two (encSI_op ..) (by decide) rfl (by simp))
theorem ssraiLong (d : BitVec 7) (a : BitVec 7) (imm : BitVec 32) : Statement (.ssraiLong d a imm) :=
  of_two rfl rfl (opWords_two (encSI_op ..) (by decide)) (decode_two (encSI_op ..) (by decide) rfl (by simp))
theorem seqiLong (d : BitVec 7) (a : BitVec 7) (imm : BitVec 32) : Statement (.seqiLong d a imm) :=
  of_two rfl rfl (opWords_two (encSI_op ..) (by decide)) (decode_two (encSI_op ..) (by decide) rfl (by simp))
theorem sltiLong (d : BitVec 7) (a : BitVec 7) (imm : BitVec 32) : Statement (.sltiLong d a imm) :=
  of_two rfl rfl (opWords_two (encSI_op ..) (by decide)) (decode_two (encSI_op ..) (by decide) rfl (by simp))
theorem sltniLong (d : BitVec 7) (a : BitVec 7) (imm : BitVec 32) : Statement (.sltniLong d a imm) :=
  of_two rfl rfl (opWords_two (encSI_op ..) (by decide)) (decode_two (encSI_op ..) (by decide) rfl (by simp))
theorem smoviLong (d : BitVec 7) (imm : BitVec 32) : Statement (.smoviLong d imm) :=
  of_two rfl rfl (opWords_two (encSI_op ..) (by decide)) (decode_two (encSI_op ..) (by decide) rfl (by simp))
theorem smovh (d : BitVec 7) (imm : BitVec 32) : Statement (.smovh d imm) :=
  of_two rfl rfl (opWords_two (encSI_op ..) (by decide)) (decode_two (encSI_op ..) (by decide) rfl (by simp))
theorem bra (off : BitVec 17) : Statement (.bra off) :=
  of_one rfl rfl (opWords_one (encSB_op ..) (by decide)) (fun w2 => decode_one w2 (encSB_op ..) (by decide) rfl (by simp))
theorem bz (a : BitVec 7) (off : BitVec 17) : Statement (.bz a off) :=
  of_one rfl rfl (opWords_one (encSB_op ..) (by decide)) (fun w2 => decode_one w2 (encSB_op ..) (by decide) rfl (by simp))
theorem bnz (a : BitVec 7) (off : BitVec 17) : Statement (.bnz a off) :=
  of_one rfl rfl (opWords_one (encSB_op ..) (by decide)) (fun w2 => decode_one w2 (encSB_op ..) (by decide) rfl (by simp))
theorem call (a : BitVec 7) (off : BitVec 17) : Statement (.call a off) :=
  of_one rfl rfl (opWords_one (encSB_op ..) (by decide)) (fun w2 => decode_one w2 (encSB_op ..) (by decide) rfl (by simp))
theorem ret (a : BitVec 7) : Statement (.ret a) :=
  of_one rfl rfl (opWords_one (encSB_op ..) (by decide)) (fun w2 => decode_one w2 (encSB_op ..) (by decide) rfl (by simp))
theorem brx (a : BitVec 7) (off : BitVec 17) : Statement (.brx a off) :=
  of_one rfl rfl (opWords_one (encSB_op ..) (by decide)) (fun w2 => decode_one w2 (encSB_op ..) (by decide) rfl (by simp))
theorem loop (a : BitVec 7) (off : BitVec 17) : Statement (.loop a off) :=
  of_one rfl rfl (opWords_one (encSB_op ..) (by decide)) (fun w2 => decode_one w2 (encSB_op ..) (by decide) rfl (by simp))
theorem lpop : Statement .lpop :=
  of_one rfl rfl (opWords_one (encSB_op ..) (by decide)) (fun w2 => decode_one w2 (encSB_op ..) (by decide) rfl (by simp))
theorem exit : Statement .exit :=
  of_one rfl rfl (opWords_one (encSB_op ..) (by decide)) (fun w2 => decode_one w2 (encSB_op ..) (by decide) rfl (by simp))
theorem tail : Statement .tail :=
  of_one rfl rfl (opWords_one (encSB_op ..) (by decide)) (fun w2 => decode_one w2 (encSB_op ..) (by decide) rfl (by simp))
theorem yield (off : BitVec 17) : Statement (.yield off) :=
  of_one rfl rfl (opWords_one (encSB_op ..) (by decide)) (fun w2 => decode_one w2 (encSB_op ..) (by decide) rfl (by simp))
theorem nop : Statement .nop :=
  of_one rfl rfl (opWords_one (encSB_op ..) (by decide)) (fun w2 => decode_one w2 (encSB_op ..) (by decide) rfl (by simp))
theorem braLong (off : BitVec 32) : Statement (.braLong off) :=
  of_two rfl rfl (opWords_two (encSB_op ..) (by decide)) (decode_two (encSB_op ..) (by decide) rfl (by simp))
theorem bzLong (a : BitVec 7) (off : BitVec 32) : Statement (.bzLong a off) :=
  of_two rfl rfl (opWords_two (encSB_op ..) (by decide)) (decode_two (encSB_op ..) (by decide) rfl (by simp))
theorem bnzLong (a : BitVec 7) (off : BitVec 32) : Statement (.bnzLong a off) :=
  of_two rfl rfl (opWords_two (encSB_op ..) (by decide)) (decode_two (encSB_op ..) (by decide) rfl (by simp))
theorem callLong (a : BitVec 7) (off : BitVec 32) : Statement (.callLong a off) :=
  of_two rfl rfl (opWords_two (encSB_op ..) (by decide)) (decode_two (encSB_op ..) (by decide) rfl (by simp))
theorem loopLong (a : BitVec 7) (off : BitVec 32) : Statement (.loopLong a off) :=
  of_two rfl rfl (opWords_two (encSB_op ..) (by decide)) (decode_two (encSB_op ..) (by decide) rfl (by simp))
theorem yieldLong (off : BitVec 32) : Statement (.yieldLong off) :=
  of_two rfl rfl (opWords_two (encSB_op ..) (by decide)) (decode_two (encSB_op ..) (by decide) rfl (by simp))
theorem hint (lo : BitVec 4) : Statement (.hint lo) :=
  of_one rfl rfl (opWords_one (encHint_op ..) (by revert lo; decide)) (fun w2 => by
    have h : (((0xf : BitVec 4) ++ lo : BitVec 8)).toNat ≥ 0xf0 := by revert lo; decide
    unfold decode
    rw [if_pos (by show (bits 24 8 _).toNat ≥ 0xf0; rw [encHint_op]; exact h), encHint_lo])
theorem mfs (d : BitVec 7) (n : BitVec 10) : Statement (.mfs d n) :=
  of_one rfl rfl (opWords_one (encSY_op ..) (by decide)) (fun w2 => decode_one w2 (encSY_op ..) (by decide) rfl (by simp))
theorem mts (a : BitVec 7) (n : BitVec 10) : Statement (.mts a n) :=
  of_one rfl rfl (opWords_one (encSY_op ..) (by decide)) (fun w2 => decode_one w2 (encSY_op ..) (by decide) rfl (by simp))
theorem bar (n : BitVec 10) : Statement (.bar n) := by
  intro c hc hn
  cases Option.some.inj hc
  have h5 : n ≠ 5 := by simpa [Instr.canonical] using hn
  exact .inl ⟨_, rfl, opWords_one (encSY_op ..) (by decide), fun w2 => decode_one w2 (encSY_op ..) (by decide) rfl (by dsimp only; rw [encSY_imm, if_neg h5])⟩
theorem barPod : Statement .barPod :=
  of_one rfl rfl (opWords_one (encSY_op ..) (by decide)) (fun w2 => decode_one w2 (encSY_op ..) (by decide) rfl (by simp))
theorem nbarw (d : BitVec 7) (n : BitVec 10) : Statement (.nbarw d n) :=
  of_one rfl rfl (opWords_one (encSY_op ..) (by decide)) (fun w2 => decode_one w2 (encSY_op ..) (by decide) rfl (by simp))
theorem nbarr (n : BitVec 10) : Statement (.nbarr n) :=
  of_one rfl rfl (opWords_one (encSY_op ..) (by decide)) (fun w2 => decode_one w2 (encSY_op ..) (by decide) rfl (by simp))
theorem nbwait (a : BitVec 7) (n : BitVec 10) : Statement (.nbwait a n) :=
  of_one rfl rfl (opWords_one (encSY_op ..) (by decide)) (fun w2 => decode_one w2 (encSY_op ..) (by decide) rfl (by simp))
theorem nbinit (a : BitVec 7) (n : BitVec 10) : Statement (.nbinit a n) :=
  of_one rfl rfl (opWords_one (encSY_op ..) (by decide)) (fun w2 => decode_one w2 (encSY_op ..) (by decide) rfl (by simp))
theorem trap (code : BitVec 10) : Statement (.trap code) :=
  of_one rfl rfl (opWords_one (encSY_op ..) (by decide)) (fun w2 => decode_one w2 (encSY_op ..) (by decide) rfl (by simp))
theorem rft : Statement .rft :=
  of_one rfl rfl (opWords_one (encSY_op ..) (by decide)) (fun w2 => decode_one w2 (encSY_op ..) (by decide) rfl (by simp))
theorem brk (code : BitVec 10) : Statement (.brk code) :=
  of_one rfl rfl (opWords_one (encSY_op ..) (by decide)) (fun w2 => decode_one w2 (encSY_op ..) (by decide) rfl (by simp))
theorem phint (nm : BitVec 2) (ap : BitVec 6) (smap : BitVec 16) (vmap : BitVec 32) : Statement (.phint nm ap smap vmap) :=
  of_two rfl rfl (opWords_two (encPhint_op ..) (by decide)) (decode_two (encPhint_op ..) (by decide) rfl
    (by dsimp only; rw [encPhint_nm, encPhint_ap, encPhint_s]))
theorem vadd (d : BitVec 8) (a : BitVec 8) (b : BitVec 8) : Statement (.vadd d a b) :=
  of_one rfl rfl (opWords_one (encVC_op ..) (by decide)) (fun w2 => decode_one w2 (encVC_op ..) (by decide) rfl (by simp))
theorem vsub (d : BitVec 8) (a : BitVec 8) (b : BitVec 8) : Statement (.vsub d a b) :=
  of_one rfl rfl (opWords_one (encVC_op ..) (by decide)) (fun w2 => decode_one w2 (encVC_op ..) (by decide) rfl (by simp))
theorem vmul (d : BitVec 8) (a : BitVec 8) (b : BitVec 8) : Statement (.vmul d a b) :=
  of_one rfl rfl (opWords_one (encVC_op ..) (by decide)) (fun w2 => decode_one w2 (encVC_op ..) (by decide) rfl (by simp))
theorem vfma (d : BitVec 8) (a : BitVec 8) (b : BitVec 8) : Statement (.vfma d a b) :=
  of_one rfl rfl (opWords_one (encVC_op ..) (by decide)) (fun w2 => decode_one w2 (encVC_op ..) (by decide) rfl (by simp))
theorem vmin (d : BitVec 8) (a : BitVec 8) (b : BitVec 8) : Statement (.vmin d a b) :=
  of_one rfl rfl (opWords_one (encVC_op ..) (by decide)) (fun w2 => decode_one w2 (encVC_op ..) (by decide) rfl (by simp))
theorem vmax (d : BitVec 8) (a : BitVec 8) (b : BitVec 8) : Statement (.vmax d a b) :=
  of_one rfl rfl (opWords_one (encVC_op ..) (by decide)) (fun w2 => decode_one w2 (encVC_op ..) (by decide) rfl (by simp))
theorem vaddmin (d : BitVec 8) (a : BitVec 8) (b : BitVec 8) : Statement (.vaddmin d a b) :=
  of_one rfl rfl (opWords_one (encVC_op ..) (by decide)) (fun w2 => decode_one w2 (encVC_op ..) (by decide) rfl (by simp))
theorem vaddmax (d : BitVec 8) (a : BitVec 8) (b : BitVec 8) : Statement (.vaddmax d a b) :=
  of_one rfl rfl (opWords_one (encVC_op ..) (by decide)) (fun w2 => decode_one w2 (encVC_op ..) (by decide) rfl (by simp))
theorem vrcp (d : BitVec 8) (a : BitVec 8) : Statement (.vrcp d a) :=
  of_one rfl rfl (opWords_one (encVC_op ..) (by decide)) (fun w2 => decode_one w2 (encVC_op ..) (by decide) rfl (by simp))
theorem vsqrt (d : BitVec 8) (a : BitVec 8) : Statement (.vsqrt d a) :=
  of_one rfl rfl (opWords_one (encVC_op ..) (by decide)) (fun w2 => decode_one w2 (encVC_op ..) (by decide) rfl (by simp))
theorem vrsq (d : BitVec 8) (a : BitVec 8) : Statement (.vrsq d a) :=
  of_one rfl rfl (opWords_one (encVC_op ..) (by decide)) (fun w2 => decode_one w2 (encVC_op ..) (by decide) rfl (by simp))
theorem vexp2 (d : BitVec 8) (a : BitVec 8) : Statement (.vexp2 d a) :=
  of_one rfl rfl (opWords_one (encVC_op ..) (by decide)) (fun w2 => decode_one w2 (encVC_op ..) (by decide) rfl (by simp))
theorem vlog2 (d : BitVec 8) (a : BitVec 8) : Statement (.vlog2 d a) :=
  of_one rfl rfl (opWords_one (encVC_op ..) (by decide)) (fun w2 => decode_one w2 (encVC_op ..) (by decide) rfl (by simp))
theorem vsin (d : BitVec 8) (a : BitVec 8) : Statement (.vsin d a) :=
  of_one rfl rfl (opWords_one (encVC_op ..) (by decide)) (fun w2 => decode_one w2 (encVC_op ..) (by decide) rfl (by simp))
theorem vcos (d : BitVec 8) (a : BitVec 8) : Statement (.vcos d a) :=
  of_one rfl rfl (opWords_one (encVC_op ..) (by decide)) (fun w2 => decode_one w2 (encVC_op ..) (by decide) rfl (by simp))
theorem vrint (d : BitVec 8) (a : BitVec 8) : Statement (.vrint d a) :=
  of_one rfl rfl (opWords_one (encVC_op ..) (by decide)) (fun w2 => decode_one w2 (encVC_op ..) (by decide) rfl (by simp))
theorem vand (d : BitVec 8) (a : BitVec 8) (b : BitVec 8) : Statement (.vand d a b) :=
  of_one rfl rfl (opWords_one (encVC_op ..) (by decide)) (fun w2 => decode_one w2 (encVC_op ..) (by decide) rfl (by simp))
theorem vor (d : BitVec 8) (a : BitVec 8) (b : BitVec 8) : Statement (.vor d a b) :=
  of_one rfl rfl (opWords_one (encVC_op ..) (by decide)) (fun w2 => decode_one w2 (encVC_op ..) (by decide) rfl (by simp))
theorem vxor (d : BitVec 8) (a : BitVec 8) (b : BitVec 8) : Statement (.vxor d a b) :=
  of_one rfl rfl (opWords_one (encVC_op ..) (by decide)) (fun w2 => decode_one w2 (encVC_op ..) (by decide) rfl (by simp))
theorem vandn (d : BitVec 8) (a : BitVec 8) (b : BitVec 8) : Statement (.vandn d a b) :=
  of_one rfl rfl (opWords_one (encVC_op ..) (by decide)) (fun w2 => decode_one w2 (encVC_op ..) (by decide) rfl (by simp))
theorem vshl (d : BitVec 8) (a : BitVec 8) (b : BitVec 8) : Statement (.vshl d a b) :=
  of_one rfl rfl (opWords_one (encVC_op ..) (by decide)) (fun w2 => decode_one w2 (encVC_op ..) (by decide) rfl (by simp))
theorem vshr (d : BitVec 8) (a : BitVec 8) (b : BitVec 8) : Statement (.vshr d a b) :=
  of_one rfl rfl (opWords_one (encVC_op ..) (by decide)) (fun w2 => decode_one w2 (encVC_op ..) (by decide) rfl (by simp))
theorem vmullo (d : BitVec 8) (a : BitVec 8) (b : BitVec 8) : Statement (.vmullo d a b) :=
  of_one rfl rfl (opWords_one (encVC_op ..) (by decide)) (fun w2 => decode_one w2 (encVC_op ..) (by decide) rfl (by simp))
theorem vmulhi (d : BitVec 8) (a : BitVec 8) (b : BitVec 8) : Statement (.vmulhi d a b) :=
  of_one rfl rfl (opWords_one (encVC_op ..) (by decide)) (fun w2 => decode_one w2 (encVC_op ..) (by decide) rfl (by simp))
theorem vpopc (d : BitVec 8) (a : BitVec 8) : Statement (.vpopc d a) :=
  of_one rfl rfl (opWords_one (encVC_op ..) (by decide)) (fun w2 => decode_one w2 (encVC_op ..) (by decide) rfl (by simp))
theorem vclz (d : BitVec 8) (a : BitVec 8) : Statement (.vclz d a) :=
  of_one rfl rfl (opWords_one (encVC_op ..) (by decide)) (fun w2 => decode_one w2 (encVC_op ..) (by decide) rfl (by simp))
theorem vcmpEqF32 (d : BitVec 3) (a : BitVec 8) (b : BitVec 8) : Statement (.vcmpEqF32 d a b) :=
  of_one rfl rfl (opWords_one (encVC_op ..) (by decide)) (fun w2 => decode_one w2 (encVC_op ..) (by decide) rfl (by simp))
theorem vcmpNeF32 (d : BitVec 3) (a : BitVec 8) (b : BitVec 8) : Statement (.vcmpNeF32 d a b) :=
  of_one rfl rfl (opWords_one (encVC_op ..) (by decide)) (fun w2 => decode_one w2 (encVC_op ..) (by decide) rfl (by simp))
theorem vcmpLtF32 (d : BitVec 3) (a : BitVec 8) (b : BitVec 8) : Statement (.vcmpLtF32 d a b) :=
  of_one rfl rfl (opWords_one (encVC_op ..) (by decide)) (fun w2 => decode_one w2 (encVC_op ..) (by decide) rfl (by simp))
theorem vcmpLeF32 (d : BitVec 3) (a : BitVec 8) (b : BitVec 8) : Statement (.vcmpLeF32 d a b) :=
  of_one rfl rfl (opWords_one (encVC_op ..) (by decide)) (fun w2 => decode_one w2 (encVC_op ..) (by decide) rfl (by simp))
theorem vcmpGtF32 (d : BitVec 3) (a : BitVec 8) (b : BitVec 8) : Statement (.vcmpGtF32 d a b) :=
  of_one rfl rfl (opWords_one (encVC_op ..) (by decide)) (fun w2 => decode_one w2 (encVC_op ..) (by decide) rfl (by simp))
theorem vcmpGeF32 (d : BitVec 3) (a : BitVec 8) (b : BitVec 8) : Statement (.vcmpGeF32 d a b) :=
  of_one rfl rfl (opWords_one (encVC_op ..) (by decide)) (fun w2 => decode_one w2 (encVC_op ..) (by decide) rfl (by simp))
theorem vcmpEqI32 (d : BitVec 3) (a : BitVec 8) (b : BitVec 8) : Statement (.vcmpEqI32 d a b) :=
  of_one rfl rfl (opWords_one (encVC_op ..) (by decide)) (fun w2 => decode_one w2 (encVC_op ..) (by decide) rfl (by simp))
theorem vcmpNeI32 (d : BitVec 3) (a : BitVec 8) (b : BitVec 8) : Statement (.vcmpNeI32 d a b) :=
  of_one rfl rfl (opWords_one (encVC_op ..) (by decide)) (fun w2 => decode_one w2 (encVC_op ..) (by decide) rfl (by simp))
theorem vcmpLtI32 (d : BitVec 3) (a : BitVec 8) (b : BitVec 8) : Statement (.vcmpLtI32 d a b) :=
  of_one rfl rfl (opWords_one (encVC_op ..) (by decide)) (fun w2 => decode_one w2 (encVC_op ..) (by decide) rfl (by simp))
theorem vcmpLeI32 (d : BitVec 3) (a : BitVec 8) (b : BitVec 8) : Statement (.vcmpLeI32 d a b) :=
  of_one rfl rfl (opWords_one (encVC_op ..) (by decide)) (fun w2 => decode_one w2 (encVC_op ..) (by decide) rfl (by simp))
theorem vcmpGtI32 (d : BitVec 3) (a : BitVec 8) (b : BitVec 8) : Statement (.vcmpGtI32 d a b) :=
  of_one rfl rfl (opWords_one (encVC_op ..) (by decide)) (fun w2 => decode_one w2 (encVC_op ..) (by decide) rfl (by simp))
theorem vcmpGeI32 (d : BitVec 3) (a : BitVec 8) (b : BitVec 8) : Statement (.vcmpGeI32 d a b) :=
  of_one rfl rfl (opWords_one (encVC_op ..) (by decide)) (fun w2 => decode_one w2 (encVC_op ..) (by decide) rfl (by simp))
theorem vcmpLtN32 (d : BitVec 3) (a : BitVec 8) (b : BitVec 8) : Statement (.vcmpLtN32 d a b) :=
  of_one rfl rfl (opWords_one (encVC_op ..) (by decide)) (fun w2 => decode_one w2 (encVC_op ..) (by decide) rfl (by simp))
theorem vcmpLeN32 (d : BitVec 3) (a : BitVec 8) (b : BitVec 8) : Statement (.vcmpLeN32 d a b) :=
  of_one rfl rfl (opWords_one (encVC_op ..) (by decide)) (fun w2 => decode_one w2 (encVC_op ..) (by decide) rfl (by simp))
theorem vcmpGtN32 (d : BitVec 3) (a : BitVec 8) (b : BitVec 8) : Statement (.vcmpGtN32 d a b) :=
  of_one rfl rfl (opWords_one (encVC_op ..) (by decide)) (fun w2 => decode_one w2 (encVC_op ..) (by decide) rfl (by simp))
theorem vcmpGeN32 (d : BitVec 3) (a : BitVec 8) (b : BitVec 8) : Statement (.vcmpGeN32 d a b) :=
  of_one rfl rfl (opWords_one (encVC_op ..) (by decide)) (fun w2 => decode_one w2 (encVC_op ..) (by decide) rfl (by simp))
theorem vpack (d : BitVec 8) (a : BitVec 8) (b : BitVec 8) : Statement (.vpack d a b) :=
  of_one rfl rfl (opWords_one (encVC_op ..) (by decide)) (fun w2 => decode_one w2 (encVC_op ..) (by decide) rfl (by simp))
theorem vunplo (d : BitVec 8) (a : BitVec 8) : Statement (.vunplo d a) :=
  of_one rfl rfl (opWords_one (encVC_op ..) (by decide)) (fun w2 => decode_one w2 (encVC_op ..) (by decide) rfl (by simp))
theorem vunphi (d : BitVec 8) (a : BitVec 8) : Statement (.vunphi d a) :=
  of_one rfl rfl (opWords_one (encVC_op ..) (by decide)) (fun w2 => decode_one w2 (encVC_op ..) (by decide) rfl (by simp))
theorem vmov (d : BitVec 8) (a : BitVec 8) : Statement (.vmov d a) :=
  of_one rfl rfl (opWords_one (encVC_op ..) (by decide)) (fun w2 => decode_one w2 (encVC_op ..) (by decide) rfl (by simp))
theorem vbcst (d : BitVec 8) (a : BitVec 8) (b : BitVec 7) : Statement (.vbcst d a b) :=
  of_one rfl rfl (opWords_one (encVC_op ..) (by decide)) (fun w2 => decode_one w2 (encVC_op ..) (by decide) rfl (by simp))
theorem vshfl (d : BitVec 8) (a : BitVec 8) (b : BitVec 8) : Statement (.vshfl d a b) :=
  of_one rfl rfl (opWords_one (encVC_op ..) (by decide)) (fun w2 => decode_one w2 (encVC_op ..) (by decide) rfl (by simp))
theorem vbfly (d : BitVec 8) (a : BitVec 8) (b : BitVec 7) : Statement (.vbfly d a b) :=
  of_one rfl rfl (opWords_one (encVC_op ..) (by decide)) (fun w2 => decode_one w2 (encVC_op ..) (by decide) rfl (by simp))
theorem vlsu (d : BitVec 8) (a : BitVec 8) (b : BitVec 7) : Statement (.vlsu d a b) :=
  of_one rfl rfl (opWords_one (encVC_op ..) (by decide)) (fun w2 => decode_one w2 (encVC_op ..) (by decide) rfl (by simp))
theorem vlsd (d : BitVec 8) (a : BitVec 8) (b : BitVec 7) : Statement (.vlsd d a b) :=
  of_one rfl rfl (opWords_one (encVC_op ..) (by decide)) (fun w2 => decode_one w2 (encVC_op ..) (by decide) rfl (by simp))
theorem vscan (d : BitVec 8) (a : BitVec 8) : Statement (.vscan d a) :=
  of_one rfl rfl (opWords_one (encVC_op ..) (by decide)) (fun w2 => decode_one w2 (encVC_op ..) (by decide) rfl (by simp))
theorem vdot2 (d : BitVec 8) (a : BitVec 8) (b : BitVec 8) : Statement (.vdot2 d a b) :=
  of_one rfl rfl (opWords_one (encVC_op ..) (by decide)) (fun w2 => decode_one w2 (encVC_op ..) (by decide) rfl (by simp))
theorem vaddLong (d : BitVec 8) (a : BitVec 8) (b : BitVec 8) (l : VL) : Statement (.vaddLong d a b l) :=
  of_two rfl rfl (opWords_two (encVC_op ..) (by decide)) (decode_two (encVC_op ..) (by decide) rfl (by simp))
theorem vsubLong (d : BitVec 8) (a : BitVec 8) (b : BitVec 8) (l : VL) : Statement (.vsubLong d a b l) :=
  of_two rfl rfl (opWords_two (encVC_op ..) (by decide)) (decode_two (encVC_op ..) (by decide) rfl (by simp))
theorem vmulLong (d : BitVec 8) (a : BitVec 8) (b : BitVec 8) (l : VL) : Statement (.vmulLong d a b l) :=
  of_two rfl rfl (opWords_two (encVC_op ..) (by decide)) (decode_two (encVC_op ..) (by decide) rfl (by simp))
theorem vfmaLong (d : BitVec 8) (a : BitVec 8) (b : BitVec 8) (l : VL) : Statement (.vfmaLong d a b l) :=
  of_two rfl rfl (opWords_two (encVC_op ..) (by decide)) (decode_two (encVC_op ..) (by decide) rfl (by simp))
theorem vminLong (d : BitVec 8) (a : BitVec 8) (b : BitVec 8) (l : VL) : Statement (.vminLong d a b l) :=
  of_two rfl rfl (opWords_two (encVC_op ..) (by decide)) (decode_two (encVC_op ..) (by decide) rfl (by simp))
theorem vmaxLong (d : BitVec 8) (a : BitVec 8) (b : BitVec 8) (l : VL) : Statement (.vmaxLong d a b l) :=
  of_two rfl rfl (opWords_two (encVC_op ..) (by decide)) (decode_two (encVC_op ..) (by decide) rfl (by simp))
theorem vaddminLong (d : BitVec 8) (a : BitVec 8) (b : BitVec 8) (l : VL) : Statement (.vaddminLong d a b l) :=
  of_two rfl rfl (opWords_two (encVC_op ..) (by decide)) (decode_two (encVC_op ..) (by decide) rfl (by simp))
theorem vaddmaxLong (d : BitVec 8) (a : BitVec 8) (b : BitVec 8) (l : VL) : Statement (.vaddmaxLong d a b l) :=
  of_two rfl rfl (opWords_two (encVC_op ..) (by decide)) (decode_two (encVC_op ..) (by decide) rfl (by simp))
theorem vrcpLong (d : BitVec 8) (a : BitVec 8) (l : VL) : Statement (.vrcpLong d a l) :=
  of_two rfl rfl (opWords_two (encVC_op ..) (by decide)) (decode_two (encVC_op ..) (by decide) rfl (by simp))
theorem vsqrtLong (d : BitVec 8) (a : BitVec 8) (l : VL) : Statement (.vsqrtLong d a l) :=
  of_two rfl rfl (opWords_two (encVC_op ..) (by decide)) (decode_two (encVC_op ..) (by decide) rfl (by simp))
theorem vrsqLong (d : BitVec 8) (a : BitVec 8) (l : VL) : Statement (.vrsqLong d a l) :=
  of_two rfl rfl (opWords_two (encVC_op ..) (by decide)) (decode_two (encVC_op ..) (by decide) rfl (by simp))
theorem vexp2Long (d : BitVec 8) (a : BitVec 8) (l : VL) : Statement (.vexp2Long d a l) :=
  of_two rfl rfl (opWords_two (encVC_op ..) (by decide)) (decode_two (encVC_op ..) (by decide) rfl (by simp))
theorem vlog2Long (d : BitVec 8) (a : BitVec 8) (l : VL) : Statement (.vlog2Long d a l) :=
  of_two rfl rfl (opWords_two (encVC_op ..) (by decide)) (decode_two (encVC_op ..) (by decide) rfl (by simp))
theorem vsinLong (d : BitVec 8) (a : BitVec 8) (l : VL) : Statement (.vsinLong d a l) :=
  of_two rfl rfl (opWords_two (encVC_op ..) (by decide)) (decode_two (encVC_op ..) (by decide) rfl (by simp))
theorem vcosLong (d : BitVec 8) (a : BitVec 8) (l : VL) : Statement (.vcosLong d a l) :=
  of_two rfl rfl (opWords_two (encVC_op ..) (by decide)) (decode_two (encVC_op ..) (by decide) rfl (by simp))
theorem vrintLong (d : BitVec 8) (a : BitVec 8) (l : VL) : Statement (.vrintLong d a l) :=
  of_two rfl rfl (opWords_two (encVC_op ..) (by decide)) (decode_two (encVC_op ..) (by decide) rfl (by simp))
theorem vandLong (d : BitVec 8) (a : BitVec 8) (b : BitVec 8) (l : VL) : Statement (.vandLong d a b l) :=
  of_two rfl rfl (opWords_two (encVC_op ..) (by decide)) (decode_two (encVC_op ..) (by decide) rfl (by simp))
theorem vorLong (d : BitVec 8) (a : BitVec 8) (b : BitVec 8) (l : VL) : Statement (.vorLong d a b l) :=
  of_two rfl rfl (opWords_two (encVC_op ..) (by decide)) (decode_two (encVC_op ..) (by decide) rfl (by simp))
theorem vxorLong (d : BitVec 8) (a : BitVec 8) (b : BitVec 8) (l : VL) : Statement (.vxorLong d a b l) :=
  of_two rfl rfl (opWords_two (encVC_op ..) (by decide)) (decode_two (encVC_op ..) (by decide) rfl (by simp))
theorem vandnLong (d : BitVec 8) (a : BitVec 8) (b : BitVec 8) (l : VL) : Statement (.vandnLong d a b l) :=
  of_two rfl rfl (opWords_two (encVC_op ..) (by decide)) (decode_two (encVC_op ..) (by decide) rfl (by simp))
theorem vshlLong (d : BitVec 8) (a : BitVec 8) (b : BitVec 8) (l : VL) : Statement (.vshlLong d a b l) :=
  of_two rfl rfl (opWords_two (encVC_op ..) (by decide)) (decode_two (encVC_op ..) (by decide) rfl (by simp))
theorem vshrLong (d : BitVec 8) (a : BitVec 8) (b : BitVec 8) (l : VL) : Statement (.vshrLong d a b l) :=
  of_two rfl rfl (opWords_two (encVC_op ..) (by decide)) (decode_two (encVC_op ..) (by decide) rfl (by simp))
theorem vmulloLong (d : BitVec 8) (a : BitVec 8) (b : BitVec 8) (l : VL) : Statement (.vmulloLong d a b l) :=
  of_two rfl rfl (opWords_two (encVC_op ..) (by decide)) (decode_two (encVC_op ..) (by decide) rfl (by simp))
theorem vmulhiLong (d : BitVec 8) (a : BitVec 8) (b : BitVec 8) (l : VL) : Statement (.vmulhiLong d a b l) :=
  of_two rfl rfl (opWords_two (encVC_op ..) (by decide)) (decode_two (encVC_op ..) (by decide) rfl (by simp))
theorem vpopcLong (d : BitVec 8) (a : BitVec 8) (l : VL) : Statement (.vpopcLong d a l) :=
  of_two rfl rfl (opWords_two (encVC_op ..) (by decide)) (decode_two (encVC_op ..) (by decide) rfl (by simp))
theorem vclzLong (d : BitVec 8) (a : BitVec 8) (l : VL) : Statement (.vclzLong d a l) :=
  of_two rfl rfl (opWords_two (encVC_op ..) (by decide)) (decode_two (encVC_op ..) (by decide) rfl (by simp))
theorem vcmpEqF32Long (d : BitVec 3) (a : BitVec 8) (b : BitVec 8) (l : VL) : Statement (.vcmpEqF32Long d a b l) :=
  of_two rfl rfl (opWords_two (encVC_op ..) (by decide)) (decode_two (encVC_op ..) (by decide) rfl (by simp))
theorem vcmpNeF32Long (d : BitVec 3) (a : BitVec 8) (b : BitVec 8) (l : VL) : Statement (.vcmpNeF32Long d a b l) :=
  of_two rfl rfl (opWords_two (encVC_op ..) (by decide)) (decode_two (encVC_op ..) (by decide) rfl (by simp))
theorem vcmpLtF32Long (d : BitVec 3) (a : BitVec 8) (b : BitVec 8) (l : VL) : Statement (.vcmpLtF32Long d a b l) :=
  of_two rfl rfl (opWords_two (encVC_op ..) (by decide)) (decode_two (encVC_op ..) (by decide) rfl (by simp))
theorem vcmpLeF32Long (d : BitVec 3) (a : BitVec 8) (b : BitVec 8) (l : VL) : Statement (.vcmpLeF32Long d a b l) :=
  of_two rfl rfl (opWords_two (encVC_op ..) (by decide)) (decode_two (encVC_op ..) (by decide) rfl (by simp))
theorem vcmpGtF32Long (d : BitVec 3) (a : BitVec 8) (b : BitVec 8) (l : VL) : Statement (.vcmpGtF32Long d a b l) :=
  of_two rfl rfl (opWords_two (encVC_op ..) (by decide)) (decode_two (encVC_op ..) (by decide) rfl (by simp))
theorem vcmpGeF32Long (d : BitVec 3) (a : BitVec 8) (b : BitVec 8) (l : VL) : Statement (.vcmpGeF32Long d a b l) :=
  of_two rfl rfl (opWords_two (encVC_op ..) (by decide)) (decode_two (encVC_op ..) (by decide) rfl (by simp))
theorem vcmpEqI32Long (d : BitVec 3) (a : BitVec 8) (b : BitVec 8) (l : VL) : Statement (.vcmpEqI32Long d a b l) :=
  of_two rfl rfl (opWords_two (encVC_op ..) (by decide)) (decode_two (encVC_op ..) (by decide) rfl (by simp))
theorem vcmpNeI32Long (d : BitVec 3) (a : BitVec 8) (b : BitVec 8) (l : VL) : Statement (.vcmpNeI32Long d a b l) :=
  of_two rfl rfl (opWords_two (encVC_op ..) (by decide)) (decode_two (encVC_op ..) (by decide) rfl (by simp))
theorem vcmpLtI32Long (d : BitVec 3) (a : BitVec 8) (b : BitVec 8) (l : VL) : Statement (.vcmpLtI32Long d a b l) :=
  of_two rfl rfl (opWords_two (encVC_op ..) (by decide)) (decode_two (encVC_op ..) (by decide) rfl (by simp))
theorem vcmpLeI32Long (d : BitVec 3) (a : BitVec 8) (b : BitVec 8) (l : VL) : Statement (.vcmpLeI32Long d a b l) :=
  of_two rfl rfl (opWords_two (encVC_op ..) (by decide)) (decode_two (encVC_op ..) (by decide) rfl (by simp))
theorem vcmpGtI32Long (d : BitVec 3) (a : BitVec 8) (b : BitVec 8) (l : VL) : Statement (.vcmpGtI32Long d a b l) :=
  of_two rfl rfl (opWords_two (encVC_op ..) (by decide)) (decode_two (encVC_op ..) (by decide) rfl (by simp))
theorem vcmpGeI32Long (d : BitVec 3) (a : BitVec 8) (b : BitVec 8) (l : VL) : Statement (.vcmpGeI32Long d a b l) :=
  of_two rfl rfl (opWords_two (encVC_op ..) (by decide)) (decode_two (encVC_op ..) (by decide) rfl (by simp))
theorem vcmpLtN32Long (d : BitVec 3) (a : BitVec 8) (b : BitVec 8) (l : VL) : Statement (.vcmpLtN32Long d a b l) :=
  of_two rfl rfl (opWords_two (encVC_op ..) (by decide)) (decode_two (encVC_op ..) (by decide) rfl (by simp))
theorem vcmpLeN32Long (d : BitVec 3) (a : BitVec 8) (b : BitVec 8) (l : VL) : Statement (.vcmpLeN32Long d a b l) :=
  of_two rfl rfl (opWords_two (encVC_op ..) (by decide)) (decode_two (encVC_op ..) (by decide) rfl (by simp))
theorem vcmpGtN32Long (d : BitVec 3) (a : BitVec 8) (b : BitVec 8) (l : VL) : Statement (.vcmpGtN32Long d a b l) :=
  of_two rfl rfl (opWords_two (encVC_op ..) (by decide)) (decode_two (encVC_op ..) (by decide) rfl (by simp))
theorem vcmpGeN32Long (d : BitVec 3) (a : BitVec 8) (b : BitVec 8) (l : VL) : Statement (.vcmpGeN32Long d a b l) :=
  of_two rfl rfl (opWords_two (encVC_op ..) (by decide)) (decode_two (encVC_op ..) (by decide) rfl (by simp))
theorem vpackLong (d : BitVec 8) (a : BitVec 8) (b : BitVec 8) (l : VL) : Statement (.vpackLong d a b l) :=
  of_two rfl rfl (opWords_two (encVC_op ..) (by decide)) (decode_two (encVC_op ..) (by decide) rfl (by simp))
theorem vunploLong (d : BitVec 8) (a : BitVec 8) (l : VL) : Statement (.vunploLong d a l) :=
  of_two rfl rfl (opWords_two (encVC_op ..) (by decide)) (decode_two (encVC_op ..) (by decide) rfl (by simp))
theorem vunphiLong (d : BitVec 8) (a : BitVec 8) (l : VL) : Statement (.vunphiLong d a l) :=
  of_two rfl rfl (opWords_two (encVC_op ..) (by decide)) (decode_two (encVC_op ..) (by decide) rfl (by simp))
theorem vmovLong (d : BitVec 8) (a : BitVec 8) (l : VL) : Statement (.vmovLong d a l) :=
  of_two rfl rfl (opWords_two (encVC_op ..) (by decide)) (decode_two (encVC_op ..) (by decide) rfl (by simp))
theorem vbcstLong (d : BitVec 8) (a : BitVec 8) (b : BitVec 7) (l : VL) : Statement (.vbcstLong d a b l) :=
  of_two rfl rfl (opWords_two (encVC_op ..) (by decide)) (decode_two (encVC_op ..) (by decide) rfl (by simp))
theorem vshflLong (d : BitVec 8) (a : BitVec 8) (b : BitVec 8) (l : VL) : Statement (.vshflLong d a b l) :=
  of_two rfl rfl (opWords_two (encVC_op ..) (by decide)) (decode_two (encVC_op ..) (by decide) rfl (by simp))
theorem vbflyLong (d : BitVec 8) (a : BitVec 8) (b : BitVec 7) (l : VL) : Statement (.vbflyLong d a b l) :=
  of_two rfl rfl (opWords_two (encVC_op ..) (by decide)) (decode_two (encVC_op ..) (by decide) rfl (by simp))
theorem vlsuLong (d : BitVec 8) (a : BitVec 8) (b : BitVec 7) (l : VL) : Statement (.vlsuLong d a b l) :=
  of_two rfl rfl (opWords_two (encVC_op ..) (by decide)) (decode_two (encVC_op ..) (by decide) rfl (by simp))
theorem vlsdLong (d : BitVec 8) (a : BitVec 8) (b : BitVec 7) (l : VL) : Statement (.vlsdLong d a b l) :=
  of_two rfl rfl (opWords_two (encVC_op ..) (by decide)) (decode_two (encVC_op ..) (by decide) rfl (by simp))
theorem vscanLong (d : BitVec 8) (a : BitVec 8) (l : VL) : Statement (.vscanLong d a l) :=
  of_two rfl rfl (opWords_two (encVC_op ..) (by decide)) (decode_two (encVC_op ..) (by decide) rfl (by simp))
theorem vdot2Long (d : BitVec 8) (a : BitVec 8) (b : BitVec 8) (l : VL) : Statement (.vdot2Long d a b l) :=
  of_two rfl rfl (opWords_two (encVC_op ..) (by decide)) (decode_two (encVC_op ..) (by decide) rfl (by simp))
theorem vlane (d : BitVec 8) : Statement (.vlane d) :=
  of_one rfl rfl (opWords_one (encVC_op ..) (by decide)) (fun w2 => decode_one w2 (encVC_op ..) (by decide) rfl (by simp))
theorem vmovs (d : BitVec 8) (a : BitVec 7) : Statement (.vmovs d a) :=
  of_one rfl rfl (opWords_one (encVC_op ..) (by decide)) (fun w2 => decode_one w2 (encVC_op ..) (by decide) rfl (by simp))
theorem vgetr (d : BitVec 8) (a : BitVec 7) : Statement (.vgetr d a) :=
  of_one rfl rfl (opWords_one (encVC_op ..) (by decide)) (fun w2 => decode_one w2 (encVC_op ..) (by decide) rfl (by simp))
theorem vsetr (d : BitVec 7) (a : BitVec 8) : Statement (.vsetr d a) :=
  of_one rfl rfl (opWords_one (encVC_op ..) (by decide)) (fun w2 => decode_one w2 (encVC_op ..) (by decide) rfl (by simp))
theorem vgetl (d : BitVec 7) (a : BitVec 8) (b : BitVec 7) : Statement (.vgetl d a b) :=
  of_one rfl rfl (opWords_one (encVC_op ..) (by decide)) (fun w2 => decode_one w2 (encVC_op ..) (by decide) rfl (by simp))
theorem vputl (d : BitVec 8) (a : BitVec 7) (b : BitVec 7) : Statement (.vputl d a b) :=
  of_one rfl rfl (opWords_one (encVC_op ..) (by decide)) (fun w2 => decode_one w2 (encVC_op ..) (by decide) rfl (by simp))
theorem vpand (d : BitVec 3) (a : BitVec 3) (b : BitVec 3) : Statement (.vpand d a b) :=
  of_one rfl rfl (opWords_one (encVC_op ..) (by decide)) (fun w2 => decode_one w2 (encVC_op ..) (by decide) rfl (by simp))
theorem vpor (d : BitVec 3) (a : BitVec 3) (b : BitVec 3) : Statement (.vpor d a b) :=
  of_one rfl rfl (opWords_one (encVC_op ..) (by decide)) (fun w2 => decode_one w2 (encVC_op ..) (by decide) rfl (by simp))
theorem vpxor (d : BitVec 3) (a : BitVec 3) (b : BitVec 3) : Statement (.vpxor d a b) :=
  of_one rfl rfl (opWords_one (encVC_op ..) (by decide)) (fun w2 => decode_one w2 (encVC_op ..) (by decide) rfl (by simp))
theorem vpandn (d : BitVec 3) (a : BitVec 3) (b : BitVec 3) : Statement (.vpandn d a b) :=
  of_one rfl rfl (opWords_one (encVC_op ..) (by decide)) (fun w2 => decode_one w2 (encVC_op ..) (by decide) rfl (by simp))
theorem vpmov (d : BitVec 3) (a : BitVec 7) : Statement (.vpmov d a) :=
  of_one rfl rfl (opWords_one (encVC_op ..) (by decide)) (fun w2 => decode_one w2 (encVC_op ..) (by decide) rfl (by simp))
theorem vpget (d : BitVec 7) (a : BitVec 3) : Statement (.vpget d a) :=
  of_one rfl rfl (opWords_one (encVC_op ..) (by decide)) (fun w2 => decode_one w2 (encVC_op ..) (by decide) rfl (by simp))
theorem vvall (d : BitVec 7) (a : BitVec 3) : Statement (.vvall d a) :=
  of_one rfl rfl (opWords_one (encVC_op ..) (by decide)) (fun w2 => decode_one w2 (encVC_op ..) (by decide) rfl (by simp))
theorem vvany (d : BitVec 7) (a : BitVec 3) : Statement (.vvany d a) :=
  of_one rfl rfl (opWords_one (encVC_op ..) (by decide)) (fun w2 => decode_one w2 (encVC_op ..) (by decide) rfl (by simp))
theorem vpcnt (d : BitVec 7) (a : BitVec 3) : Statement (.vpcnt d a) :=
  of_one rfl rfl (opWords_one (encVC_op ..) (by decide)) (fun w2 => decode_one w2 (encVC_op ..) (by decide) rfl (by simp))
theorem vmovi (d : BitVec 8) (imm : BitVec 8) : Statement (.vmovi d imm) :=
  of_one rfl rfl (opWords_one (encVC_op ..) (by decide)) (fun w2 => decode_one w2 (encVC_op ..) (by decide) rfl (by simp))
theorem vcvt (d : BitVec 8) (a : BitVec 8) (dfmt : BitVec 8) (l : VL) : Statement (.vcvt d a dfmt l) :=
  of_two rfl rfl (opWords_two (encVC_op ..) (by decide)) (decode_two (encVC_op ..) (by decide) rfl (by simp))
theorem sldN8 (d : BitVec 7) (a : BitVec 7) (off : BitVec 9) : Statement (.sldN8 d a off) :=
  of_one rfl rfl (opWords_one (encMD_op ..) (by decide)) (fun w2 => decode_one w2 (encMD_op ..) (by decide) rfl (by simp))
theorem sldI8 (d : BitVec 7) (a : BitVec 7) (off : BitVec 9) : Statement (.sldI8 d a off) :=
  of_one rfl rfl (opWords_one (encMD_op ..) (by decide)) (fun w2 => decode_one w2 (encMD_op ..) (by decide) rfl (by simp))
theorem sldN16 (d : BitVec 7) (a : BitVec 7) (off : BitVec 9) : Statement (.sldN16 d a off) :=
  of_one rfl rfl (opWords_one (encMD_op ..) (by decide)) (fun w2 => decode_one w2 (encMD_op ..) (by decide) rfl (by simp))
theorem sldI16 (d : BitVec 7) (a : BitVec 7) (off : BitVec 9) : Statement (.sldI16 d a off) :=
  of_one rfl rfl (opWords_one (encMD_op ..) (by decide)) (fun w2 => decode_one w2 (encMD_op ..) (by decide) rfl (by simp))
theorem sldN32 (d : BitVec 7) (a : BitVec 7) (off : BitVec 9) : Statement (.sldN32 d a off) :=
  of_one rfl rfl (opWords_one (encMD_op ..) (by decide)) (fun w2 => decode_one w2 (encMD_op ..) (by decide) rfl (by simp))
theorem sldI32 (d : BitVec 7) (a : BitVec 7) (off : BitVec 9) : Statement (.sldI32 d a off) :=
  of_one rfl rfl (opWords_one (encMD_op ..) (by decide)) (fun w2 => decode_one w2 (encMD_op ..) (by decide) rfl (by simp))
theorem sldN64 (d : BitVec 7) (a : BitVec 7) (off : BitVec 9) : Statement (.sldN64 d a off) :=
  of_one rfl rfl (opWords_one (encMD_op ..) (by decide)) (fun w2 => decode_one w2 (encMD_op ..) (by decide) rfl (by simp))
theorem sstN8 (d : BitVec 7) (a : BitVec 7) (off : BitVec 9) : Statement (.sstN8 d a off) :=
  of_one rfl rfl (opWords_one (encMD_op ..) (by decide)) (fun w2 => decode_one w2 (encMD_op ..) (by decide) rfl (by simp))
theorem sstN16 (d : BitVec 7) (a : BitVec 7) (off : BitVec 9) : Statement (.sstN16 d a off) :=
  of_one rfl rfl (opWords_one (encMD_op ..) (by decide)) (fun w2 => decode_one w2 (encMD_op ..) (by decide) rfl (by simp))
theorem sstN32 (d : BitVec 7) (a : BitVec 7) (off : BitVec 9) : Statement (.sstN32 d a off) :=
  of_one rfl rfl (opWords_one (encMD_op ..) (by decide)) (fun w2 => decode_one w2 (encMD_op ..) (by decide) rfl (by simp))
theorem sstN64 (d : BitVec 7) (a : BitVec 7) (off : BitVec 9) : Statement (.sstN64 d a off) :=
  of_one rfl rfl (opWords_one (encMD_op ..) (by decide)) (fun w2 => decode_one w2 (encMD_op ..) (by decide) rfl (by simp))
theorem vld (d : BitVec 8) (a : BitVec 7) (off : BitVec 9) : Statement (.vld d a off) :=
  of_one rfl rfl (opWords_one (encMD_op ..) (by decide)) (fun w2 => decode_one w2 (encMD_op ..) (by decide) rfl (by simp))
theorem vst (d : BitVec 8) (a : BitVec 7) (off : BitVec 9) : Statement (.vst d a off) :=
  of_one rfl rfl (opWords_one (encMD_op ..) (by decide)) (fun w2 => decode_one w2 (encMD_op ..) (by decide) rfl (by simp))
theorem vldx (d : BitVec 8) (a : BitVec 7) (sc : Bool) (x : BitVec 8) : Statement (.vldx d a sc x) :=
  of_one rfl rfl (opWords_one (encMX_op ..) (by decide)) (fun w2 => decode_one w2 (encMX_op ..) (by decide) rfl (by simp))
theorem vstx (d : BitVec 8) (a : BitVec 7) (sc : Bool) (x : BitVec 8) : Statement (.vstx d a sc x) :=
  of_one rfl rfl (opWords_one (encMX_op ..) (by decide)) (fun w2 => decode_one w2 (encMX_op ..) (by decide) rfl (by simp))
theorem vldro (d : BitVec 8) (a : BitVec 7) (off : BitVec 9) : Statement (.vldro d a off) :=
  of_one rfl rfl (opWords_one (encMD_op ..) (by decide)) (fun w2 => decode_one w2 (encMD_op ..) (by decide) rfl (by simp))
theorem vldrox (d : BitVec 8) (a : BitVec 7) (sc : Bool) (x : BitVec 8) : Statement (.vldrox d a sc x) :=
  of_one rfl rfl (opWords_one (encMX_op ..) (by decide)) (fun w2 => decode_one w2 (encMX_op ..) (by decide) rfl (by simp))
theorem vldv (d : BitVec 8) (a : BitVec 7) (off : BitVec 9) : Statement (.vldv d a off) :=
  of_one rfl rfl (opWords_one (encMD_op ..) (by decide)) (fun w2 => decode_one w2 (encMD_op ..) (by decide) rfl (by simp))
theorem vstv (d : BitVec 8) (a : BitVec 7) (off : BitVec 9) : Statement (.vstv d a off) :=
  of_one rfl rfl (opWords_one (encMD_op ..) (by decide)) (fun w2 => decode_one w2 (encMD_op ..) (by decide) rfl (by simp))
theorem vldvx (d : BitVec 8) (a : BitVec 7) (sc : Bool) (x : BitVec 8) : Statement (.vldvx d a sc x) :=
  of_one rfl rfl (opWords_one (encMX_op ..) (by decide)) (fun w2 => decode_one w2 (encMX_op ..) (by decide) rfl (by simp))
theorem vstvx (d : BitVec 8) (a : BitVec 7) (sc : Bool) (x : BitVec 8) : Statement (.vstvx d a sc x) :=
  of_one rfl rfl (opWords_one (encMX_op ..) (by decide)) (fun w2 => decode_one w2 (encMX_op ..) (by decide) rfl (by simp))
theorem vsts (d : BitVec 8) (a : BitVec 7) (off : BitVec 9) : Statement (.vsts d a off) :=
  of_one rfl rfl (opWords_one (encMD_op ..) (by decide)) (fun w2 => decode_one w2 (encMD_op ..) (by decide) rfl (by simp))
theorem vaadd (d : BitVec 8) (a : BitVec 7) (sc : Bool) (x : BitVec 8) : Statement (.vaadd d a sc x) :=
  of_one rfl rfl (opWords_one (encMX_op ..) (by decide)) (fun w2 => decode_one w2 (encMX_op ..) (by decide) rfl (by simp))
theorem vamin (d : BitVec 8) (a : BitVec 7) (sc : Bool) (x : BitVec 8) : Statement (.vamin d a sc x) :=
  of_one rfl rfl (opWords_one (encMX_op ..) (by decide)) (fun w2 => decode_one w2 (encMX_op ..) (by decide) rfl (by simp))
theorem vamax (d : BitVec 8) (a : BitVec 7) (sc : Bool) (x : BitVec 8) : Statement (.vamax d a sc x) :=
  of_one rfl rfl (opWords_one (encMX_op ..) (by decide)) (fun w2 => decode_one w2 (encMX_op ..) (by decide) rfl (by simp))
theorem vaand (d : BitVec 8) (a : BitVec 7) (sc : Bool) (x : BitVec 8) : Statement (.vaand d a sc x) :=
  of_one rfl rfl (opWords_one (encMX_op ..) (by decide)) (fun w2 => decode_one w2 (encMX_op ..) (by decide) rfl (by simp))
theorem vaor (d : BitVec 8) (a : BitVec 7) (sc : Bool) (x : BitVec 8) : Statement (.vaor d a sc x) :=
  of_one rfl rfl (opWords_one (encMX_op ..) (by decide)) (fun w2 => decode_one w2 (encMX_op ..) (by decide) rfl (by simp))
theorem vaxor (d : BitVec 8) (a : BitVec 7) (sc : Bool) (x : BitVec 8) : Statement (.vaxor d a sc x) :=
  of_one rfl rfl (opWords_one (encMX_op ..) (by decide)) (fun w2 => decode_one w2 (encMX_op ..) (by decide) rfl (by simp))
theorem vaxchg (d : BitVec 8) (a : BitVec 7) (sc : Bool) (x : BitVec 8) : Statement (.vaxchg d a sc x) :=
  of_one rfl rfl (opWords_one (encMX_op ..) (by decide)) (fun w2 => decode_one w2 (encMX_op ..) (by decide) rfl (by simp))
theorem vacas (d : BitVec 8) (a : BitVec 7) (sc : Bool) (x : BitVec 8) : Statement (.vacas d a sc x) :=
  of_one rfl rfl (opWords_one (encMX_op ..) (by decide)) (fun w2 => decode_one w2 (encMX_op ..) (by decide) rfl (by simp))
theorem vafadd (d : BitVec 8) (a : BitVec 7) (sc : Bool) (x : BitVec 8) : Statement (.vafadd d a sc x) :=
  of_one rfl rfl (opWords_one (encMX_op ..) (by decide)) (fun w2 => decode_one w2 (encMX_op ..) (by decide) rfl (by simp))
theorem vafmin (d : BitVec 8) (a : BitVec 7) (sc : Bool) (x : BitVec 8) : Statement (.vafmin d a sc x) :=
  of_one rfl rfl (opWords_one (encMX_op ..) (by decide)) (fun w2 => decode_one w2 (encMX_op ..) (by decide) rfl (by simp))
theorem vafmax (d : BitVec 8) (a : BitVec 7) (sc : Bool) (x : BitVec 8) : Statement (.vafmax d a sc x) :=
  of_one rfl rfl (opWords_one (encMX_op ..) (by decide)) (fun w2 => decode_one w2 (encMX_op ..) (by decide) rfl (by simp))
theorem vredadd (d : BitVec 8) (a : BitVec 7) (sc : Bool) (x : BitVec 8) : Statement (.vredadd d a sc x) :=
  of_one rfl rfl (opWords_one (encMX_op ..) (by decide)) (fun w2 => decode_one w2 (encMX_op ..) (by decide) rfl (by simp))
theorem vredmin (d : BitVec 8) (a : BitVec 7) (sc : Bool) (x : BitVec 8) : Statement (.vredmin d a sc x) :=
  of_one rfl rfl (opWords_one (encMX_op ..) (by decide)) (fun w2 => decode_one w2 (encMX_op ..) (by decide) rfl (by simp))
theorem vredmax (d : BitVec 8) (a : BitVec 7) (sc : Bool) (x : BitVec 8) : Statement (.vredmax d a sc x) :=
  of_one rfl rfl (opWords_one (encMX_op ..) (by decide)) (fun w2 => decode_one w2 (encMX_op ..) (by decide) rfl (by simp))
theorem vredand (d : BitVec 8) (a : BitVec 7) (sc : Bool) (x : BitVec 8) : Statement (.vredand d a sc x) :=
  of_one rfl rfl (opWords_one (encMX_op ..) (by decide)) (fun w2 => decode_one w2 (encMX_op ..) (by decide) rfl (by simp))
theorem vredor (d : BitVec 8) (a : BitVec 7) (sc : Bool) (x : BitVec 8) : Statement (.vredor d a sc x) :=
  of_one rfl rfl (opWords_one (encMX_op ..) (by decide)) (fun w2 => decode_one w2 (encMX_op ..) (by decide) rfl (by simp))
theorem vredxor (d : BitVec 8) (a : BitVec 7) (sc : Bool) (x : BitVec 8) : Statement (.vredxor d a sc x) :=
  of_one rfl rfl (opWords_one (encMX_op ..) (by decide)) (fun w2 => decode_one w2 (encMX_op ..) (by decide) rfl (by simp))
theorem vredfadd (d : BitVec 8) (a : BitVec 7) (sc : Bool) (x : BitVec 8) : Statement (.vredfadd d a sc x) :=
  of_one rfl rfl (opWords_one (encMX_op ..) (by decide)) (fun w2 => decode_one w2 (encMX_op ..) (by decide) rfl (by simp))
theorem vredfmin (d : BitVec 8) (a : BitVec 7) (sc : Bool) (x : BitVec 8) : Statement (.vredfmin d a sc x) :=
  of_one rfl rfl (opWords_one (encMX_op ..) (by decide)) (fun w2 => decode_one w2 (encMX_op ..) (by decide) rfl (by simp))
theorem vredfmax (d : BitVec 8) (a : BitVec 7) (sc : Bool) (x : BitVec 8) : Statement (.vredfmax d a sc x) :=
  of_one rfl rfl (opWords_one (encMX_op ..) (by decide)) (fun w2 => decode_one w2 (encMX_op ..) (by decide) rfl (by simp))
theorem sseqadd (d : BitVec 7) (a : BitVec 7) (off : BitVec 9) : Statement (.sseqadd d a off) :=
  of_one rfl rfl (opWords_one (encMD_op ..) (by decide)) (fun w2 => decode_one w2 (encMD_op ..) (by decide) rfl (by simp))
theorem sarwait (d : BitVec 7) (a : BitVec 7) (off : BitVec 9) : Statement (.sarwait d a off) :=
  of_one rfl rfl (opWords_one (encMD_op ..) (by decide)) (fun w2 => decode_one w2 (encMD_op ..) (by decide) rfl (by simp))
theorem saadd (d : BitVec 7) (a : BitVec 7) (off : BitVec 9) : Statement (.saadd d a off) :=
  of_one rfl rfl (opWords_one (encMD_op ..) (by decide)) (fun w2 => decode_one w2 (encMD_op ..) (by decide) rfl (by simp))
theorem sacas (d : BitVec 7) (a : BitVec 7) (off : BitVec 9) : Statement (.sacas d a off) :=
  of_one rfl rfl (opWords_one (encMD_op ..) (by decide)) (fun w2 => decode_one w2 (encMD_op ..) (by decide) rfl (by simp))
theorem fence (paths : BitVec 8) (scope : BitVec 3) : Statement (.fence paths scope) :=
  of_one rfl rfl (opWords_one (encMF_op ..) (by decide)) (fun w2 => decode_one w2 (encMF_op ..) (by decide) rfl (by simp [decodeFence]))
theorem fenceAcq (paths : BitVec 8) (scope : BitVec 3) : Statement (.fenceAcq paths scope) :=
  of_one rfl rfl (opWords_one (encMF_op ..) (by decide)) (fun w2 => decode_one w2 (encMF_op ..) (by decide) rfl (by simp [decodeFence]))
theorem fenceRel (paths : BitVec 8) (scope : BitVec 3) : Statement (.fenceRel paths scope) :=
  of_one rfl rfl (opWords_one (encMF_op ..) (by decide)) (fun w2 => decode_one w2 (encMF_op ..) (by decide) rfl (by simp [decodeFence]))
theorem roinv : Statement .roinv :=
  of_one rfl rfl (opWords_one (encMF_op ..) (by decide)) (fun w2 => decode_one w2 (encMF_op ..) (by decide) rfl (by simp))
theorem vpref (a : BitVec 7) (off : BitVec 9) : Statement (.vpref a off) :=
  of_one rfl rfl (opWords_one (encMD_op ..) (by decide)) (fun w2 => decode_one w2 (encMD_op ..) (by decide) rfl (by simp))
theorem spref (a : BitVec 7) (off : BitVec 9) : Statement (.spref a off) :=
  of_one rfl rfl (opWords_one (encMD_op ..) (by decide)) (fun w2 => decode_one w2 (encMD_op ..) (by decide) rfl (by simp))
theorem sldN8Long (d : BitVec 7) (a : BitVec 7) (off : BitVec 9) (l : ML) : Statement (.sldN8Long d a off l) :=
  of_two rfl rfl (opWords_two (encMD_op ..) (by decide)) (decode_two (encMD_op ..) (by decide) rfl (by simp))
theorem sldI8Long (d : BitVec 7) (a : BitVec 7) (off : BitVec 9) (l : ML) : Statement (.sldI8Long d a off l) :=
  of_two rfl rfl (opWords_two (encMD_op ..) (by decide)) (decode_two (encMD_op ..) (by decide) rfl (by simp))
theorem sldN16Long (d : BitVec 7) (a : BitVec 7) (off : BitVec 9) (l : ML) : Statement (.sldN16Long d a off l) :=
  of_two rfl rfl (opWords_two (encMD_op ..) (by decide)) (decode_two (encMD_op ..) (by decide) rfl (by simp))
theorem sldI16Long (d : BitVec 7) (a : BitVec 7) (off : BitVec 9) (l : ML) : Statement (.sldI16Long d a off l) :=
  of_two rfl rfl (opWords_two (encMD_op ..) (by decide)) (decode_two (encMD_op ..) (by decide) rfl (by simp))
theorem sldN32Long (d : BitVec 7) (a : BitVec 7) (off : BitVec 9) (l : ML) : Statement (.sldN32Long d a off l) :=
  of_two rfl rfl (opWords_two (encMD_op ..) (by decide)) (decode_two (encMD_op ..) (by decide) rfl (by simp))
theorem sldI32Long (d : BitVec 7) (a : BitVec 7) (off : BitVec 9) (l : ML) : Statement (.sldI32Long d a off l) :=
  of_two rfl rfl (opWords_two (encMD_op ..) (by decide)) (decode_two (encMD_op ..) (by decide) rfl (by simp))
theorem sldN64Long (d : BitVec 7) (a : BitVec 7) (off : BitVec 9) (l : ML) : Statement (.sldN64Long d a off l) :=
  of_two rfl rfl (opWords_two (encMD_op ..) (by decide)) (decode_two (encMD_op ..) (by decide) rfl (by simp))
theorem sstN8Long (d : BitVec 7) (a : BitVec 7) (off : BitVec 9) (l : ML) : Statement (.sstN8Long d a off l) :=
  of_two rfl rfl (opWords_two (encMD_op ..) (by decide)) (decode_two (encMD_op ..) (by decide) rfl (by simp))
theorem sstN16Long (d : BitVec 7) (a : BitVec 7) (off : BitVec 9) (l : ML) : Statement (.sstN16Long d a off l) :=
  of_two rfl rfl (opWords_two (encMD_op ..) (by decide)) (decode_two (encMD_op ..) (by decide) rfl (by simp))
theorem sstN32Long (d : BitVec 7) (a : BitVec 7) (off : BitVec 9) (l : ML) : Statement (.sstN32Long d a off l) :=
  of_two rfl rfl (opWords_two (encMD_op ..) (by decide)) (decode_two (encMD_op ..) (by decide) rfl (by simp))
theorem sstN64Long (d : BitVec 7) (a : BitVec 7) (off : BitVec 9) (l : ML) : Statement (.sstN64Long d a off l) :=
  of_two rfl rfl (opWords_two (encMD_op ..) (by decide)) (decode_two (encMD_op ..) (by decide) rfl (by simp))
theorem vldLong (d : BitVec 8) (a : BitVec 7) (off : BitVec 9) (l : ML) : Statement (.vldLong d a off l) :=
  of_two rfl rfl (opWords_two (encMD_op ..) (by decide)) (decode_two (encMD_op ..) (by decide) rfl (by simp))
theorem vstLong (d : BitVec 8) (a : BitVec 7) (off : BitVec 9) (l : ML) : Statement (.vstLong d a off l) :=
  of_two rfl rfl (opWords_two (encMD_op ..) (by decide)) (decode_two (encMD_op ..) (by decide) rfl (by simp))
theorem vldxLong (d : BitVec 8) (a : BitVec 7) (sc : Bool) (x : BitVec 8) (l : ML) : Statement (.vldxLong d a sc x l) :=
  of_two rfl rfl (opWords_two (encMX_op ..) (by decide)) (decode_two (encMX_op ..) (by decide) rfl (by simp))
theorem vstxLong (d : BitVec 8) (a : BitVec 7) (sc : Bool) (x : BitVec 8) (l : ML) : Statement (.vstxLong d a sc x l) :=
  of_two rfl rfl (opWords_two (encMX_op ..) (by decide)) (decode_two (encMX_op ..) (by decide) rfl (by simp))
theorem vldroLong (d : BitVec 8) (a : BitVec 7) (off : BitVec 9) (l : ML) : Statement (.vldroLong d a off l) :=
  of_two rfl rfl (opWords_two (encMD_op ..) (by decide)) (decode_two (encMD_op ..) (by decide) rfl (by simp))
theorem vldroxLong (d : BitVec 8) (a : BitVec 7) (sc : Bool) (x : BitVec 8) (l : ML) : Statement (.vldroxLong d a sc x l) :=
  of_two rfl rfl (opWords_two (encMX_op ..) (by decide)) (decode_two (encMX_op ..) (by decide) rfl (by simp))
theorem vldvLong (d : BitVec 8) (a : BitVec 7) (off : BitVec 9) (l : ML) : Statement (.vldvLong d a off l) :=
  of_two rfl rfl (opWords_two (encMD_op ..) (by decide)) (decode_two (encMD_op ..) (by decide) rfl (by simp))
theorem vstvLong (d : BitVec 8) (a : BitVec 7) (off : BitVec 9) (l : ML) : Statement (.vstvLong d a off l) :=
  of_two rfl rfl (opWords_two (encMD_op ..) (by decide)) (decode_two (encMD_op ..) (by decide) rfl (by simp))
theorem vldvxLong (d : BitVec 8) (a : BitVec 7) (sc : Bool) (x : BitVec 8) (l : ML) : Statement (.vldvxLong d a sc x l) :=
  of_two rfl rfl (opWords_two (encMX_op ..) (by decide)) (decode_two (encMX_op ..) (by decide) rfl (by simp))
theorem vstvxLong (d : BitVec 8) (a : BitVec 7) (sc : Bool) (x : BitVec 8) (l : ML) : Statement (.vstvxLong d a sc x l) :=
  of_two rfl rfl (opWords_two (encMX_op ..) (by decide)) (decode_two (encMX_op ..) (by decide) rfl (by simp))
theorem vstsLong (d : BitVec 8) (a : BitVec 7) (off : BitVec 9) (l : ML) : Statement (.vstsLong d a off l) :=
  of_two rfl rfl (opWords_two (encMD_op ..) (by decide)) (decode_two (encMD_op ..) (by decide) rfl (by simp))
theorem vaaddLong (d : BitVec 8) (a : BitVec 7) (sc : Bool) (x : BitVec 8) (l : ML) : Statement (.vaaddLong d a sc x l) :=
  of_two rfl rfl (opWords_two (encMX_op ..) (by decide)) (decode_two (encMX_op ..) (by decide) rfl (by simp))
theorem vaminLong (d : BitVec 8) (a : BitVec 7) (sc : Bool) (x : BitVec 8) (l : ML) : Statement (.vaminLong d a sc x l) :=
  of_two rfl rfl (opWords_two (encMX_op ..) (by decide)) (decode_two (encMX_op ..) (by decide) rfl (by simp))
theorem vamaxLong (d : BitVec 8) (a : BitVec 7) (sc : Bool) (x : BitVec 8) (l : ML) : Statement (.vamaxLong d a sc x l) :=
  of_two rfl rfl (opWords_two (encMX_op ..) (by decide)) (decode_two (encMX_op ..) (by decide) rfl (by simp))
theorem vaandLong (d : BitVec 8) (a : BitVec 7) (sc : Bool) (x : BitVec 8) (l : ML) : Statement (.vaandLong d a sc x l) :=
  of_two rfl rfl (opWords_two (encMX_op ..) (by decide)) (decode_two (encMX_op ..) (by decide) rfl (by simp))
theorem vaorLong (d : BitVec 8) (a : BitVec 7) (sc : Bool) (x : BitVec 8) (l : ML) : Statement (.vaorLong d a sc x l) :=
  of_two rfl rfl (opWords_two (encMX_op ..) (by decide)) (decode_two (encMX_op ..) (by decide) rfl (by simp))
theorem vaxorLong (d : BitVec 8) (a : BitVec 7) (sc : Bool) (x : BitVec 8) (l : ML) : Statement (.vaxorLong d a sc x l) :=
  of_two rfl rfl (opWords_two (encMX_op ..) (by decide)) (decode_two (encMX_op ..) (by decide) rfl (by simp))
theorem vaxchgLong (d : BitVec 8) (a : BitVec 7) (sc : Bool) (x : BitVec 8) (l : ML) : Statement (.vaxchgLong d a sc x l) :=
  of_two rfl rfl (opWords_two (encMX_op ..) (by decide)) (decode_two (encMX_op ..) (by decide) rfl (by simp))
theorem vacasLong (d : BitVec 8) (a : BitVec 7) (sc : Bool) (x : BitVec 8) (l : ML) : Statement (.vacasLong d a sc x l) :=
  of_two rfl rfl (opWords_two (encMX_op ..) (by decide)) (decode_two (encMX_op ..) (by decide) rfl (by simp))
theorem vafaddLong (d : BitVec 8) (a : BitVec 7) (sc : Bool) (x : BitVec 8) (l : ML) : Statement (.vafaddLong d a sc x l) :=
  of_two rfl rfl (opWords_two (encMX_op ..) (by decide)) (decode_two (encMX_op ..) (by decide) rfl (by simp))
theorem vafminLong (d : BitVec 8) (a : BitVec 7) (sc : Bool) (x : BitVec 8) (l : ML) : Statement (.vafminLong d a sc x l) :=
  of_two rfl rfl (opWords_two (encMX_op ..) (by decide)) (decode_two (encMX_op ..) (by decide) rfl (by simp))
theorem vafmaxLong (d : BitVec 8) (a : BitVec 7) (sc : Bool) (x : BitVec 8) (l : ML) : Statement (.vafmaxLong d a sc x l) :=
  of_two rfl rfl (opWords_two (encMX_op ..) (by decide)) (decode_two (encMX_op ..) (by decide) rfl (by simp))
theorem vredaddLong (d : BitVec 8) (a : BitVec 7) (sc : Bool) (x : BitVec 8) (l : ML) : Statement (.vredaddLong d a sc x l) :=
  of_two rfl rfl (opWords_two (encMX_op ..) (by decide)) (decode_two (encMX_op ..) (by decide) rfl (by simp))
theorem vredminLong (d : BitVec 8) (a : BitVec 7) (sc : Bool) (x : BitVec 8) (l : ML) : Statement (.vredminLong d a sc x l) :=
  of_two rfl rfl (opWords_two (encMX_op ..) (by decide)) (decode_two (encMX_op ..) (by decide) rfl (by simp))
theorem vredmaxLong (d : BitVec 8) (a : BitVec 7) (sc : Bool) (x : BitVec 8) (l : ML) : Statement (.vredmaxLong d a sc x l) :=
  of_two rfl rfl (opWords_two (encMX_op ..) (by decide)) (decode_two (encMX_op ..) (by decide) rfl (by simp))
theorem vredandLong (d : BitVec 8) (a : BitVec 7) (sc : Bool) (x : BitVec 8) (l : ML) : Statement (.vredandLong d a sc x l) :=
  of_two rfl rfl (opWords_two (encMX_op ..) (by decide)) (decode_two (encMX_op ..) (by decide) rfl (by simp))
theorem vredorLong (d : BitVec 8) (a : BitVec 7) (sc : Bool) (x : BitVec 8) (l : ML) : Statement (.vredorLong d a sc x l) :=
  of_two rfl rfl (opWords_two (encMX_op ..) (by decide)) (decode_two (encMX_op ..) (by decide) rfl (by simp))
theorem vredxorLong (d : BitVec 8) (a : BitVec 7) (sc : Bool) (x : BitVec 8) (l : ML) : Statement (.vredxorLong d a sc x l) :=
  of_two rfl rfl (opWords_two (encMX_op ..) (by decide)) (decode_two (encMX_op ..) (by decide) rfl (by simp))
theorem vredfaddLong (d : BitVec 8) (a : BitVec 7) (sc : Bool) (x : BitVec 8) (l : ML) : Statement (.vredfaddLong d a sc x l) :=
  of_two rfl rfl (opWords_two (encMX_op ..) (by decide)) (decode_two (encMX_op ..) (by decide) rfl (by simp))
theorem vredfminLong (d : BitVec 8) (a : BitVec 7) (sc : Bool) (x : BitVec 8) (l : ML) : Statement (.vredfminLong d a sc x l) :=
  of_two rfl rfl (opWords_two (encMX_op ..) (by decide)) (decode_two (encMX_op ..) (by decide) rfl (by simp))
theorem vredfmaxLong (d : BitVec 8) (a : BitVec 7) (sc : Bool) (x : BitVec 8) (l : ML) : Statement (.vredfmaxLong d a sc x l) :=
  of_two rfl rfl (opWords_two (encMX_op ..) (by decide)) (decode_two (encMX_op ..) (by decide) rfl (by simp))
theorem sseqaddLong (d : BitVec 7) (a : BitVec 7) (off : BitVec 9) (l : ML) : Statement (.sseqaddLong d a off l) :=
  of_two rfl rfl (opWords_two (encMD_op ..) (by decide)) (decode_two (encMD_op ..) (by decide) rfl (by simp))
theorem sarwaitLong (d : BitVec 7) (a : BitVec 7) (off : BitVec 9) (l : ML) : Statement (.sarwaitLong d a off l) :=
  of_two rfl rfl (opWords_two (encMD_op ..) (by decide)) (decode_two (encMD_op ..) (by decide) rfl (by simp))
theorem saaddLong (d : BitVec 7) (a : BitVec 7) (off : BitVec 9) (l : ML) : Statement (.saaddLong d a off l) :=
  of_two rfl rfl (opWords_two (encMD_op ..) (by decide)) (decode_two (encMD_op ..) (by decide) rfl (by simp))
theorem sacasLong (d : BitVec 7) (a : BitVec 7) (off : BitVec 9) (l : ML) : Statement (.sacasLong d a off l) :=
  of_two rfl rfl (opWords_two (encMD_op ..) (by decide)) (decode_two (encMD_op ..) (by decide) rfl (by simp))
theorem mma (t : BitVec 7) (x : BitVec 5) (y : BitVec 5) (qn : Bool) (q : BitVec 4) : Statement (.mma t x y qn q) :=
  of_one rfl rfl (opWords_one (encMT_op ..) (by decide)) (fun w2 => decode_one w2 (encMT_op ..) (by decide) rfl (by simp))
theorem mdual (t : BitVec 7) (x : BitVec 5) (y : BitVec 5) (qn : Bool) (q : BitVec 4) : Statement (.mdual t x y qn q) :=
  of_one rfl rfl (opWords_one (encMT_op ..) (by decide)) (fun w2 => decode_one w2 (encMT_op ..) (by decide) rfl (by simp))
theorem mclr (t : BitVec 7) (qn : Bool) (q : BitVec 4) : Statement (.mclr t qn q) :=
  of_one rfl rfl (opWords_one (encMT_op ..) (by decide)) (fun w2 => decode_one w2 (encMT_op ..) (by decide) rfl (by simp))
theorem mdrain (t : BitVec 7) (x : BitVec 5) (qn : Bool) (q : BitVec 4) : Statement (.mdrain t x qn q) :=
  of_one rfl rfl (opWords_one (encMT_op ..) (by decide)) (fun w2 => decode_one w2 (encMT_op ..) (by decide) rfl (by simp))
theorem mstash (t : BitVec 7) (x : BitVec 5) (qn : Bool) (q : BitVec 4) : Statement (.mstash t x qn q) :=
  of_one rfl rfl (opWords_one (encMT_op ..) (by decide)) (fun w2 => decode_one w2 (encMT_op ..) (by decide) rfl (by simp))
theorem mmaxr (x : BitVec 5) (qn : Bool) (q : BitVec 4) : Statement (.mmaxr x qn q) :=
  of_one rfl rfl (opWords_one (encMT_op ..) (by decide)) (fun w2 => decode_one w2 (encMT_op ..) (by decide) rfl (by simp))
theorem mmaLong (t : BitVec 7) (x : BitVec 5) (y : BitVec 5) (qn : Bool) (q : BitVec 4) (imm : BitVec 32) : Statement (.mmaLong t x y qn q imm) :=
  of_two rfl rfl (opWords_two (encMT_op ..) (by decide)) (decode_two (encMT_op ..) (by decide) rfl (by simp))
theorem mdualLong (t : BitVec 7) (x : BitVec 5) (y : BitVec 5) (qn : Bool) (q : BitVec 4) (imm : BitVec 32) : Statement (.mdualLong t x y qn q imm) :=
  of_two rfl rfl (opWords_two (encMT_op ..) (by decide)) (decode_two (encMT_op ..) (by decide) rfl (by simp))
theorem mdrainLong (t : BitVec 7) (x : BitVec 5) (qn : Bool) (q : BitVec 4) (imm : BitVec 32) : Statement (.mdrainLong t x qn q imm) :=
  of_two rfl rfl (opWords_two (encMT_op ..) (by decide)) (decode_two (encMT_op ..) (by decide) rfl (by simp))
theorem mstashLong (t : BitVec 7) (x : BitVec 5) (qn : Bool) (q : BitVec 4) (imm : BitVec 32) : Statement (.mstashLong t x qn q imm) :=
  of_two rfl rfl (opWords_two (encMT_op ..) (by decide)) (decode_two (encMT_op ..) (by decide) rfl (by simp))
theorem mringConfig (n : BitVec 8) : Statement (.mringConfig n) :=
  of_one rfl rfl (opWords_one (encMK_op ..) (by decide)) (fun w2 => decode_one w2 (encMK_op ..) (by decide) rfl (by dsimp only; unfold decodeMring; rw [encMK_low _ _ _ 0 2 (by decide), if_pos (by decide), encMK_n]))
theorem mringAdvance (n : BitVec 8) : Statement (.mringAdvance n) :=
  of_one rfl rfl (opWords_one (encMK_op ..) (by decide)) (fun w2 => decode_one w2 (encMK_op ..) (by decide) rfl (by dsimp only; unfold decodeMring; rw [encMK_low _ _ _ 0 2 (by decide), if_neg (by decide), if_pos (by decide), encMK_n]))
theorem mtqset (n : BitVec 8) (imm : BitVec 16) : Statement (.mtqset n imm) :=
  of_one rfl rfl (opWords_one (encMK_op ..) (by decide)) (fun w2 => decode_one w2 (encMK_op ..) (by decide) rfl (by simp))
theorem mwait (n : BitVec 8) : Statement (.mwait n) :=
  of_one rfl rfl (opWords_one (encMK_op ..) (by decide)) (fun w2 => decode_one w2 (encMK_op ..) (by decide) rfl (by simp))
theorem marrive (n : BitVec 8) : Statement (.marrive n) :=
  of_one rfl rfl (opWords_one (encMK_op ..) (by decide)) (fun w2 => decode_one w2 (encMK_op ..) (by decide) rfl (by simp))
theorem mfmt (n : BitVec 8) : Statement (.mfmt n) :=
  of_one rfl rfl (opWords_one (encMK_op ..) (by decide)) (fun w2 => decode_one w2 (encMK_op ..) (by decide) rfl (by simp))
theorem mend : Statement .mend :=
  of_one rfl rfl (opWords_one (encMK_op ..) (by decide)) (fun w2 => decode_one w2 (encMK_op ..) (by decide) rfl (by simp))
theorem mreuse (sel : BitVec 3) : Statement (.mreuse sel) :=
  of_one rfl rfl (opWords_one (encMK_op ..) (by decide)) (fun w2 => decode_one w2 (encMK_op ..) (by decide) rfl (by
      dsimp only; unfold decodeMreuse
      rw [encMK_low _ _ _ 3 13 (by decide), encMK_low _ _ _ 0 3 (by decide), if_pos (by revert sel; decide)]
      exact congrArg _ (by revert sel; decide)))
theorem mnop : Statement .mnop :=
  of_one rfl rfl (opWords_one (encMK_op ..) (by decide)) (fun w2 => decode_one w2 (encMK_op ..) (by decide) rfl (by simp))
theorem mfmtLong (n : BitVec 8) (imm : BitVec 32) : Statement (.mfmtLong n imm) :=
  of_two rfl rfl (opWords_two (encMK_op ..) (by decide)) (decode_two (encMK_op ..) (by decide) rfl (by simp))
theorem mdesc (n : BitVec 8) (imm : BitVec 32) : Statement (.mdesc n imm) :=
  of_two rfl rfl (opWords_two (encMK_op ..) (by decide)) (decode_two (encMK_op ..) (by decide) rfl (by simp))
theorem mloop (count : BitVec 16) (off : BitVec 32) : Statement (.mloop count off) :=
  of_two rfl rfl (opWords_two (encMK_op ..) (by decide)) (decode_two (encMK_op ..) (by decide) rfl (by simp))
theorem mbra (n : BitVec 8) (inv : Bool) (off : BitVec 32) : Statement (.mbra n inv off) :=
  of_two rfl rfl (opWords_two (encMK_op ..) (by decide)) (decode_two (encMK_op ..) (by decide) rfl (by
      dsimp only; unfold decodeMbra
      rw [encMK_low _ _ _ 1 15 (by decide), encMK_n, encMK_flag, if_pos (by revert inv; decide)]
      exact congrArg (fun b => Instr.mbra n b off) (by revert inv; decide)))
theorem kemit (d : BitVec 8) (a : BitVec 7) (b : BitVec 7) : Statement (.kemit d a b) :=
  of_one rfl rfl (opWords_one (encEC_op ..) (by decide)) (fun w2 => decode_one w2 (encEC_op ..) (by decide) rfl (by simp))
theorem srtrun (d : BitVec 7) (a : BitVec 7) (b : BitVec 7) : Statement (.srtrun d a b) :=
  of_one rfl rfl (opWords_one (encEC_op ..) (by decide)) (fun w2 => decode_one w2 (encEC_op ..) (by decide) rfl (by simp))
theorem srtmrg (d : BitVec 7) (a : BitVec 7) (b : BitVec 7) : Statement (.srtmrg d a b) :=
  of_one rfl rfl (opWords_one (encEC_op ..) (by decide)) (fun w2 => decode_one w2 (encEC_op ..) (by decide) rfl (by simp))
theorem srttab (d : BitVec 7) (a : BitVec 7) (b : BitVec 7) : Statement (.srttab d a b) :=
  of_one rfl rfl (opWords_one (encEC_op ..) (by decide)) (fun w2 => decode_one w2 (encEC_op ..) (by decide) rfl (by simp))
theorem vblend (d : BitVec 7) (a : BitVec 7) (b : BitVec 7) : Statement (.vblend d a b) :=
  of_one rfl rfl (opWords_one (encEC_op ..) (by decide)) (fun w2 => decode_one w2 (encEC_op ..) (by decide) rfl (by simp))
theorem vblendg (d : BitVec 7) (a : BitVec 7) (b : BitVec 7) : Statement (.vblendg d a b) :=
  of_one rfl rfl (opWords_one (encEC_op ..) (by decide)) (fun w2 => decode_one w2 (encEC_op ..) (by decide) rfl (by simp))
theorem gdeg (d : BitVec 7) (a : BitVec 7) (b : BitVec 7) : Statement (.gdeg d a b) :=
  of_one rfl rfl (opWords_one (encEC_op ..) (by decide)) (fun w2 => decode_one w2 (encEC_op ..) (by decide) rfl (by simp))
theorem gdes (d : BitVec 7) (a : BitVec 7) (b : BitVec 7) : Statement (.gdes d a b) :=
  of_one rfl rfl (opWords_one (encEC_op ..) (by decide)) (fun w2 => decode_one w2 (encEC_op ..) (by decide) rfl (by simp))
theorem claimPost (d : BitVec 7) (a : BitVec 7) (b : BitVec 7) : Statement (.claimPost d a b) :=
  of_one rfl rfl (opWords_one (encEC_op ..) (by decide)) (fun w2 => decode_one w2 (encEC_op ..) (by decide) rfl (by simp))
theorem claimTake (d : BitVec 7) (a : BitVec 7) (b : BitVec 7) : Statement (.claimTake d a b) :=
  of_one rfl rfl (opWords_one (encEC_op ..) (by decide)) (fun w2 => decode_one w2 (encEC_op ..) (by decide) rfl (by simp))
theorem claimDone (d : BitVec 7) : Statement (.claimDone d) :=
  of_one rfl rfl (opWords_one (encEC_op ..) (by decide)) (fun w2 => decode_one w2 (encEC_op ..) (by decide) rfl (by simp))
theorem taskPush (d : BitVec 7) (a : BitVec 7) (b : BitVec 7) : Statement (.taskPush d a b) :=
  of_one rfl rfl (opWords_one (encEC_op ..) (by decide)) (fun w2 => decode_one w2 (encEC_op ..) (by decide) rfl (by simp))
theorem taskSpawn (d : BitVec 7) (a : BitVec 7) (b : BitVec 7) : Statement (.taskSpawn d a b) :=
  of_one rfl rfl (opWords_one (encEC_op ..) (by decide)) (fun w2 => decode_one w2 (encEC_op ..) (by decide) rfl (by simp))
theorem wpset (d : BitVec 7) (a : BitVec 7) (b : BitVec 7) : Statement (.wpset d a b) :=
  of_one rfl rfl (opWords_one (encEC_op ..) (by decide)) (fun w2 => decode_one w2 (encEC_op ..) (by decide) rfl (by simp))
theorem wpclr (d : BitVec 7) (a : BitVec 7) : Statement (.wpclr d a) :=
  of_one rfl rfl (opWords_one (encEC_op ..) (by decide)) (fun w2 => decode_one w2 (encEC_op ..) (by decide) rfl (by simp))
theorem cpy (d : BitVec 7) (a : BitVec 7) (b : BitVec 7) : Statement (.cpy d a b) :=
  of_one rfl rfl (opWords_one (encEC_op ..) (by decide)) (fun w2 => decode_one w2 (encEC_op ..) (by decide) rfl (by simp))
theorem cpym (d : BitVec 7) (a : BitVec 7) (b : BitVec 7) : Statement (.cpym d a b) :=
  of_one rfl rfl (opWords_one (encEC_op ..) (by decide)) (fun w2 => decode_one w2 (encEC_op ..) (by decide) rfl (by simp))
theorem cpydrn (d : BitVec 7) (a : BitVec 7) (b : BitVec 7) : Statement (.cpydrn d a b) :=
  of_one rfl rfl (opWords_one (encEC_op ..) (by decide)) (fun w2 => decode_one w2 (encEC_op ..) (by decide) rfl (by simp))
theorem cstage (d : BitVec 7) (a : BitVec 7) : Statement (.cstage d a) :=
  of_one rfl rfl (opWords_one (encEC_op ..) (by decide)) (fun w2 => decode_one w2 (encEC_op ..) (by decide) rfl (by simp))
theorem colRun (d : BitVec 7) (a : BitVec 7) (b : BitVec 7) : Statement (.colRun d a b) :=
  of_one rfl rfl (opWords_one (encEC_op ..) (by decide)) (fun w2 => decode_one w2 (encEC_op ..) (by decide) rfl (by simp))
theorem colSend (a : BitVec 7) (b : BitVec 7) : Statement (.colSend a b) :=
  of_one rfl rfl (opWords_one (encEC_op ..) (by decide)) (fun w2 => decode_one w2 (encEC_op ..) (by decide) rfl (by simp))
theorem colRed (a : BitVec 7) (b : BitVec 7) : Statement (.colRed a b) :=
  of_one rfl rfl (opWords_one (encEC_op ..) (by decide)) (fun w2 => decode_one w2 (encEC_op ..) (by decide) rfl (by simp))
theorem colStep : Statement .colStep :=
  of_one rfl rfl (opWords_one (encEC_op ..) (by decide)) (fun w2 => decode_one w2 (encEC_op ..) (by decide) rfl (by simp))
theorem colEnd : Statement .colEnd :=
  of_one rfl rfl (opWords_one (encEC_op ..) (by decide)) (fun w2 => decode_one w2 (encEC_op ..) (by decide) rfl (by simp))
theorem colSig (a : BitVec 7) (b : BitVec 7) : Statement (.colSig a b) :=
  of_one rfl rfl (opWords_one (encEC_op ..) (by decide)) (fun w2 => decode_one w2 (encEC_op ..) (by decide) rfl (by simp))
theorem fblkw (d : BitVec 7) (a : BitVec 7) (b : BitVec 7) : Statement (.fblkw d a b) :=
  of_one rfl rfl (opWords_one (encEC_op ..) (by decide)) (fun w2 => decode_one w2 (encEC_op ..) (by decide) rfl (by simp))
theorem fblkr (d : BitVec 7) (a : BitVec 7) (b : BitVec 7) : Statement (.fblkr d a b) :=
  of_one rfl rfl (opWords_one (encEC_op ..) (by decide)) (fun w2 => decode_one w2 (encEC_op ..) (by decide) rfl (by simp))
theorem fld (d : BitVec 7) (a : BitVec 7) : Statement (.fld d a) :=
  of_one rfl rfl (opWords_one (encEC_op ..) (by decide)) (fun w2 => decode_one w2 (encEC_op ..) (by decide) rfl (by simp))
theorem fst (d : BitVec 7) (a : BitVec 7) (b : BitVec 7) : Statement (.fst d a b) :=
  of_one rfl rfl (opWords_one (encEC_op ..) (by decide)) (fun w2 => decode_one w2 (encEC_op ..) (by decide) rfl (by simp))
theorem stepArrive (d : BitVec 7) : Statement (.stepArrive d) :=
  of_one rfl rfl (opWords_one (encEC_op ..) (by decide)) (fun w2 => decode_one w2 (encEC_op ..) (by decide) rfl (by simp))
theorem stepWait (d : BitVec 7) : Statement (.stepWait d) :=
  of_one rfl rfl (opWords_one (encEC_op ..) (by decide)) (fun w2 => decode_one w2 (encEC_op ..) (by decide) rfl (by simp))
theorem arrtgt (d : BitVec 7) (a : BitVec 7) : Statement (.arrtgt d a) :=
  of_one rfl rfl (opWords_one (encEC_op ..) (by decide)) (fun w2 => decode_one w2 (encEC_op ..) (by decide) rfl (by simp))
theorem lnkdrn (d : BitVec 7) (a : BitVec 7) : Statement (.lnkdrn d a) :=
  of_one rfl rfl (opWords_one (encEC_op ..) (by decide)) (fun w2 => decode_one w2 (encEC_op ..) (by decide) rfl (by simp))
theorem lnkctlRead (d : BitVec 7) (a : BitVec 7) (b : BitVec 7) : Statement (.lnkctlRead d a b) :=
  of_one rfl rfl (opWords_one (encEC_op ..) (by decide)) (fun w2 => decode_one w2 (encEC_op ..) (by decide) rfl (by simp))
theorem lnkctlHold (d : BitVec 7) (a : BitVec 7) (b : BitVec 7) : Statement (.lnkctlHold d a b) := of_alias rfl
theorem lnkctlRelease (d : BitVec 7) (a : BitVec 7) (b : BitVec 7) : Statement (.lnkctlRelease d a b) := of_alias rfl
theorem lnkctlDisable (d : BitVec 7) (a : BitVec 7) (b : BitVec 7) : Statement (.lnkctlDisable d a b) := of_alias rfl
theorem lnkctlEnable (d : BitVec 7) (a : BitVec 7) (b : BitVec 7) : Statement (.lnkctlEnable d a b) := of_alias rfl
theorem kemitLong (d : BitVec 8) (a : BitVec 7) (b : BitVec 7) (l : EL) : Statement (.kemitLong d a b l) :=
  of_two rfl rfl (opWords_two (encEC_op ..) (by decide)) (decode_two (encEC_op ..) (by decide) rfl (by simp))
theorem srtrunLong (d : BitVec 7) (a : BitVec 7) (b : BitVec 7) (l : EL) : Statement (.srtrunLong d a b l) :=
  of_two rfl rfl (opWords_two (encEC_op ..) (by decide)) (decode_two (encEC_op ..) (by decide) rfl (by simp))
theorem srtmrgLong (d : BitVec 7) (a : BitVec 7) (b : BitVec 7) (l : EL) : Statement (.srtmrgLong d a b l) :=
  of_two rfl rfl (opWords_two (encEC_op ..) (by decide)) (decode_two (encEC_op ..) (by decide) rfl (by simp))
theorem srttabLong (d : BitVec 7) (a : BitVec 7) (b : BitVec 7) (l : EL) : Statement (.srttabLong d a b l) :=
  of_two rfl rfl (opWords_two (encEC_op ..) (by decide)) (decode_two (encEC_op ..) (by decide) rfl (by simp))
theorem vblendLong (d : BitVec 7) (a : BitVec 7) (b : BitVec 7) (l : EL) : Statement (.vblendLong d a b l) :=
  of_two rfl rfl (opWords_two (encEC_op ..) (by decide)) (decode_two (encEC_op ..) (by decide) rfl (by simp))
theorem vblendgLong (d : BitVec 7) (a : BitVec 7) (b : BitVec 7) (l : EL) : Statement (.vblendgLong d a b l) :=
  of_two rfl rfl (opWords_two (encEC_op ..) (by decide)) (decode_two (encEC_op ..) (by decide) rfl (by simp))
theorem gdegLong (d : BitVec 7) (a : BitVec 7) (b : BitVec 7) (l : EL) : Statement (.gdegLong d a b l) :=
  of_two rfl rfl (opWords_two (encEC_op ..) (by decide)) (decode_two (encEC_op ..) (by decide) rfl (by simp))
theorem gdesLong (d : BitVec 7) (a : BitVec 7) (b : BitVec 7) (l : EL) : Statement (.gdesLong d a b l) :=
  of_two rfl rfl (opWords_two (encEC_op ..) (by decide)) (decode_two (encEC_op ..) (by decide) rfl (by simp))
theorem claimPostLong (d : BitVec 7) (a : BitVec 7) (b : BitVec 7) (l : EL) : Statement (.claimPostLong d a b l) :=
  of_two rfl rfl (opWords_two (encEC_op ..) (by decide)) (decode_two (encEC_op ..) (by decide) rfl (by simp))
theorem claimTakeLong (d : BitVec 7) (a : BitVec 7) (b : BitVec 7) (l : EL) : Statement (.claimTakeLong d a b l) :=
  of_two rfl rfl (opWords_two (encEC_op ..) (by decide)) (decode_two (encEC_op ..) (by decide) rfl (by simp))
theorem claimDoneLong (d : BitVec 7) (l : EL) : Statement (.claimDoneLong d l) :=
  of_two rfl rfl (opWords_two (encEC_op ..) (by decide)) (decode_two (encEC_op ..) (by decide) rfl (by simp))
theorem taskPushLong (d : BitVec 7) (a : BitVec 7) (b : BitVec 7) (l : EL) : Statement (.taskPushLong d a b l) :=
  of_two rfl rfl (opWords_two (encEC_op ..) (by decide)) (decode_two (encEC_op ..) (by decide) rfl (by simp))
theorem taskSpawnLong (d : BitVec 7) (a : BitVec 7) (b : BitVec 7) (l : EL) : Statement (.taskSpawnLong d a b l) :=
  of_two rfl rfl (opWords_two (encEC_op ..) (by decide)) (decode_two (encEC_op ..) (by decide) rfl (by simp))
theorem wpsetLong (d : BitVec 7) (a : BitVec 7) (b : BitVec 7) (l : EL) : Statement (.wpsetLong d a b l) :=
  of_two rfl rfl (opWords_two (encEC_op ..) (by decide)) (decode_two (encEC_op ..) (by decide) rfl (by simp))
theorem wpclrLong (d : BitVec 7) (a : BitVec 7) (l : EL) : Statement (.wpclrLong d a l) :=
  of_two rfl rfl (opWords_two (encEC_op ..) (by decide)) (decode_two (encEC_op ..) (by decide) rfl (by simp))
theorem cpyLong (d : BitVec 7) (a : BitVec 7) (b : BitVec 7) (l : EL) : Statement (.cpyLong d a b l) :=
  of_two rfl rfl (opWords_two (encEC_op ..) (by decide)) (decode_two (encEC_op ..) (by decide) rfl (by simp))
theorem cpymLong (d : BitVec 7) (a : BitVec 7) (b : BitVec 7) (l : EL) : Statement (.cpymLong d a b l) :=
  of_two rfl rfl (opWords_two (encEC_op ..) (by decide)) (decode_two (encEC_op ..) (by decide) rfl (by simp))
theorem cpydrnLong (d : BitVec 7) (a : BitVec 7) (b : BitVec 7) (l : EL) : Statement (.cpydrnLong d a b l) :=
  of_two rfl rfl (opWords_two (encEC_op ..) (by decide)) (decode_two (encEC_op ..) (by decide) rfl (by simp))
theorem cstageLong (d : BitVec 7) (a : BitVec 7) (l : EL) : Statement (.cstageLong d a l) :=
  of_two rfl rfl (opWords_two (encEC_op ..) (by decide)) (decode_two (encEC_op ..) (by decide) rfl (by simp))
theorem colRunLong (d : BitVec 7) (a : BitVec 7) (b : BitVec 7) (l : EL) : Statement (.colRunLong d a b l) :=
  of_two rfl rfl (opWords_two (encEC_op ..) (by decide)) (decode_two (encEC_op ..) (by decide) rfl (by simp))
theorem fblkwLong (d : BitVec 7) (a : BitVec 7) (b : BitVec 7) (l : EL) : Statement (.fblkwLong d a b l) :=
  of_two rfl rfl (opWords_two (encEC_op ..) (by decide)) (decode_two (encEC_op ..) (by decide) rfl (by simp))
theorem fblkrLong (d : BitVec 7) (a : BitVec 7) (b : BitVec 7) (l : EL) : Statement (.fblkrLong d a b l) :=
  of_two rfl rfl (opWords_two (encEC_op ..) (by decide)) (decode_two (encEC_op ..) (by decide) rfl (by simp))
theorem fldLong (d : BitVec 7) (a : BitVec 7) (l : EL) : Statement (.fldLong d a l) :=
  of_two rfl rfl (opWords_two (encEC_op ..) (by decide)) (decode_two (encEC_op ..) (by decide) rfl (by simp))
theorem fstLong (d : BitVec 7) (a : BitVec 7) (b : BitVec 7) (l : EL) : Statement (.fstLong d a b l) :=
  of_two rfl rfl (opWords_two (encEC_op ..) (by decide)) (decode_two (encEC_op ..) (by decide) rfl (by simp))
theorem stepArriveLong (d : BitVec 7) (l : EL) : Statement (.stepArriveLong d l) :=
  of_two rfl rfl (opWords_two (encEC_op ..) (by decide)) (decode_two (encEC_op ..) (by decide) rfl (by simp))
theorem stepWaitLong (d : BitVec 7) (l : EL) : Statement (.stepWaitLong d l) :=
  of_two rfl rfl (opWords_two (encEC_op ..) (by decide)) (decode_two (encEC_op ..) (by decide) rfl (by simp))
theorem arrtgtLong (d : BitVec 7) (a : BitVec 7) (l : EL) : Statement (.arrtgtLong d a l) :=
  of_two rfl rfl (opWords_two (encEC_op ..) (by decide)) (decode_two (encEC_op ..) (by decide) rfl (by simp))
theorem lnkdrnLong (d : BitVec 7) (a : BitVec 7) (l : EL) : Statement (.lnkdrnLong d a l) :=
  of_two rfl rfl (opWords_two (encEC_op ..) (by decide)) (decode_two (encEC_op ..) (by decide) rfl (by simp))
theorem lnkctlLong (d : BitVec 7) (a : BitVec 7) (b : BitVec 7) (l : EL) : Statement (.lnkctlLong d a b l) :=
  of_two rfl rfl (opWords_two (encEC_op ..) (by decide)) (decode_two (encEC_op ..) (by decide) rfl (by simp))
theorem clauseFetch : Statement .clauseFetch := of_none rfl
theorem clauseWaitMet : Statement .clauseWaitMet := of_none rfl
theorem watchdogBudget : Statement .watchdogBudget := of_none rfl
theorem watchdogStall : Statement .watchdogStall := of_none rfl
theorem impreciseFaultDeliver (w : Nat) : Statement (.impreciseFaultDeliver w) := of_none rfl
theorem loadDataArrive (op : Nat) : Statement (.loadDataArrive op) := of_none rfl
theorem atomicResultReturn (op : Nat) : Statement (.atomicResultReturn op) := of_none rfl
theorem trackerAck (op : Nat) : Statement (.trackerAck op) := of_none rfl
theorem reduceFlushApply (line : Nat) : Statement (.reduceFlushApply line) := of_none rfl
theorem pageWalk : Statement .pageWalk := of_none rfl
theorem binTimerExpire (die : Nat) (node : Nat) : Statement (.binTimerExpire die node) := of_none rfl
theorem gangPlace (die : Nat) : Statement (.gangPlace die) := of_none rfl
theorem gangAge (entry : Nat) : Statement (.gangAge entry) := of_none rfl
theorem gangBlocking (entry : Nat) : Statement (.gangBlocking entry) := of_none rfl
theorem saveBudgetExpire (gang : Nat) : Statement (.saveBudgetExpire gang) := of_none rfl
theorem saveWrite (gang : Nat) : Statement (.saveWrite gang) := of_none rfl
theorem gangRestore (gang : Nat) (die : Nat) : Statement (.gangRestore gang die) := of_none rfl
theorem gangRetire (gang : Nat) : Statement (.gangRetire gang) := of_none rfl
theorem launchCompletion (launch : Nat) : Statement (.launchCompletion launch) := of_none rfl
theorem bodyPhaseStart (launch : Nat) : Statement (.bodyPhaseStart launch) := of_none rfl
theorem bodyWaveForm (launch : Nat) (die : Nat) : Statement (.bodyWaveForm launch die) := of_none rfl
theorem pitchRequest (req : Nat) : Statement (.pitchRequest req) := of_none rfl
theorem pitchRelease (rel : Nat) : Statement (.pitchRelease rel) := of_none rfl
theorem sortStart (die : Nat) : Statement (.sortStart die) := of_none rfl
theorem gdeStart (die : Nat) : Statement (.gdeStart die) := of_none rfl
theorem copyStart (quad : Nat) : Statement (.copyStart quad) := of_none rfl
theorem scheduleEntryStart (gang : Nat) : Statement (.scheduleEntryStart gang) := of_none rfl
theorem collectiveStart : Statement .collectiveStart := of_none rfl
theorem engineCompletion (cmd : Nat) : Statement (.engineCompletion cmd) := of_none rfl
theorem chainTailWrite (c : Nat) (tail : BitVec 64) : Statement (.chainTailWrite c tail) := of_none rfl
theorem chainEnable (c : Nat) (on : Bool) : Statement (.chainEnable c on) := of_none rfl
theorem chainReset (c : Nat) : Statement (.chainReset c) := of_none rfl
theorem chainLaunch (c : Nat) : Statement (.chainLaunch c) := of_none rfl
theorem chainSignal (c : Nat) : Statement (.chainSignal c) := of_none rfl
theorem chainNodedef (c : Nat) : Statement (.chainNodedef c) := of_none rfl
theorem chainNop (c : Nat) : Statement (.chainNop c) := of_none rfl
theorem launchPacketSend (go : BitVec 64) : Statement (.launchPacketSend go) := of_none rfl
theorem launchPacketAck : Statement .launchPacketAck := of_none rfl
theorem launchPacketReceive (pkt : LaunchPacket) : Statement (.launchPacketReceive pkt) := of_none rfl
theorem residencyReportReceive (rep : Report) : Statement (.residencyReportReceive rep) := of_none rfl
theorem pieceArrive (piece : Piece) : Statement (.pieceArrive piece) := of_none rfl
theorem pieceAck (dst : BitVec 16) (step : BitVec 64) (seqNo : Nat) (denied : Bool) : Statement (.pieceAck dst step seqNo denied) := of_none rfl
theorem pieceRetransmit (dst : BitVec 16) (step : BitVec 64) (seqNo : Nat) : Statement (.pieceRetransmit dst step seqNo) := of_none rfl
theorem remoteReadRequest (req : ReadReq) : Statement (.remoteReadRequest req) := of_none rfl
theorem remoteReadReply (req : Nat) (data : List (BitVec 8)) (denied : Bool) : Statement (.remoteReadReply req data denied) := of_none rfl
theorem vcEscape (glob : Bool) (port : Nat) (crossed : Bool) : Statement (.vcEscape glob port crossed) := of_none rfl
theorem stepArrivedSend : Statement .stepArrivedSend := of_none rfl
theorem stepArrivedReceive (dev : BitVec 16) (step : BitVec 64) (msg : Arrived) : Statement (.stepArrivedReceive dev step msg) := of_none rfl
theorem stepLostReceive (dev : BitVec 16) (step : BitVec 64) : Statement (.stepLostReceive dev step) := of_none rfl
theorem stepOpenReceive (step : BitVec 64) : Statement (.stepOpenReceive step) := of_none rfl
theorem stepTimeout : Statement .stepTimeout := of_none rfl
theorem stepCommit (msg : Commit) : Statement (.stepCommit msg) := of_none rfl
theorem stepAbort (step : BitVec 64) : Statement (.stepAbort step) := of_none rfl
theorem stepOutcomeAck (dev : BitVec 16) (step : BitVec 64) : Statement (.stepOutcomeAck dev step) := of_none rfl
theorem stepApplyComplete : Statement .stepApplyComplete := of_none rfl
theorem linkLoss (glob : Bool) (port : Nat) : Statement (.linkLoss glob port) := of_none rfl
theorem linkLock (glob : Bool) (port : Nat) (nbr : BitVec 16) : Statement (.linkLock glob port nbr) := of_none rfl
theorem noRouteTimeout (dst : BitVec 16) : Statement (.noRouteTimeout dst) := of_none rfl
theorem drainMarkerReturn (cmd : Nat) : Statement (.drainMarkerReturn cmd) := of_none rfl
theorem linkEnableTimeout (cmd : Nat) : Statement (.linkEnableTimeout cmd) := of_none rfl
theorem podForm : Statement .podForm := of_none rfl
theorem podDissolve : Statement .podDissolve := of_none rfl
theorem tlbInvalidate : Statement .tlbInvalidate := of_none rfl
theorem invalidateComplete : Statement .invalidateComplete := of_none rfl
theorem lineRepair (pa : BitVec 64) : Statement (.lineRepair pa) := of_none rfl
theorem serviceWrite (v : BitVec 64) : Statement (.serviceWrite v) := of_none rfl
theorem thermalResume : Statement .thermalResume := of_none rfl
theorem evstatClear (m : BitVec 64) : Statement (.evstatClear m) := of_none rfl
theorem wpclearHandle (h : BitVec 8) : Statement (.wpclearHandle h) := of_none rfl
theorem wpclearAsid (asid : BitVec 16) : Statement (.wpclearAsid asid) := of_none rfl
theorem wpclearAll : Statement .wpclearAll := of_none rfl
theorem routeWrite (group : Nat) (v : BitVec 64) : Statement (.routeWrite group v) := of_none rfl
theorem checkpointGo : Statement .checkpointGo := of_none rfl
theorem checkpointDone (err : Bool) : Statement (.checkpointDone err) := of_none rfl
theorem msixVectorUnmask (vec : Nat) : Statement (.msixVectorUnmask vec) := of_none rfl
theorem registerWrite (off : Nat) (v : BitVec 64) : Statement (.registerWrite off v) := of_none rfl
theorem deviceReset : Statement .deviceReset := of_none rfl
theorem powerStateEnter : Statement .powerStateEnter := of_none rfl
theorem powerWake : Statement .powerWake := of_none rfl
theorem powerExitComplete : Statement .powerExitComplete := of_none rfl
theorem thermalTrip (die : Nat) : Statement (.thermalTrip die) := of_none rfl
theorem thermalHoldEnd : Statement .thermalHoldEnd := of_none rfl
theorem unassignedOpcode (w : BitVec 32) : Statement (.unassignedOpcode w) := of_none rfl
theorem drainPerformed (op : Nat) : Statement (.drainPerformed op) := of_none rfl
theorem stepOutcomeResend (step : BitVec 64) : Statement (.stepOutcomeResend step) := of_none rfl
theorem arithmeticClockChange (mhz : Nat) : Statement (.arithmeticClockChange mhz) := of_none rfl

end Laws.RoundTrip
end Sys2Proof
end

