-- ==== Sys2Proof/Laws/State.lean ====
section
/-!
SUPPORT. What the updates of the state leave in each field: replacing or changing a wave, a gang, a launch, a sequencer.
-/
namespace Sys2Proof.Machine

/-! ### Replacing a wave -/

@[simp] theorem State.setWaveAt_agenda (s : State) (k : Nat) (w : Wave) : (s.setWaveAt k w).agenda = s.agenda := rfl
@[simp] theorem State.setWaveAt_tick (s : State) (k : Nat) (w : Wave) : (s.setWaveAt k w).tick = s.tick := rfl
@[simp] theorem State.setWaveAt_party (s : State) (k : Nat) (w : Wave) : (s.setWaveAt k w).party = s.party := rfl
@[simp] theorem State.setWaveAt_cur (s : State) (k : Nat) (w : Wave) : (s.setWaveAt k w).cur = s.cur := rfl
@[simp] theorem State.setWaveAt_seq (s : State) (k : Nat) (w : Wave) : (s.setWaveAt k w).seq = s.seq := rfl
@[simp] theorem State.setWaveAt_nextId (s : State) (k : Nat) (w : Wave) : (s.setWaveAt k w).nextId = s.nextId := rfl
@[simp] theorem State.setWaveAt_gangs (s : State) (k : Nat) (w : Wave) : (s.setWaveAt k w).gangs = s.gangs := rfl
@[simp] theorem State.setWaveAt_launches (s : State) (k : Nat) (w : Wave) : (s.setWaveAt k w).launches = s.launches := rfl
@[simp] theorem State.setWaveAt_seqs (s : State) (k : Nat) (w : Wave) : (s.setWaveAt k w).seqs = s.seqs := rfl
@[simp] theorem State.setWaveAt_mem (s : State) (k : Nat) (w : Wave) : (s.setWaveAt k w).mem = s.mem := rfl
@[simp] theorem State.setWaveAt_dirty (s : State) (k : Nat) (w : Wave) : (s.setWaveAt k w).dirty = s.dirty := rfl
@[simp] theorem State.setWaveAt_reduce (s : State) (k : Nat) (w : Wave) : (s.setWaveAt k w).reduce = s.reduce := rfl
@[simp] theorem State.setWaveAt_flushQ (s : State) (k : Nat) (w : Wave) : (s.setWaveAt k w).flushQ = s.flushQ := rfl
@[simp] theorem State.setWaveAt_shadow (s : State) (k : Nat) (w : Wave) : (s.setWaveAt k w).shadow = s.shadow := rfl
@[simp] theorem State.setWaveAt_traceQ (s : State) (k : Nat) (w : Wave) : (s.setWaveAt k w).traceQ = s.traceQ := rfl
@[simp] theorem State.setWaveAt_bad (s : State) (k : Nat) (w : Wave) : (s.setWaveAt k w).bad = s.bad := rfl
@[simp] theorem State.setWaveAt_badVault (s : State) (k : Nat) (w : Wave) : (s.setWaveAt k w).badVault = s.badVault := rfl
@[simp] theorem State.setWaveAt_fires (s : State) (k : Nat) (w : Wave) : (s.setWaveAt k w).fires = s.fires := rfl
@[simp] theorem State.setWaveAt_l1 (s : State) (k : Nat) (w : Wave) : (s.setWaveAt k w).l1 = s.l1 := rfl
@[simp] theorem State.setWaveAt_ro (s : State) (k : Nat) (w : Wave) : (s.setWaveAt k w).ro = s.ro := rfl
@[simp] theorem State.setWaveAt_tlb (s : State) (k : Nat) (w : Wave) : (s.setWaveAt k w).tlb = s.tlb := rfl
@[simp] theorem State.setWaveAt_missQ (s : State) (k : Nat) (w : Wave) : (s.setWaveAt k w).missQ = s.missQ := rfl
@[simp] theorem State.setWaveAt_walked (s : State) (k : Nat) (w : Wave) : (s.setWaveAt k w).walked = s.walked := rfl
@[simp] theorem State.setWaveAt_ops (s : State) (k : Nat) (w : Wave) : (s.setWaveAt k w).ops = s.ops := rfl
@[simp] theorem State.setWaveAt_cmds (s : State) (k : Nat) (w : Wave) : (s.setWaveAt k w).cmds = s.cmds := rfl
@[simp] theorem State.setWaveAt_col (s : State) (k : Nat) (w : Wave) : (s.setWaveAt k w).col = s.col := rfl
@[simp] theorem State.setWaveAt_slots (s : State) (k : Nat) (w : Wave) : (s.setWaveAt k w).slots = s.slots := rfl
@[simp] theorem State.setWaveAt_drains (s : State) (k : Nat) (w : Wave) : (s.setWaveAt k w).drains = s.drains := rfl
@[simp] theorem State.setWaveAt_queue (s : State) (k : Nat) (w : Wave) : (s.setWaveAt k w).queue = s.queue := rfl
@[simp] theorem State.setWaveAt_nodes (s : State) (k : Nat) (w : Wave) : (s.setWaveAt k w).nodes = s.nodes := rfl
@[simp] theorem State.setWaveAt_bins (s : State) (k : Nat) (w : Wave) : (s.setWaveAt k w).bins = s.bins := rfl
@[simp] theorem State.setWaveAt_watch (s : State) (k : Nat) (w : Wave) : (s.setWaveAt k w).watch = s.watch := rfl
@[simp] theorem State.setWaveAt_pitch (s : State) (k : Nat) (w : Wave) : (s.setWaveAt k w).pitch = s.pitch := rfl
@[simp] theorem State.setWaveAt_pitchReqs (s : State) (k : Nat) (w : Wave) : (s.setWaveAt k w).pitchReqs = s.pitchReqs := rfl
@[simp] theorem State.setWaveAt_pitchRels (s : State) (k : Nat) (w : Wave) : (s.setWaveAt k w).pitchRels = s.pitchRels := rfl
@[simp] theorem State.setWaveAt_formers (s : State) (k : Nat) (w : Wave) : (s.setWaveAt k w).formers = s.formers := rfl
@[simp] theorem State.setWaveAt_chains (s : State) (k : Nat) (w : Wave) : (s.setWaveAt k w).chains = s.chains := rfl
@[simp] theorem State.setWaveAt_saved (s : State) (k : Nat) (w : Wave) : (s.setWaveAt k w).saved = s.saved := rfl
@[simp] theorem State.setWaveAt_hr (s : State) (k : Nat) (w : Wave) : (s.setWaveAt k w).hr = s.hr := rfl
@[simp] theorem State.setWaveAt_rpt (s : State) (k : Nat) (w : Wave) : (s.setWaveAt k w).rpt = s.rpt := rfl
@[simp] theorem State.setWaveAt_routes (s : State) (k : Nat) (w : Wave) : (s.setWaveAt k w).routes = s.routes := rfl
@[simp] theorem State.setWaveAt_lports (s : State) (k : Nat) (w : Wave) : (s.setWaveAt k w).lports = s.lports := rfl
@[simp] theorem State.setWaveAt_gports (s : State) (k : Nat) (w : Wave) : (s.setWaveAt k w).gports = s.gports := rfl
@[simp] theorem State.setWaveAt_devid (s : State) (k : Nat) (w : Wave) : (s.setWaveAt k w).devid = s.devid := rfl
@[simp] theorem State.setWaveAt_clk (s : State) (k : Nat) (w : Wave) : (s.setWaveAt k w).clk = s.clk := rfl
@[simp] theorem State.setWaveAt_mhz (s : State) (k : Nat) (w : Wave) : (s.setWaveAt k w).mhz = s.mhz := rfl
@[simp] theorem State.setWaveAt_pod (s : State) (k : Nat) (w : Wave) : (s.setWaveAt k w).pod = s.pod := rfl
@[simp] theorem State.setWaveAt_step (s : State) (k : Nat) (w : Wave) : (s.setWaveAt k w).step = s.step := rfl
@[simp] theorem State.setWaveAt_root (s : State) (k : Nat) (w : Wave) : (s.setWaveAt k w).root = s.root := rfl
@[simp] theorem State.setWaveAt_recvNo (s : State) (k : Nat) (w : Wave) : (s.setWaveAt k w).recvNo = s.recvNo := rfl
@[simp] theorem State.setWaveAt_refused (s : State) (k : Nat) (w : Wave) : (s.setWaveAt k w).refused = s.refused := rfl
@[simp] theorem State.setWaveAt_applyQ (s : State) (k : Nat) (w : Wave) : (s.setWaveAt k w).applyQ = s.applyQ := rfl
@[simp] theorem State.setWaveAt_staged (s : State) (k : Nat) (w : Wave) : (s.setWaveAt k w).staged = s.staged := rfl
@[simp] theorem State.setWaveAt_sent (s : State) (k : Nat) (w : Wave) : (s.setWaveAt k w).sent = s.sent := rfl
@[simp] theorem State.setWaveAt_seqNos (s : State) (k : Nat) (w : Wave) : (s.setWaveAt k w).seqNos = s.seqNos := rfl
@[simp] theorem State.setWaveAt_allowance (s : State) (k : Nat) (w : Wave) : (s.setWaveAt k w).allowance = s.allowance := rfl
@[simp] theorem State.setWaveAt_early (s : State) (k : Nat) (w : Wave) : (s.setWaveAt k w).early = s.early := rfl
@[simp] theorem State.setWaveAt_reads (s : State) (k : Nat) (w : Wave) : (s.setWaveAt k w).reads = s.reads := rfl
@[simp] theorem State.setWaveAt_waitReads (s : State) (k : Nat) (w : Wave) : (s.setWaveAt k w).waitReads = s.waitReads := rfl
@[simp] theorem State.setWaveAt_arrivals (s : State) (k : Nat) (w : Wave) : (s.setWaveAt k w).arrivals = s.arrivals := rfl
@[simp] theorem State.setWaveAt_gens (s : State) (k : Nat) (w : Wave) : (s.setWaveAt k w).gens = s.gens := rfl
@[simp] theorem State.setWaveAt_netOut (s : State) (k : Nat) (w : Wave) : (s.setWaveAt k w).netOut = s.netOut := rfl
@[simp] theorem State.setWaveAt_power (s : State) (k : Nat) (w : Wave) : (s.setWaveAt k w).power = s.power := rfl
@[simp] theorem State.setWaveAt_waking (s : State) (k : Nat) (w : Wave) : (s.setWaveAt k w).waking = s.waking := rfl
@[simp] theorem State.setWaveAt_thold (s : State) (k : Nat) (w : Wave) : (s.setWaveAt k w).thold = s.thold := rfl
@[simp] theorem State.setWaveAt_ckPos (s : State) (k : Nat) (w : Wave) : (s.setWaveAt k w).ckPos = s.ckPos := rfl
@[simp] theorem State.setWaveAt_msixMask (s : State) (k : Nat) (w : Wave) : (s.setWaveAt k w).msixMask = s.msixMask := rfl
@[simp] theorem State.setWaveAt_msixPend (s : State) (k : Nat) (w : Wave) : (s.setWaveAt k w).msixPend = s.msixPend := rfl
@[simp] theorem State.setWaveAt_msixSent (s : State) (k : Nat) (w : Wave) : (s.setWaveAt k w).msixSent = s.msixSent := rfl
@[simp] theorem State.setWaveAt_invRun (s : State) (k : Nat) (w : Wave) : (s.setWaveAt k w).invRun = s.invRun := rfl
@[simp] theorem State.setWaveAt_invHeld (s : State) (k : Nat) (w : Wave) : (s.setWaveAt k w).invHeld = s.invHeld := rfl
@[simp] theorem State.setWaveAt_bringUp (s : State) (k : Nat) (w : Wave) : (s.setWaveAt k w).bringUp = s.bringUp := rfl
@[simp] theorem State.setWaveAt_rr (s : State) (k : Nat) (w : Wave) : (s.setWaveAt k w).rr = s.rr := rfl
@[simp] theorem State.setWaveAt_noRoute (s : State) (k : Nat) (w : Wave) : (s.setWaveAt k w).noRoute = s.noRoute := rfl
@[simp] theorem State.setWaveAt_waves (s : State) (k : Nat) (w : Wave) : (s.setWaveAt k w).waves = s.waves.set k w := rfl
@[simp] theorem State.waveAt_setWaveAt (s : State) (k : Nat) (w : Wave) : (s.setWaveAt k w).waveAt k = w := by
  simp [State.waveAt]
theorem State.waveAt_setWaveAt_other (s : State) (k j : Nat) (w : Wave) (h : j ≠ k) : (s.setWaveAt k w).waveAt j = s.waveAt j := by
  simp [State.waveAt, Map.get_set_other _ _ _ _ _ h]
@[simp] theorem State.setWaveAt_setWaveAt (s : State) (k : Nat) (w v : Wave) : (s.setWaveAt k w).setWaveAt k v = s.setWaveAt k v := by
  simp [State.setWaveAt]
@[simp] theorem State.gang_setWaveAt (s : State) (k g : Nat) (w : Wave) : (s.setWaveAt k w).gang g = s.gang g := rfl
@[simp] theorem State.launch_setWaveAt (s : State) (k l : Nat) (w : Wave) : (s.setWaveAt k w).launch l = s.launch l := rfl
@[simp] theorem State.sq_setWaveAt (s : State) (k : Nat) (w : Wave) : (s.setWaveAt k w).sq = s.sq := rfl
@[simp] theorem State.clock_setWaveAt (s : State) (k d : Nat) (w : Wave) : (s.setWaveAt k w).clock d = s.clock d := rfl

@[simp] theorem State.setWave_agenda (s : State) (w : Wave) : (s.setWave w).agenda = s.agenda := rfl
@[simp] theorem State.setWave_tick (s : State) (w : Wave) : (s.setWave w).tick = s.tick := rfl
@[simp] theorem State.setWave_party (s : State) (w : Wave) : (s.setWave w).party = s.party := rfl
@[simp] theorem State.setWave_cur (s : State) (w : Wave) : (s.setWave w).cur = s.cur := rfl
@[simp] theorem State.setWave_seq (s : State) (w : Wave) : (s.setWave w).seq = s.seq := rfl
@[simp] theorem State.setWave_nextId (s : State) (w : Wave) : (s.setWave w).nextId = s.nextId := rfl
@[simp] theorem State.setWave_gangs (s : State) (w : Wave) : (s.setWave w).gangs = s.gangs := rfl
@[simp] theorem State.setWave_launches (s : State) (w : Wave) : (s.setWave w).launches = s.launches := rfl
@[simp] theorem State.setWave_seqs (s : State) (w : Wave) : (s.setWave w).seqs = s.seqs := rfl
@[simp] theorem State.setWave_mem (s : State) (w : Wave) : (s.setWave w).mem = s.mem := rfl
@[simp] theorem State.setWave_dirty (s : State) (w : Wave) : (s.setWave w).dirty = s.dirty := rfl
@[simp] theorem State.setWave_reduce (s : State) (w : Wave) : (s.setWave w).reduce = s.reduce := rfl
@[simp] theorem State.setWave_flushQ (s : State) (w : Wave) : (s.setWave w).flushQ = s.flushQ := rfl
@[simp] theorem State.setWave_shadow (s : State) (w : Wave) : (s.setWave w).shadow = s.shadow := rfl
@[simp] theorem State.setWave_traceQ (s : State) (w : Wave) : (s.setWave w).traceQ = s.traceQ := rfl
@[simp] theorem State.setWave_bad (s : State) (w : Wave) : (s.setWave w).bad = s.bad := rfl
@[simp] theorem State.setWave_badVault (s : State) (w : Wave) : (s.setWave w).badVault = s.badVault := rfl
@[simp] theorem State.setWave_fires (s : State) (w : Wave) : (s.setWave w).fires = s.fires := rfl
@[simp] theorem State.setWave_l1 (s : State) (w : Wave) : (s.setWave w).l1 = s.l1 := rfl
@[simp] theorem State.setWave_ro (s : State) (w : Wave) : (s.setWave w).ro = s.ro := rfl
@[simp] theorem State.setWave_tlb (s : State) (w : Wave) : (s.setWave w).tlb = s.tlb := rfl
@[simp] theorem State.setWave_missQ (s : State) (w : Wave) : (s.setWave w).missQ = s.missQ := rfl
@[simp] theorem State.setWave_walked (s : State) (w : Wave) : (s.setWave w).walked = s.walked := rfl
@[simp] theorem State.setWave_ops (s : State) (w : Wave) : (s.setWave w).ops = s.ops := rfl
@[simp] theorem State.setWave_cmds (s : State) (w : Wave) : (s.setWave w).cmds = s.cmds := rfl
@[simp] theorem State.setWave_col (s : State) (w : Wave) : (s.setWave w).col = s.col := rfl
@[simp] theorem State.setWave_slots (s : State) (w : Wave) : (s.setWave w).slots = s.slots := rfl
@[simp] theorem State.setWave_drains (s : State) (w : Wave) : (s.setWave w).drains = s.drains := rfl
@[simp] theorem State.setWave_queue (s : State) (w : Wave) : (s.setWave w).queue = s.queue := rfl
@[simp] theorem State.setWave_nodes (s : State) (w : Wave) : (s.setWave w).nodes = s.nodes := rfl
@[simp] theorem State.setWave_bins (s : State) (w : Wave) : (s.setWave w).bins = s.bins := rfl
@[simp] theorem State.setWave_watch (s : State) (w : Wave) : (s.setWave w).watch = s.watch := rfl
@[simp] theorem State.setWave_pitch (s : State) (w : Wave) : (s.setWave w).pitch = s.pitch := rfl
@[simp] theorem State.setWave_pitchReqs (s : State) (w : Wave) : (s.setWave w).pitchReqs = s.pitchReqs := rfl
@[simp] theorem State.setWave_pitchRels (s : State) (w : Wave) : (s.setWave w).pitchRels = s.pitchRels := rfl
@[simp] theorem State.setWave_formers (s : State) (w : Wave) : (s.setWave w).formers = s.formers := rfl
@[simp] theorem State.setWave_chains (s : State) (w : Wave) : (s.setWave w).chains = s.chains := rfl
@[simp] theorem State.setWave_saved (s : State) (w : Wave) : (s.setWave w).saved = s.saved := rfl
@[simp] theorem State.setWave_hr (s : State) (w : Wave) : (s.setWave w).hr = s.hr := rfl
@[simp] theorem State.setWave_rpt (s : State) (w : Wave) : (s.setWave w).rpt = s.rpt := rfl
@[simp] theorem State.setWave_routes (s : State) (w : Wave) : (s.setWave w).routes = s.routes := rfl
@[simp] theorem State.setWave_lports (s : State) (w : Wave) : (s.setWave w).lports = s.lports := rfl
@[simp] theorem State.setWave_gports (s : State) (w : Wave) : (s.setWave w).gports = s.gports := rfl
@[simp] theorem State.setWave_devid (s : State) (w : Wave) : (s.setWave w).devid = s.devid := rfl
@[simp] theorem State.setWave_clk (s : State) (w : Wave) : (s.setWave w).clk = s.clk := rfl
@[simp] theorem State.setWave_mhz (s : State) (w : Wave) : (s.setWave w).mhz = s.mhz := rfl
@[simp] theorem State.setWave_pod (s : State) (w : Wave) : (s.setWave w).pod = s.pod := rfl
@[simp] theorem State.setWave_step (s : State) (w : Wave) : (s.setWave w).step = s.step := rfl
@[simp] theorem State.setWave_root (s : State) (w : Wave) : (s.setWave w).root = s.root := rfl
@[simp] theorem State.setWave_recvNo (s : State) (w : Wave) : (s.setWave w).recvNo = s.recvNo := rfl
@[simp] theorem State.setWave_refused (s : State) (w : Wave) : (s.setWave w).refused = s.refused := rfl
@[simp] theorem State.setWave_applyQ (s : State) (w : Wave) : (s.setWave w).applyQ = s.applyQ := rfl
@[simp] theorem State.setWave_staged (s : State) (w : Wave) : (s.setWave w).staged = s.staged := rfl
@[simp] theorem State.setWave_sent (s : State) (w : Wave) : (s.setWave w).sent = s.sent := rfl
@[simp] theorem State.setWave_seqNos (s : State) (w : Wave) : (s.setWave w).seqNos = s.seqNos := rfl
@[simp] theorem State.setWave_allowance (s : State) (w : Wave) : (s.setWave w).allowance = s.allowance := rfl
@[simp] theorem State.setWave_early (s : State) (w : Wave) : (s.setWave w).early = s.early := rfl
@[simp] theorem State.setWave_reads (s : State) (w : Wave) : (s.setWave w).reads = s.reads := rfl
@[simp] theorem State.setWave_waitReads (s : State) (w : Wave) : (s.setWave w).waitReads = s.waitReads := rfl
@[simp] theorem State.setWave_arrivals (s : State) (w : Wave) : (s.setWave w).arrivals = s.arrivals := rfl
@[simp] theorem State.setWave_gens (s : State) (w : Wave) : (s.setWave w).gens = s.gens := rfl
@[simp] theorem State.setWave_netOut (s : State) (w : Wave) : (s.setWave w).netOut = s.netOut := rfl
@[simp] theorem State.setWave_power (s : State) (w : Wave) : (s.setWave w).power = s.power := rfl
@[simp] theorem State.setWave_waking (s : State) (w : Wave) : (s.setWave w).waking = s.waking := rfl
@[simp] theorem State.setWave_thold (s : State) (w : Wave) : (s.setWave w).thold = s.thold := rfl
@[simp] theorem State.setWave_ckPos (s : State) (w : Wave) : (s.setWave w).ckPos = s.ckPos := rfl
@[simp] theorem State.setWave_msixMask (s : State) (w : Wave) : (s.setWave w).msixMask = s.msixMask := rfl
@[simp] theorem State.setWave_msixPend (s : State) (w : Wave) : (s.setWave w).msixPend = s.msixPend := rfl
@[simp] theorem State.setWave_msixSent (s : State) (w : Wave) : (s.setWave w).msixSent = s.msixSent := rfl
@[simp] theorem State.setWave_invRun (s : State) (w : Wave) : (s.setWave w).invRun = s.invRun := rfl
@[simp] theorem State.setWave_invHeld (s : State) (w : Wave) : (s.setWave w).invHeld = s.invHeld := rfl
@[simp] theorem State.setWave_bringUp (s : State) (w : Wave) : (s.setWave w).bringUp = s.bringUp := rfl
@[simp] theorem State.setWave_rr (s : State) (w : Wave) : (s.setWave w).rr = s.rr := rfl
@[simp] theorem State.setWave_noRoute (s : State) (w : Wave) : (s.setWave w).noRoute = s.noRoute := rfl
@[simp] theorem State.setWave_waves (s : State) (w : Wave) : (s.setWave w).waves = s.waves.set s.cur w := rfl
@[simp] theorem State.wave_setWave (s : State) (w : Wave) : (s.setWave w).wave = w := by
  simp [State.wave]
@[simp] theorem State.waveAt_setWave (s : State) (w : Wave) : (s.setWave w).waveAt s.cur = w := by
  simp [State.waveAt]
theorem State.waveAt_setWave_other (s : State) (j : Nat) (w : Wave) (h : j ≠ s.cur) : (s.setWave w).waveAt j = s.waveAt j := by
  simp [State.waveAt, Map.get_set_other _ _ _ _ _ h]
@[simp] theorem State.setWave_setWave (s : State) (w v : Wave) : (s.setWave w).setWave v = s.setWave v := by
  simp [State.setWave]
@[simp] theorem State.gang_setWave (s : State) (g : Nat) (w : Wave) : (s.setWave w).gang g = s.gang g := rfl
@[simp] theorem State.launch_setWave (s : State) (l : Nat) (w : Wave) : (s.setWave w).launch l = s.launch l := rfl
@[simp] theorem State.sq_setWave (s : State) (w : Wave) : (s.setWave w).sq = s.sq := rfl
@[simp] theorem State.clock_setWave (s : State) (d : Nat) (w : Wave) : (s.setWave w).clock d = s.clock d := rfl
theorem State.waveAt_cur (s : State) : s.waveAt s.cur = s.wave := rfl
theorem State.modWave_def (s : State) (f : Wave → Wave) : s.modWave f = s.setWave (f s.wave) := rfl

/-! ### Changing a sequencer -/

@[simp] theorem State.modSeq_agenda (s : State) (f : Seqr → Seqr) : (s.modSeq f).agenda = s.agenda := rfl
@[simp] theorem State.modSeq_tick (s : State) (f : Seqr → Seqr) : (s.modSeq f).tick = s.tick := rfl
@[simp] theorem State.modSeq_party (s : State) (f : Seqr → Seqr) : (s.modSeq f).party = s.party := rfl
@[simp] theorem State.modSeq_cur (s : State) (f : Seqr → Seqr) : (s.modSeq f).cur = s.cur := rfl
@[simp] theorem State.modSeq_seq (s : State) (f : Seqr → Seqr) : (s.modSeq f).seq = s.seq := rfl
@[simp] theorem State.modSeq_nextId (s : State) (f : Seqr → Seqr) : (s.modSeq f).nextId = s.nextId := rfl
@[simp] theorem State.modSeq_waves (s : State) (f : Seqr → Seqr) : (s.modSeq f).waves = s.waves := rfl
@[simp] theorem State.modSeq_gangs (s : State) (f : Seqr → Seqr) : (s.modSeq f).gangs = s.gangs := rfl
@[simp] theorem State.modSeq_launches (s : State) (f : Seqr → Seqr) : (s.modSeq f).launches = s.launches := rfl
@[simp] theorem State.modSeq_mem (s : State) (f : Seqr → Seqr) : (s.modSeq f).mem = s.mem := rfl
@[simp] theorem State.modSeq_dirty (s : State) (f : Seqr → Seqr) : (s.modSeq f).dirty = s.dirty := rfl
@[simp] theorem State.modSeq_reduce (s : State) (f : Seqr → Seqr) : (s.modSeq f).reduce = s.reduce := rfl
@[simp] theorem State.modSeq_flushQ (s : State) (f : Seqr → Seqr) : (s.modSeq f).flushQ = s.flushQ := rfl
@[simp] theorem State.modSeq_shadow (s : State) (f : Seqr → Seqr) : (s.modSeq f).shadow = s.shadow := rfl
@[simp] theorem State.modSeq_traceQ (s : State) (f : Seqr → Seqr) : (s.modSeq f).traceQ = s.traceQ := rfl
@[simp] theorem State.modSeq_bad (s : State) (f : Seqr → Seqr) : (s.modSeq f).bad = s.bad := rfl
@[simp] theorem State.modSeq_badVault (s : State) (f : Seqr → Seqr) : (s.modSeq f).badVault = s.badVault := rfl
@[simp] theorem State.modSeq_fires (s : State) (f : Seqr → Seqr) : (s.modSeq f).fires = s.fires := rfl
@[simp] theorem State.modSeq_l1 (s : State) (f : Seqr → Seqr) : (s.modSeq f).l1 = s.l1 := rfl
@[simp] theorem State.modSeq_ro (s : State) (f : Seqr → Seqr) : (s.modSeq f).ro = s.ro := rfl
@[simp] theorem State.modSeq_tlb (s : State) (f : Seqr → Seqr) : (s.modSeq f).tlb = s.tlb := rfl
@[simp] theorem State.modSeq_missQ (s : State) (f : Seqr → Seqr) : (s.modSeq f).missQ = s.missQ := rfl
@[simp] theorem State.modSeq_walked (s : State) (f : Seqr → Seqr) : (s.modSeq f).walked = s.walked := rfl
@[simp] theorem State.modSeq_ops (s : State) (f : Seqr → Seqr) : (s.modSeq f).ops = s.ops := rfl
@[simp] theorem State.modSeq_cmds (s : State) (f : Seqr → Seqr) : (s.modSeq f).cmds = s.cmds := rfl
@[simp] theorem State.modSeq_col (s : State) (f : Seqr → Seqr) : (s.modSeq f).col = s.col := rfl
@[simp] theorem State.modSeq_slots (s : State) (f : Seqr → Seqr) : (s.modSeq f).slots = s.slots := rfl
@[simp] theorem State.modSeq_drains (s : State) (f : Seqr → Seqr) : (s.modSeq f).drains = s.drains := rfl
@[simp] theorem State.modSeq_queue (s : State) (f : Seqr → Seqr) : (s.modSeq f).queue = s.queue := rfl
@[simp] theorem State.modSeq_nodes (s : State) (f : Seqr → Seqr) : (s.modSeq f).nodes = s.nodes := rfl
@[simp] theorem State.modSeq_bins (s : State) (f : Seqr → Seqr) : (s.modSeq f).bins = s.bins := rfl
@[simp] theorem State.modSeq_watch (s : State) (f : Seqr → Seqr) : (s.modSeq f).watch = s.watch := rfl
@[simp] theorem State.modSeq_pitch (s : State) (f : Seqr → Seqr) : (s.modSeq f).pitch = s.pitch := rfl
@[simp] theorem State.modSeq_pitchReqs (s : State) (f : Seqr → Seqr) : (s.modSeq f).pitchReqs = s.pitchReqs := rfl
@[simp] theorem State.modSeq_pitchRels (s : State) (f : Seqr → Seqr) : (s.modSeq f).pitchRels = s.pitchRels := rfl
@[simp] theorem State.modSeq_formers (s : State) (f : Seqr → Seqr) : (s.modSeq f).formers = s.formers := rfl
@[simp] theorem State.modSeq_chains (s : State) (f : Seqr → Seqr) : (s.modSeq f).chains = s.chains := rfl
@[simp] theorem State.modSeq_saved (s : State) (f : Seqr → Seqr) : (s.modSeq f).saved = s.saved := rfl
@[simp] theorem State.modSeq_hr (s : State) (f : Seqr → Seqr) : (s.modSeq f).hr = s.hr := rfl
@[simp] theorem State.modSeq_rpt (s : State) (f : Seqr → Seqr) : (s.modSeq f).rpt = s.rpt := rfl
@[simp] theorem State.modSeq_routes (s : State) (f : Seqr → Seqr) : (s.modSeq f).routes = s.routes := rfl
@[simp] theorem State.modSeq_lports (s : State) (f : Seqr → Seqr) : (s.modSeq f).lports = s.lports := rfl
@[simp] theorem State.modSeq_gports (s : State) (f : Seqr → Seqr) : (s.modSeq f).gports = s.gports := rfl
@[simp] theorem State.modSeq_devid (s : State) (f : Seqr → Seqr) : (s.modSeq f).devid = s.devid := rfl
@[simp] theorem State.modSeq_clk (s : State) (f : Seqr → Seqr) : (s.modSeq f).clk = s.clk := rfl
@[simp] theorem State.modSeq_mhz (s : State) (f : Seqr → Seqr) : (s.modSeq f).mhz = s.mhz := rfl
@[simp] theorem State.modSeq_pod (s : State) (f : Seqr → Seqr) : (s.modSeq f).pod = s.pod := rfl
@[simp] theorem State.modSeq_step (s : State) (f : Seqr → Seqr) : (s.modSeq f).step = s.step := rfl
@[simp] theorem State.modSeq_root (s : State) (f : Seqr → Seqr) : (s.modSeq f).root = s.root := rfl
@[simp] theorem State.modSeq_recvNo (s : State) (f : Seqr → Seqr) : (s.modSeq f).recvNo = s.recvNo := rfl
@[simp] theorem State.modSeq_refused (s : State) (f : Seqr → Seqr) : (s.modSeq f).refused = s.refused := rfl
@[simp] theorem State.modSeq_applyQ (s : State) (f : Seqr → Seqr) : (s.modSeq f).applyQ = s.applyQ := rfl
@[simp] theorem State.modSeq_staged (s : State) (f : Seqr → Seqr) : (s.modSeq f).staged = s.staged := rfl
@[simp] theorem State.modSeq_sent (s : State) (f : Seqr → Seqr) : (s.modSeq f).sent = s.sent := rfl
@[simp] theorem State.modSeq_seqNos (s : State) (f : Seqr → Seqr) : (s.modSeq f).seqNos = s.seqNos := rfl
@[simp] theorem State.modSeq_allowance (s : State) (f : Seqr → Seqr) : (s.modSeq f).allowance = s.allowance := rfl
@[simp] theorem State.modSeq_early (s : State) (f : Seqr → Seqr) : (s.modSeq f).early = s.early := rfl
@[simp] theorem State.modSeq_reads (s : State) (f : Seqr → Seqr) : (s.modSeq f).reads = s.reads := rfl
@[simp] theorem State.modSeq_waitReads (s : State) (f : Seqr → Seqr) : (s.modSeq f).waitReads = s.waitReads := rfl
@[simp] theorem State.modSeq_arrivals (s : State) (f : Seqr → Seqr) : (s.modSeq f).arrivals = s.arrivals := rfl
@[simp] theorem State.modSeq_gens (s : State) (f : Seqr → Seqr) : (s.modSeq f).gens = s.gens := rfl
@[simp] theorem State.modSeq_netOut (s : State) (f : Seqr → Seqr) : (s.modSeq f).netOut = s.netOut := rfl
@[simp] theorem State.modSeq_power (s : State) (f : Seqr → Seqr) : (s.modSeq f).power = s.power := rfl
@[simp] theorem State.modSeq_waking (s : State) (f : Seqr → Seqr) : (s.modSeq f).waking = s.waking := rfl
@[simp] theorem State.modSeq_thold (s : State) (f : Seqr → Seqr) : (s.modSeq f).thold = s.thold := rfl
@[simp] theorem State.modSeq_ckPos (s : State) (f : Seqr → Seqr) : (s.modSeq f).ckPos = s.ckPos := rfl
@[simp] theorem State.modSeq_msixMask (s : State) (f : Seqr → Seqr) : (s.modSeq f).msixMask = s.msixMask := rfl
@[simp] theorem State.modSeq_msixPend (s : State) (f : Seqr → Seqr) : (s.modSeq f).msixPend = s.msixPend := rfl
@[simp] theorem State.modSeq_msixSent (s : State) (f : Seqr → Seqr) : (s.modSeq f).msixSent = s.msixSent := rfl
@[simp] theorem State.modSeq_invRun (s : State) (f : Seqr → Seqr) : (s.modSeq f).invRun = s.invRun := rfl
@[simp] theorem State.modSeq_invHeld (s : State) (f : Seqr → Seqr) : (s.modSeq f).invHeld = s.invHeld := rfl
@[simp] theorem State.modSeq_bringUp (s : State) (f : Seqr → Seqr) : (s.modSeq f).bringUp = s.bringUp := rfl
@[simp] theorem State.modSeq_rr (s : State) (f : Seqr → Seqr) : (s.modSeq f).rr = s.rr := rfl
@[simp] theorem State.modSeq_noRoute (s : State) (f : Seqr → Seqr) : (s.modSeq f).noRoute = s.noRoute := rfl
@[simp] theorem State.modSeq_seqs (s : State) (f : Seqr → Seqr) : (s.modSeq f).seqs = s.seqs.set s.seq (f s.sq) := rfl
@[simp] theorem State.sq_modSeq (s : State) (f : Seqr → Seqr) : (s.modSeq f).sq = f s.sq := by
  simp [State.sq]
@[simp] theorem State.modSeq_modSeq (s : State) (f g : Seqr → Seqr) : (s.modSeq f).modSeq g = s.modSeq fun q => g (f q) := by
  simp [State.modSeq, State.sq]
@[simp] theorem State.gang_modSeq (s : State) (g : Nat) (f : Seqr → Seqr) : (s.modSeq f).gang g = s.gang g := rfl
@[simp] theorem State.wave_modSeq (s : State) (f : Seqr → Seqr) : (s.modSeq f).wave = s.wave := rfl
@[simp] theorem State.waveAt_modSeq (s : State) (k : Nat) (f : Seqr → Seqr) : (s.modSeq f).waveAt k = s.waveAt k := rfl

/-! ### Changing a gang or a launch -/

@[simp] theorem State.modGang_agenda (s : State) (g : Nat) (f : Gang → Gang) : (s.modGang g f).agenda = s.agenda := rfl
@[simp] theorem State.modGang_tick (s : State) (g : Nat) (f : Gang → Gang) : (s.modGang g f).tick = s.tick := rfl
@[simp] theorem State.modGang_party (s : State) (g : Nat) (f : Gang → Gang) : (s.modGang g f).party = s.party := rfl
@[simp] theorem State.modGang_cur (s : State) (g : Nat) (f : Gang → Gang) : (s.modGang g f).cur = s.cur := rfl
@[simp] theorem State.modGang_seq (s : State) (g : Nat) (f : Gang → Gang) : (s.modGang g f).seq = s.seq := rfl
@[simp] theorem State.modGang_nextId (s : State) (g : Nat) (f : Gang → Gang) : (s.modGang g f).nextId = s.nextId := rfl
@[simp] theorem State.modGang_waves (s : State) (g : Nat) (f : Gang → Gang) : (s.modGang g f).waves = s.waves := rfl
@[simp] theorem State.modGang_launches (s : State) (g : Nat) (f : Gang → Gang) : (s.modGang g f).launches = s.launches := rfl
@[simp] theorem State.modGang_seqs (s : State) (g : Nat) (f : Gang → Gang) : (s.modGang g f).seqs = s.seqs := rfl
@[simp] theorem State.modGang_mem (s : State) (g : Nat) (f : Gang → Gang) : (s.modGang g f).mem = s.mem := rfl
@[simp] theorem State.modGang_dirty (s : State) (g : Nat) (f : Gang → Gang) : (s.modGang g f).dirty = s.dirty := rfl
@[simp] theorem State.modGang_reduce (s : State) (g : Nat) (f : Gang → Gang) : (s.modGang g f).reduce = s.reduce := rfl
@[simp] theorem State.modGang_flushQ (s : State) (g : Nat) (f : Gang → Gang) : (s.modGang g f).flushQ = s.flushQ := rfl
@[simp] theorem State.modGang_shadow (s : State) (g : Nat) (f : Gang → Gang) : (s.modGang g f).shadow = s.shadow := rfl
@[simp] theorem State.modGang_traceQ (s : State) (g : Nat) (f : Gang → Gang) : (s.modGang g f).traceQ = s.traceQ := rfl
@[simp] theorem State.modGang_bad (s : State) (g : Nat) (f : Gang → Gang) : (s.modGang g f).bad = s.bad := rfl
@[simp] theorem State.modGang_badVault (s : State) (g : Nat) (f : Gang → Gang) : (s.modGang g f).badVault = s.badVault := rfl
@[simp] theorem State.modGang_fires (s : State) (g : Nat) (f : Gang → Gang) : (s.modGang g f).fires = s.fires := rfl
@[simp] theorem State.modGang_l1 (s : State) (g : Nat) (f : Gang → Gang) : (s.modGang g f).l1 = s.l1 := rfl
@[simp] theorem State.modGang_ro (s : State) (g : Nat) (f : Gang → Gang) : (s.modGang g f).ro = s.ro := rfl
@[simp] theorem State.modGang_tlb (s : State) (g : Nat) (f : Gang → Gang) : (s.modGang g f).tlb = s.tlb := rfl
@[simp] theorem State.modGang_missQ (s : State) (g : Nat) (f : Gang → Gang) : (s.modGang g f).missQ = s.missQ := rfl
@[simp] theorem State.modGang_walked (s : State) (g : Nat) (f : Gang → Gang) : (s.modGang g f).walked = s.walked := rfl
@[simp] theorem State.modGang_ops (s : State) (g : Nat) (f : Gang → Gang) : (s.modGang g f).ops = s.ops := rfl
@[simp] theorem State.modGang_cmds (s : State) (g : Nat) (f : Gang → Gang) : (s.modGang g f).cmds = s.cmds := rfl
@[simp] theorem State.modGang_col (s : State) (g : Nat) (f : Gang → Gang) : (s.modGang g f).col = s.col := rfl
@[simp] theorem State.modGang_slots (s : State) (g : Nat) (f : Gang → Gang) : (s.modGang g f).slots = s.slots := rfl
@[simp] theorem State.modGang_drains (s : State) (g : Nat) (f : Gang → Gang) : (s.modGang g f).drains = s.drains := rfl
@[simp] theorem State.modGang_queue (s : State) (g : Nat) (f : Gang → Gang) : (s.modGang g f).queue = s.queue := rfl
@[simp] theorem State.modGang_nodes (s : State) (g : Nat) (f : Gang → Gang) : (s.modGang g f).nodes = s.nodes := rfl
@[simp] theorem State.modGang_bins (s : State) (g : Nat) (f : Gang → Gang) : (s.modGang g f).bins = s.bins := rfl
@[simp] theorem State.modGang_watch (s : State) (g : Nat) (f : Gang → Gang) : (s.modGang g f).watch = s.watch := rfl
@[simp] theorem State.modGang_pitch (s : State) (g : Nat) (f : Gang → Gang) : (s.modGang g f).pitch = s.pitch := rfl
@[simp] theorem State.modGang_pitchReqs (s : State) (g : Nat) (f : Gang → Gang) : (s.modGang g f).pitchReqs = s.pitchReqs := rfl
@[simp] theorem State.modGang_pitchRels (s : State) (g : Nat) (f : Gang → Gang) : (s.modGang g f).pitchRels = s.pitchRels := rfl
@[simp] theorem State.modGang_formers (s : State) (g : Nat) (f : Gang → Gang) : (s.modGang g f).formers = s.formers := rfl
@[simp] theorem State.modGang_chains (s : State) (g : Nat) (f : Gang → Gang) : (s.modGang g f).chains = s.chains := rfl
@[simp] theorem State.modGang_saved (s : State) (g : Nat) (f : Gang → Gang) : (s.modGang g f).saved = s.saved := rfl
@[simp] theorem State.modGang_hr (s : State) (g : Nat) (f : Gang → Gang) : (s.modGang g f).hr = s.hr := rfl
@[simp] theorem State.modGang_rpt (s : State) (g : Nat) (f : Gang → Gang) : (s.modGang g f).rpt = s.rpt := rfl
@[simp] theorem State.modGang_routes (s : State) (g : Nat) (f : Gang → Gang) : (s.modGang g f).routes = s.routes := rfl
@[simp] theorem State.modGang_lports (s : State) (g : Nat) (f : Gang → Gang) : (s.modGang g f).lports = s.lports := rfl
@[simp] theorem State.modGang_gports (s : State) (g : Nat) (f : Gang → Gang) : (s.modGang g f).gports = s.gports := rfl
@[simp] theorem State.modGang_devid (s : State) (g : Nat) (f : Gang → Gang) : (s.modGang g f).devid = s.devid := rfl
@[simp] theorem State.modGang_clk (s : State) (g : Nat) (f : Gang → Gang) : (s.modGang g f).clk = s.clk := rfl
@[simp] theorem State.modGang_mhz (s : State) (g : Nat) (f : Gang → Gang) : (s.modGang g f).mhz = s.mhz := rfl
@[simp] theorem State.modGang_pod (s : State) (g : Nat) (f : Gang → Gang) : (s.modGang g f).pod = s.pod := rfl
@[simp] theorem State.modGang_step (s : State) (g : Nat) (f : Gang → Gang) : (s.modGang g f).step = s.step := rfl
@[simp] theorem State.modGang_root (s : State) (g : Nat) (f : Gang → Gang) : (s.modGang g f).root = s.root := rfl
@[simp] theorem State.modGang_recvNo (s : State) (g : Nat) (f : Gang → Gang) : (s.modGang g f).recvNo = s.recvNo := rfl
@[simp] theorem State.modGang_refused (s : State) (g : Nat) (f : Gang → Gang) : (s.modGang g f).refused = s.refused := rfl
@[simp] theorem State.modGang_applyQ (s : State) (g : Nat) (f : Gang → Gang) : (s.modGang g f).applyQ = s.applyQ := rfl
@[simp] theorem State.modGang_staged (s : State) (g : Nat) (f : Gang → Gang) : (s.modGang g f).staged = s.staged := rfl
@[simp] theorem State.modGang_sent (s : State) (g : Nat) (f : Gang → Gang) : (s.modGang g f).sent = s.sent := rfl
@[simp] theorem State.modGang_seqNos (s : State) (g : Nat) (f : Gang → Gang) : (s.modGang g f).seqNos = s.seqNos := rfl
@[simp] theorem State.modGang_allowance (s : State) (g : Nat) (f : Gang → Gang) : (s.modGang g f).allowance = s.allowance := rfl
@[simp] theorem State.modGang_early (s : State) (g : Nat) (f : Gang → Gang) : (s.modGang g f).early = s.early := rfl
@[simp] theorem State.modGang_reads (s : State) (g : Nat) (f : Gang → Gang) : (s.modGang g f).reads = s.reads := rfl
@[simp] theorem State.modGang_waitReads (s : State) (g : Nat) (f : Gang → Gang) : (s.modGang g f).waitReads = s.waitReads := rfl
@[simp] theorem State.modGang_arrivals (s : State) (g : Nat) (f : Gang → Gang) : (s.modGang g f).arrivals = s.arrivals := rfl
@[simp] theorem State.modGang_gens (s : State) (g : Nat) (f : Gang → Gang) : (s.modGang g f).gens = s.gens := rfl
@[simp] theorem State.modGang_netOut (s : State) (g : Nat) (f : Gang → Gang) : (s.modGang g f).netOut = s.netOut := rfl
@[simp] theorem State.modGang_power (s : State) (g : Nat) (f : Gang → Gang) : (s.modGang g f).power = s.power := rfl
@[simp] theorem State.modGang_waking (s : State) (g : Nat) (f : Gang → Gang) : (s.modGang g f).waking = s.waking := rfl
@[simp] theorem State.modGang_thold (s : State) (g : Nat) (f : Gang → Gang) : (s.modGang g f).thold = s.thold := rfl
@[simp] theorem State.modGang_ckPos (s : State) (g : Nat) (f : Gang → Gang) : (s.modGang g f).ckPos = s.ckPos := rfl
@[simp] theorem State.modGang_msixMask (s : State) (g : Nat) (f : Gang → Gang) : (s.modGang g f).msixMask = s.msixMask := rfl
@[simp] theorem State.modGang_msixPend (s : State) (g : Nat) (f : Gang → Gang) : (s.modGang g f).msixPend = s.msixPend := rfl
@[simp] theorem State.modGang_msixSent (s : State) (g : Nat) (f : Gang → Gang) : (s.modGang g f).msixSent = s.msixSent := rfl
@[simp] theorem State.modGang_invRun (s : State) (g : Nat) (f : Gang → Gang) : (s.modGang g f).invRun = s.invRun := rfl
@[simp] theorem State.modGang_invHeld (s : State) (g : Nat) (f : Gang → Gang) : (s.modGang g f).invHeld = s.invHeld := rfl
@[simp] theorem State.modGang_bringUp (s : State) (g : Nat) (f : Gang → Gang) : (s.modGang g f).bringUp = s.bringUp := rfl
@[simp] theorem State.modGang_rr (s : State) (g : Nat) (f : Gang → Gang) : (s.modGang g f).rr = s.rr := rfl
@[simp] theorem State.modGang_noRoute (s : State) (g : Nat) (f : Gang → Gang) : (s.modGang g f).noRoute = s.noRoute := rfl
@[simp] theorem State.gang_modGang (s : State) (g : Nat) (f : Gang → Gang) : (s.modGang g f).gang g = f (s.gang g) := by
  simp [State.gang, State.modGang]
theorem State.gang_modGang_other (s : State) (g j : Nat) (f : Gang → Gang) (h : j ≠ g) : (s.modGang g f).gang j = s.gang j := by
  simp [State.gang, State.modGang, Map.get_set_other _ _ _ _ _ h]
@[simp] theorem State.wave_modGang (s : State) (g : Nat) (f : Gang → Gang) : (s.modGang g f).wave = s.wave := rfl
@[simp] theorem State.waveAt_modGang (s : State) (g k : Nat) (f : Gang → Gang) : (s.modGang g f).waveAt k = s.waveAt k := rfl
@[simp] theorem State.launch_modGang (s : State) (g l : Nat) (f : Gang → Gang) : (s.modGang g f).launch l = s.launch l := rfl

@[simp] theorem State.modLaunch_agenda (s : State) (l : Nat) (f : Launch → Launch) : (s.modLaunch l f).agenda = s.agenda := rfl
@[simp] theorem State.modLaunch_tick (s : State) (l : Nat) (f : Launch → Launch) : (s.modLaunch l f).tick = s.tick := rfl
@[simp] theorem State.modLaunch_party (s : State) (l : Nat) (f : Launch → Launch) : (s.modLaunch l f).party = s.party := rfl
@[simp] theorem State.modLaunch_cur (s : State) (l : Nat) (f : Launch → Launch) : (s.modLaunch l f).cur = s.cur := rfl
@[simp] theorem State.modLaunch_seq (s : State) (l : Nat) (f : Launch → Launch) : (s.modLaunch l f).seq = s.seq := rfl
@[simp] theorem State.modLaunch_nextId (s : State) (l : Nat) (f : Launch → Launch) : (s.modLaunch l f).nextId = s.nextId := rfl
@[simp] theorem State.modLaunch_waves (s : State) (l : Nat) (f : Launch → Launch) : (s.modLaunch l f).waves = s.waves := rfl
@[simp] theorem State.modLaunch_gangs (s : State) (l : Nat) (f : Launch → Launch) : (s.modLaunch l f).gangs = s.gangs := rfl
@[simp] theorem State.modLaunch_seqs (s : State) (l : Nat) (f : Launch → Launch) : (s.modLaunch l f).seqs = s.seqs := rfl
@[simp] theorem State.modLaunch_mem (s : State) (l : Nat) (f : Launch → Launch) : (s.modLaunch l f).mem = s.mem := rfl
@[simp] theorem State.modLaunch_dirty (s : State) (l : Nat) (f : Launch → Launch) : (s.modLaunch l f).dirty = s.dirty := rfl
@[simp] theorem State.modLaunch_reduce (s : State) (l : Nat) (f : Launch → Launch) : (s.modLaunch l f).reduce = s.reduce := rfl
@[simp] theorem State.modLaunch_flushQ (s : State) (l : Nat) (f : Launch → Launch) : (s.modLaunch l f).flushQ = s.flushQ := rfl
@[simp] theorem State.modLaunch_shadow (s : State) (l : Nat) (f : Launch → Launch) : (s.modLaunch l f).shadow = s.shadow := rfl
@[simp] theorem State.modLaunch_traceQ (s : State) (l : Nat) (f : Launch → Launch) : (s.modLaunch l f).traceQ = s.traceQ := rfl
@[simp] theorem State.modLaunch_bad (s : State) (l : Nat) (f : Launch → Launch) : (s.modLaunch l f).bad = s.bad := rfl
@[simp] theorem State.modLaunch_badVault (s : State) (l : Nat) (f : Launch → Launch) : (s.modLaunch l f).badVault = s.badVault := rfl
@[simp] theorem State.modLaunch_fires (s : State) (l : Nat) (f : Launch → Launch) : (s.modLaunch l f).fires = s.fires := rfl
@[simp] theorem State.modLaunch_l1 (s : State) (l : Nat) (f : Launch → Launch) : (s.modLaunch l f).l1 = s.l1 := rfl
@[simp] theorem State.modLaunch_ro (s : State) (l : Nat) (f : Launch → Launch) : (s.modLaunch l f).ro = s.ro := rfl
@[simp] theorem State.modLaunch_tlb (s : State) (l : Nat) (f : Launch → Launch) : (s.modLaunch l f).tlb = s.tlb := rfl
@[simp] theorem State.modLaunch_missQ (s : State) (l : Nat) (f : Launch → Launch) : (s.modLaunch l f).missQ = s.missQ := rfl
@[simp] theorem State.modLaunch_walked (s : State) (l : Nat) (f : Launch → Launch) : (s.modLaunch l f).walked = s.walked := rfl
@[simp] theorem State.modLaunch_ops (s : State) (l : Nat) (f : Launch → Launch) : (s.modLaunch l f).ops = s.ops := rfl
@[simp] theorem State.modLaunch_cmds (s : State) (l : Nat) (f : Launch → Launch) : (s.modLaunch l f).cmds = s.cmds := rfl
@[simp] theorem State.modLaunch_col (s : State) (l : Nat) (f : Launch → Launch) : (s.modLaunch l f).col = s.col := rfl
@[simp] theorem State.modLaunch_slots (s : State) (l : Nat) (f : Launch → Launch) : (s.modLaunch l f).slots = s.slots := rfl
@[simp] theorem State.modLaunch_drains (s : State) (l : Nat) (f : Launch → Launch) : (s.modLaunch l f).drains = s.drains := rfl
@[simp] theorem State.modLaunch_queue (s : State) (l : Nat) (f : Launch → Launch) : (s.modLaunch l f).queue = s.queue := rfl
@[simp] theorem State.modLaunch_nodes (s : State) (l : Nat) (f : Launch → Launch) : (s.modLaunch l f).nodes = s.nodes := rfl
@[simp] theorem State.modLaunch_bins (s : State) (l : Nat) (f : Launch → Launch) : (s.modLaunch l f).bins = s.bins := rfl
@[simp] theorem State.modLaunch_watch (s : State) (l : Nat) (f : Launch → Launch) : (s.modLaunch l f).watch = s.watch := rfl
@[simp] theorem State.modLaunch_pitch (s : State) (l : Nat) (f : Launch → Launch) : (s.modLaunch l f).pitch = s.pitch := rfl
@[simp] theorem State.modLaunch_pitchReqs (s : State) (l : Nat) (f : Launch → Launch) : (s.modLaunch l f).pitchReqs = s.pitchReqs := rfl
@[simp] theorem State.modLaunch_pitchRels (s : State) (l : Nat) (f : Launch → Launch) : (s.modLaunch l f).pitchRels = s.pitchRels := rfl
@[simp] theorem State.modLaunch_formers (s : State) (l : Nat) (f : Launch → Launch) : (s.modLaunch l f).formers = s.formers := rfl
@[simp] theorem State.modLaunch_chains (s : State) (l : Nat) (f : Launch → Launch) : (s.modLaunch l f).chains = s.chains := rfl
@[simp] theorem State.modLaunch_saved (s : State) (l : Nat) (f : Launch → Launch) : (s.modLaunch l f).saved = s.saved := rfl
@[simp] theorem State.modLaunch_hr (s : State) (l : Nat) (f : Launch → Launch) : (s.modLaunch l f).hr = s.hr := rfl
@[simp] theorem State.modLaunch_rpt (s : State) (l : Nat) (f : Launch → Launch) : (s.modLaunch l f).rpt = s.rpt := rfl
@[simp] theorem State.modLaunch_routes (s : State) (l : Nat) (f : Launch → Launch) : (s.modLaunch l f).routes = s.routes := rfl
@[simp] theorem State.modLaunch_lports (s : State) (l : Nat) (f : Launch → Launch) : (s.modLaunch l f).lports = s.lports := rfl
@[simp] theorem State.modLaunch_gports (s : State) (l : Nat) (f : Launch → Launch) : (s.modLaunch l f).gports = s.gports := rfl
@[simp] theorem State.modLaunch_devid (s : State) (l : Nat) (f : Launch → Launch) : (s.modLaunch l f).devid = s.devid := rfl
@[simp] theorem State.modLaunch_clk (s : State) (l : Nat) (f : Launch → Launch) : (s.modLaunch l f).clk = s.clk := rfl
@[simp] theorem State.modLaunch_mhz (s : State) (l : Nat) (f : Launch → Launch) : (s.modLaunch l f).mhz = s.mhz := rfl
@[simp] theorem State.modLaunch_pod (s : State) (l : Nat) (f : Launch → Launch) : (s.modLaunch l f).pod = s.pod := rfl
@[simp] theorem State.modLaunch_step (s : State) (l : Nat) (f : Launch → Launch) : (s.modLaunch l f).step = s.step := rfl
@[simp] theorem State.modLaunch_root (s : State) (l : Nat) (f : Launch → Launch) : (s.modLaunch l f).root = s.root := rfl
@[simp] theorem State.modLaunch_recvNo (s : State) (l : Nat) (f : Launch → Launch) : (s.modLaunch l f).recvNo = s.recvNo := rfl
@[simp] theorem State.modLaunch_refused (s : State) (l : Nat) (f : Launch → Launch) : (s.modLaunch l f).refused = s.refused := rfl
@[simp] theorem State.modLaunch_applyQ (s : State) (l : Nat) (f : Launch → Launch) : (s.modLaunch l f).applyQ = s.applyQ := rfl
@[simp] theorem State.modLaunch_staged (s : State) (l : Nat) (f : Launch → Launch) : (s.modLaunch l f).staged = s.staged := rfl
@[simp] theorem State.modLaunch_sent (s : State) (l : Nat) (f : Launch → Launch) : (s.modLaunch l f).sent = s.sent := rfl
@[simp] theorem State.modLaunch_seqNos (s : State) (l : Nat) (f : Launch → Launch) : (s.modLaunch l f).seqNos = s.seqNos := rfl
@[simp] theorem State.modLaunch_allowance (s : State) (l : Nat) (f : Launch → Launch) : (s.modLaunch l f).allowance = s.allowance := rfl
@[simp] theorem State.modLaunch_early (s : State) (l : Nat) (f : Launch → Launch) : (s.modLaunch l f).early = s.early := rfl
@[simp] theorem State.modLaunch_reads (s : State) (l : Nat) (f : Launch → Launch) : (s.modLaunch l f).reads = s.reads := rfl
@[simp] theorem State.modLaunch_waitReads (s : State) (l : Nat) (f : Launch → Launch) : (s.modLaunch l f).waitReads = s.waitReads := rfl
@[simp] theorem State.modLaunch_arrivals (s : State) (l : Nat) (f : Launch → Launch) : (s.modLaunch l f).arrivals = s.arrivals := rfl
@[simp] theorem State.modLaunch_gens (s : State) (l : Nat) (f : Launch → Launch) : (s.modLaunch l f).gens = s.gens := rfl
@[simp] theorem State.modLaunch_netOut (s : State) (l : Nat) (f : Launch → Launch) : (s.modLaunch l f).netOut = s.netOut := rfl
@[simp] theorem State.modLaunch_power (s : State) (l : Nat) (f : Launch → Launch) : (s.modLaunch l f).power = s.power := rfl
@[simp] theorem State.modLaunch_waking (s : State) (l : Nat) (f : Launch → Launch) : (s.modLaunch l f).waking = s.waking := rfl
@[simp] theorem State.modLaunch_thold (s : State) (l : Nat) (f : Launch → Launch) : (s.modLaunch l f).thold = s.thold := rfl
@[simp] theorem State.modLaunch_ckPos (s : State) (l : Nat) (f : Launch → Launch) : (s.modLaunch l f).ckPos = s.ckPos := rfl
@[simp] theorem State.modLaunch_msixMask (s : State) (l : Nat) (f : Launch → Launch) : (s.modLaunch l f).msixMask = s.msixMask := rfl
@[simp] theorem State.modLaunch_msixPend (s : State) (l : Nat) (f : Launch → Launch) : (s.modLaunch l f).msixPend = s.msixPend := rfl
@[simp] theorem State.modLaunch_msixSent (s : State) (l : Nat) (f : Launch → Launch) : (s.modLaunch l f).msixSent = s.msixSent := rfl
@[simp] theorem State.modLaunch_invRun (s : State) (l : Nat) (f : Launch → Launch) : (s.modLaunch l f).invRun = s.invRun := rfl
@[simp] theorem State.modLaunch_invHeld (s : State) (l : Nat) (f : Launch → Launch) : (s.modLaunch l f).invHeld = s.invHeld := rfl
@[simp] theorem State.modLaunch_bringUp (s : State) (l : Nat) (f : Launch → Launch) : (s.modLaunch l f).bringUp = s.bringUp := rfl
@[simp] theorem State.modLaunch_rr (s : State) (l : Nat) (f : Launch → Launch) : (s.modLaunch l f).rr = s.rr := rfl
@[simp] theorem State.modLaunch_noRoute (s : State) (l : Nat) (f : Launch → Launch) : (s.modLaunch l f).noRoute = s.noRoute := rfl
@[simp] theorem State.launch_modLaunch (s : State) (l : Nat) (f : Launch → Launch) : (s.modLaunch l f).launch l = f (s.launch l) := by
  simp [State.launch, State.modLaunch]
theorem State.launch_modLaunch_other (s : State) (l j : Nat) (f : Launch → Launch) (h : j ≠ l) :
    (s.modLaunch l f).launch j = s.launch j := by
  simp [State.launch, State.modLaunch, Map.get_set_other _ _ _ _ _ h]
@[simp] theorem State.waveAt_modLaunch (s : State) (l k : Nat) (f : Launch → Launch) : (s.modLaunch l f).waveAt k = s.waveAt k := rfl
@[simp] theorem State.gang_modLaunch (s : State) (l g : Nat) (f : Launch → Launch) : (s.modLaunch l f).gang g = s.gang g := rfl

/-! ### Registers of a wave -/

@[simp] theorem Wave.sreg_setS (w : Wave) (n : Nat) (x : Word) : (w.setS n x).sreg n = x := by simp [Wave.setS, Wave.sreg]
@[simp] theorem Wave.sFull_setS (w : Wave) (n : Nat) (x : Word) : (w.setS n x).sFull n = true := by simp [Wave.setS, Wave.sFull]
theorem Wave.sreg_setS_other (w : Wave) (n m : Nat) (x : Word) (h : m ≠ n) : (w.setS n x).sreg m = w.sreg m := by
  simp [Wave.setS, Wave.sreg, Map.get_set_other _ _ _ _ _ h]
theorem Wave.sFull_setS_other (w : Wave) (n m : Nat) (x : Word) (h : m ≠ n) : (w.setS n x).sFull m = w.sFull m := by
  simp [Wave.setS, Wave.sFull, Map.get_set_other _ _ _ _ _ h]
@[simp] theorem Wave.sreg_emptyS (w : Wave) (n m : Nat) : (w.emptyS n).sreg m = w.sreg m := by
  by_cases h : m = n
  · subst h; simp [Wave.emptyS, Wave.sreg]
  · simp [Wave.emptyS, Wave.sreg, Map.get_set_other _ _ _ _ _ h]
@[simp] theorem Wave.sFull_emptyS (w : Wave) (n : Nat) : (w.emptyS n).sFull n = false := by simp [Wave.emptyS, Wave.sFull]
theorem Wave.sFull_emptyS_other (w : Wave) (n m : Nat) (h : m ≠ n) : (w.emptyS n).sFull m = w.sFull m := by
  simp [Wave.emptyS, Wave.sFull, Map.get_set_other _ _ _ _ _ h]
@[simp] theorem Wave.vreg_setV (w : Wave) (n : Nat) (x : List Lane) : (w.setV n x).vreg n = x := by simp [Wave.setV, Wave.vreg]
@[simp] theorem Wave.vFull_setV (w : Wave) (n : Nat) (x : List Lane) : (w.setV n x).vFull n = true := by simp [Wave.setV, Wave.vFull]
theorem Wave.vreg_setV_other (w : Wave) (n m : Nat) (x : List Lane) (h : m ≠ n) : (w.setV n x).vreg m = w.vreg m := by
  simp [Wave.setV, Wave.vreg, Map.get_set_other _ _ _ _ _ h]
theorem Wave.vFull_setV_other (w : Wave) (n m : Nat) (x : List Lane) (h : m ≠ n) : (w.setV n x).vFull m = w.vFull m := by
  simp [Wave.setV, Wave.vFull, Map.get_set_other _ _ _ _ _ h]
theorem Wave.pred_setPred (w : Wave) (p : Nat) (x : BitVec 32) (h : p ≠ 0) : (w.setPred p x).pred p = x := by
  simp [Wave.setPred, Wave.pred, h]
theorem Wave.pred_setPred_other (w : Wave) (p q : Nat) (x : BitVec 32) (h : q ≠ p) : (w.setPred p x).pred q = w.pred q := by
  by_cases hp : p = 0
  · simp [Wave.setPred, hp]
  · by_cases hq : q = 0
    · simp [Wave.pred, hq]
    · simp [Wave.setPred, Wave.pred, hp, hq, Map.get_set_other _ _ _ _ _ h]
@[simp] theorem Wave.setPred_zero (w : Wave) (x : BitVec 32) : w.setPred 0 x = w := by simp [Wave.setPred]
@[simp] theorem Wave.pred_zero (w : Wave) : w.pred 0 = 0xffffffff := by simp [Wave.pred]

end Sys2Proof.Machine
end

