-- ==== Sys2Proof/Laws/Translate.lean ====
section
/-!
SUPPORT. What the shared operations on TLBs, miss queues and pipes can do: where a translation comes from, that holding one touches the TLBs
alone, and what a turn of a wave comes to.
-/
namespace Sys2Proof.Machine

/-- An item taken by a free number is one of the list. -/
theorem pickOf_mem {α : Type} {l : List α} {n : Nat} {a : α} (h : pickOf l n = some a) : a ∈ l := by
  unfold pickOf at h
  split at h
  · cases h
  · simpa using h.symm
  · exact List.mem_of_getElem? h

/-- Something is taken from a list that holds something. -/
theorem pickOf_isSome {α : Type} {l : List α} (h : l ≠ []) (n : Nat) : (pickOf l n).isSome := by
  unfold pickOf
  split
  · exact absurd rfl h
  · rfl
  · rw [List.getElem?_eq_getElem (Nat.mod_lt _ (List.length_pos_iff.mpr h))]
    rfl

/-- What a TLB gives is an entry that it holds (R238, R239). -/
theorem State.tlbFind_held {s : State} {unit va : Nat} {asid : BitVec 16} {p : Word} {n : Nat} (h : s.tlbFind unit asid va = some (p, n)) :
    ∃ e ∈ s.tlb, e.unit = unit ∧ e.hits asid va = true ∧ e.pte = p ∧ e.span = n := by
  unfold State.tlbFind at h
  obtain ⟨e, he, hv⟩ := Option.map_eq_some_iff.mp h
  have hm := List.mem_filter.mp (pickOf_mem he)
  simp only [Bool.and_eq_true, beq_iff_eq] at hm
  simp only [Prod.mk.injEq] at hv
  exact ⟨e, hm.1, hm.2.1, hm.2.2, hv.1, hv.2⟩

/-- Where a translation comes from: an entry of the party's TLB, what a walk has returned to it, or an entry of its die's L2 TLB (R239, R241). -/
theorem State.transAs_ok {s : State} {unit waiter va : Nat} {asid : BitVec 16} {p : Word} {n : Nat}
    (h : s.transAs unit waiter asid va = .ok p n) :
    va < 2 ^ 56 ∧ ((∃ e ∈ s.tlb, (e.unit = unit ∨ e.unit = tlbL2 (tlbDie unit)) ∧ e.hits asid va = true ∧ e.pte = p ∧ e.span = n) ∨
      ∃ f ∈ s.walked, f.waiter = waiter ∧ f.asid = asid ∧ f.page = va / 2 ^ 18 ∧ f.fault = none ∧ f.pte = p ∧ f.span = n) := by
  unfold State.transAs at h
  split at h
  · cases h
  · refine ⟨by omega, ?_⟩
    split at h
    · next q m hq =>
      cases h
      obtain ⟨e, he, hu, hh⟩ := State.tlbFind_held hq
      exact .inl ⟨e, he, .inl hu, hh⟩
    · split at h
      · next f hf =>
        have hp := List.find?_some hf
        simp only [Bool.and_eq_true, beq_iff_eq] at hp
        split at h
        · cases h
        · next hn =>
          cases h
          exact .inr ⟨f, List.mem_of_find?_eq_some hf, hp.1.1, hp.1.2, hp.2, hn, rfl, rfl⟩
      · split at h
        · next q m hq =>
          cases h
          obtain ⟨e, he, hu, hh⟩ := State.tlbFind_held hq
          exact .inl ⟨e, he, .inr hu, hh⟩
        · cases h

/-- A translation faults above the virtual space, or by what a walk has returned to the waiter (R238, R241). -/
theorem State.transAs_fault {s : State} {unit waiter va : Nat} {asid : BitVec 16} {c : Code} (h : s.transAs unit waiter asid va = .fault c) :
    (2 ^ 56 ≤ va ∧ c = Code.addrRange) ∨
      ∃ f ∈ s.walked, f.waiter = waiter ∧ f.asid = asid ∧ f.page = va / 2 ^ 18 ∧ f.fault = some c := by
  unfold State.transAs at h
  split at h
  · next hv => cases h; exact .inl ⟨hv, rfl⟩
  · split at h
    · cases h
    · split at h
      · next f hf =>
        have hp := List.find?_some hf
        simp only [Bool.and_eq_true, beq_iff_eq] at hp
        split at h
        · next c' hc => cases h; exact .inr ⟨f, List.mem_of_find?_eq_some hf, hp.1.1, hp.1.2, hp.2, hc⟩
        · cases h
      · split at h <;> cases h

/-- Holding a translation changes the TLBs alone. -/
theorem State.tlbPut_eq (s : State) (e : TlbEntry) : ∃ l, s.tlbPut e = { s with tlb := l } ∧ e ∈ l := by
  unfold State.tlbPut
  split
  · next h => exact ⟨s.tlb, rfl, by simpa using h⟩
  · exact ⟨_, rfl, by simp⟩

/-- Queueing a miss changes the miss queues alone (R241). -/
theorem State.missAs_eq (s : State) (unit waiter va : Nat) (asid : BitVec 16) : ∃ l, s.missAs unit waiter asid va = { s with missQ := l } := by
  unfold State.missAs
  dsimp only
  split
  · exact ⟨_, rfl⟩
  · split <;> exact ⟨_, rfl⟩

/-- The queue of a die holds 2,048 misses at most (R241). -/
theorem State.missAs_length (s : State) (unit waiter va : Nat) (asid : BitVec 16) (die : Nat)
    (h : (s.missQ.filter fun m => m.die == die).length ≤ 2048) :
    ((s.missAs unit waiter asid va).missQ.filter fun m => m.die == die).length ≤ 2048 := by
  unfold State.missAs
  dsimp only
  split
  · rw [List.filter_map, List.length_map]
    refine le_trans (le_of_eq ?_) h
    congr 1
    apply List.filter_congr
    intro m _
    dsimp only [Function.comp]
    split <;> rfl
  · split
    · exact h
    · next hf =>
      rw [List.filter_append, List.length_append]
      by_cases hd : tlbDie unit = die
      · subst hd; simp at hf ⊢; omega
      · simp [hd]; exact h

/-- What the next issue of a wave comes to: it goes on, its pipe belongs to another wave, it is held, or it traps (R49, R51). -/
theorem State.issueTo_cases (s t : State) :
    s.issueTo t = .next (s.issued t) ∨ s.issueTo t = .next t ∨ (s.stalled s.cur = true ∧ s.issueTo t = exec .watchdogStall s) ∨
      (s.hasPipe s.cur = false ∧ s.issueTo t = .next (s.modWave fun w => { w with blockedAt := none, held := false })) := by
  unfold State.issueTo
  split
  · split
    · next h => exact .inr (.inr (.inl ⟨h, rfl⟩))
    · exact .inr (.inl rfl)
  · split
    · exact .inr (.inl rfl)
    · split
      · exact .inl rfl
      · next h => exact .inr (.inr (.inr ⟨by simpa using h, rfl⟩))

/-- A pipe whose last wave stands inside its clause belongs to that wave alone (R51). -/
theorem State.hasPipe_midClause {s : State} {k m : Nat} {w : Wave} (hm : (m, w) ∈ s.pipeMates k) (hl : w.pos = s.rr.get 3 (s.waveAt k).pipe)
    (hc : w.midClause = true) (hk : (s.waveAt k).pos ≠ w.pos) : s.hasPipe k = false := by
  have h1 : (s.pipeMates k).isEmpty = false := by
    rw [List.isEmpty_eq_false_iff]
    intro h; rw [h] at hm; cases hm
  have h2 : ((s.waveAt k).pos == s.rr.get 3 (s.waveAt k).pipe) = false := by
    rw [← hl]; simpa using hk
  have h3 : (s.pipeMates k).any (fun m => m.2.pos == s.rr.get 3 (s.waveAt k).pipe && m.2.midClause) = true :=
    List.any_eq_true.mpr ⟨(m, w), hm, by simp [hl, hc]⟩
  simp [State.hasPipe, h1, h2, h3]

end Sys2Proof.Machine
end

