-- ==== Sys2Proof/WellFormed.lean ====
section
/-!
DEFINITION. Which instruction terms are well formed: those whose fields hold no value that the format chapter or the
instruction's own rule reserves, so that issuing them is not ILLEGAL by the fields alone (R66, R72, R75 to R79, R171). What
depends on a register, an allocation or a mode is checked when the instruction issues.
-/
namespace Sys2Proof

/-- The FMT8 codes that R72 assigns, without 0. -/
def fmtAssigned (c : BitVec 8) : Bool :=
  decide (1 ≤ c.toNat ∧ c.toNat ≤ 9) || (decide (0x40 ≤ c.toNat ∧ c.toNat < 0x60) && c.toNat % 8 != 0)

/-- The width in bits of an assigned code (R72). -/
def fmtBits (c : BitVec 8) : Nat := if c.toNat ≤ 3 then 32 else if c.toNat ≤ 7 then 16 else 8

/-- A second word of a vector form whose TYPE is 0 or in a set (R171). -/
def VL.wf (l : VL) (set : List Nat) : Bool := l.type.toNat == 0 || set.contains l.type.toNat

/-- `vcvt`: both formats are assigned, and a conversion that changes the width takes an extent of one column (R195, R196). -/
def cvtWf (l : VL) (dfmt : BitVec 8) : Bool :=
  fmtAssigned l.c && fmtAssigned dfmt && (fmtBits l.c == fmtBits dfmt || l.exw == 0)

/-- A second word of a memory form with a memory scope (R75). -/
def ML.wf (l : ML) : Bool := decide (l.scope.toNat ≤ 4)

/-- The same, with an FMT8 from a set. -/
def ML.wfFmt (l : ML) (set : List Nat) : Bool := l.wf && set.contains l.fmt8.toNat

/-- The same, with an assigned FMT8 or 0. -/
def ML.wfAny (l : ML) : Bool := l.wf && (l.fmt8 == 0 || fmtAssigned l.fmt8)

/-- The formats of `vredfadd`: FP32, BF16 and binary8 (R258). -/
def ML.wfRed (l : ML) : Bool := l.wf && (l.fmt8 == 0 || l.fmt8 == 3 || l.fmt8 == 7 || (fmtAssigned l.fmt8 && decide (0x40 ≤ l.fmt8.toNat)))

/-- A second word of an engine form with a memory scope (R78). -/
def EL.wf (l : EL) : Bool := decide (l.scope.toNat ≤ 4)

/-- A matrix number N8 (R77). -/
def n16 (n : BitVec 8) : Bool := decide (n.toNat < 16)

/-- X of a drain names an address descriptor (R429, R430). -/
def xDesc (x : BitVec 5) : Bool := decide (16 ≤ x.toNat)

/-- A CONV word holds 0, FP32, FP16, BF16 or binary8 (R429). -/
def convWf (c : BitVec 32) : Bool :=
  let f : BitVec 8 := c.setWidth 8
  f == 0 || f == 3 || f == 6 || f == 7 || (fmtAssigned f && decide (0x40 ≤ f.toNat))

/-- The type sets of R171 and of single instructions. -/
def setF : List Nat := [3, 6, 7]
def setI : List Nat := [1, 2, 4, 5, 8, 9]
def setFI : List Nat := setF ++ setI

/-- No field holds a reserved value. -/
def Instr.wf : Instr → Bool
  | .sshli _ _ m => decide (m.toNat < 64)
  | .sshri _ _ m => decide (m.toNat < 64)
  | .ssrai _ _ m => decide (m.toNat < 64)
  | .sshliLong _ _ m => decide (m.toNat < 64)
  | .sshriLong _ _ m => decide (m.toNat < 64)
  | .ssraiLong _ _ m => decide (m.toNat < 64)
  | .bar n => decide (n.toNat < 5)
  | .nbarw _ n => decide (n.toNat < 16)
  | .nbarr n => decide (n.toNat < 16)
  | .nbwait _ n => decide (n.toNat < 16)
  | .nbinit _ n => decide (n.toNat < 16)
  | .phint k _ _ _ => k != 3
  | .vaddLong _ _ _ l => l.wf setFI
  | .vsubLong _ _ _ l => l.wf setFI
  | .vmulLong _ _ _ l => l.wf setF
  | .vfmaLong _ _ _ l => l.wf setF
  | .vminLong _ _ _ l => l.wf setFI
  | .vmaxLong _ _ _ l => l.wf setFI
  | .vaddminLong _ _ _ l => l.wf setFI
  | .vaddmaxLong _ _ _ l => l.wf setFI
  | .vrcpLong _ _ l => l.wf setF
  | .vsqrtLong _ _ l => l.wf setF
  | .vrsqLong _ _ l => l.wf setF
  | .vexp2Long _ _ l => l.wf [3]
  | .vlog2Long _ _ l => l.wf [3]
  | .vsinLong _ _ l => l.wf [3]
  | .vcosLong _ _ l => l.wf [3]
  | .vrintLong _ _ l => l.wf setF
  | .vshlLong _ _ _ l => l.wf setI
  | .vshrLong _ _ _ l => l.wf setI
  | .vmulloLong _ _ _ l => l.wf setI
  | .vmulhiLong _ _ _ l => l.wf setI
  | .vpopcLong _ _ l => l.wf setI
  | .vclzLong _ _ l => l.wf setI
  | .vcmpEqF32Long _ _ _ l => l.wf [3]
  | .vcmpNeF32Long _ _ _ l => l.wf [3]
  | .vcmpLtF32Long _ _ _ l => l.wf [3]
  | .vcmpLeF32Long _ _ _ l => l.wf [3]
  | .vcmpGtF32Long _ _ _ l => l.wf [3]
  | .vcmpGeF32Long _ _ _ l => l.wf [3]
  | .vcmpEqI32Long _ _ _ l => l.wf [1]
  | .vcmpNeI32Long _ _ _ l => l.wf [1]
  | .vcmpLtI32Long _ _ _ l => l.wf [1]
  | .vcmpLeI32Long _ _ _ l => l.wf [1]
  | .vcmpGtI32Long _ _ _ l => l.wf [1]
  | .vcmpGeI32Long _ _ _ l => l.wf [1]
  | .vcmpLtN32Long _ _ _ l => l.wf [2]
  | .vcmpLeN32Long _ _ _ l => l.wf [2]
  | .vcmpGtN32Long _ _ _ l => l.wf [2]
  | .vcmpGeN32Long _ _ _ l => l.wf [2]
  | .vpackLong _ _ _ l => l.wf [4, 5, 6, 7]
  | .vunploLong _ _ l => l.wf [4, 5, 6, 7]
  | .vunphiLong _ _ l => l.wf [4, 5, 6, 7]
  | .vscanLong _ _ l => l.wf [1, 2, 3]
  | .vdot2Long _ _ _ l => l.wf [6, 7]
  | .vcvt _ _ f l => cvtWf l f
  | .sacas d _ _ => d != 127
  | .fence _ c => decide (c.toNat ≤ 4)
  | .fenceAcq _ c => decide (c.toNat ≤ 4)
  | .fenceRel _ c => decide (c.toNat ≤ 4)
  | .sldN8Long _ _ _ l => l.wf
  | .sldI8Long _ _ _ l => l.wf
  | .sldN16Long _ _ _ l => l.wf
  | .sldI16Long _ _ _ l => l.wf
  | .sldN32Long _ _ _ l => l.wf
  | .sldI32Long _ _ _ l => l.wf
  | .sldN64Long _ _ _ l => l.wf
  | .sstN8Long _ _ _ l => l.wf
  | .sstN16Long _ _ _ l => l.wf
  | .sstN32Long _ _ _ l => l.wf
  | .sstN64Long _ _ _ l => l.wf
  | .vldLong _ _ _ l => l.wf
  | .vstLong _ _ _ l => l.wf
  | .vldxLong _ _ _ _ l => l.wfAny
  | .vstxLong _ _ _ _ l => l.wfAny
  | .vldroLong _ _ _ l => l.wf
  | .vldroxLong _ _ _ _ l => l.wfAny
  | .vldvLong _ _ _ l => l.wf
  | .vstvLong _ _ _ l => l.wf
  | .vldvxLong _ _ _ _ l => l.wf
  | .vstvxLong _ _ _ _ l => l.wf
  | .vstsLong _ _ _ l => l.wf
  | .vaaddLong _ _ _ _ l => l.wfFmt [0, 1, 2]
  | .vaminLong _ _ _ _ l => l.wfFmt [0, 1, 2]
  | .vamaxLong _ _ _ _ l => l.wfFmt [0, 1, 2]
  | .vaandLong _ _ _ _ l => l.wfFmt [0, 1, 2]
  | .vaorLong _ _ _ _ l => l.wfFmt [0, 1, 2]
  | .vaxorLong _ _ _ _ l => l.wfFmt [0, 1, 2]
  | .vaxchgLong _ _ _ _ l => l.wfFmt [0, 1, 2]
  | .vacasLong d _ _ _ l => l.wfFmt [0, 1, 2] && decide (d.toNat % 16 + l.exw.toNat < 15)
  | .vafaddLong _ _ _ _ l => l.wfFmt [0, 3]
  | .vafminLong _ _ _ _ l => l.wfFmt [0, 3]
  | .vafmaxLong _ _ _ _ l => l.wfFmt [0, 3]
  | .vredaddLong _ _ _ _ l => l.wfFmt [0, 1, 2]
  | .vredminLong _ _ _ _ l => l.wfFmt [0, 1, 2]
  | .vredmaxLong _ _ _ _ l => l.wfFmt [0, 1, 2]
  | .vredandLong _ _ _ _ l => l.wfFmt [0, 1, 2]
  | .vredorLong _ _ _ _ l => l.wfFmt [0, 1, 2]
  | .vredxorLong _ _ _ _ l => l.wfFmt [0, 1, 2]
  | .vredfaddLong _ _ _ _ l => l.wfRed
  | .vredfminLong _ _ _ _ l => l.wfFmt [0, 3]
  | .vredfmaxLong _ _ _ _ l => l.wfFmt [0, 3]
  | .saaddLong _ _ _ l => l.wfFmt [0, 1, 2]
  | .sacasLong d _ _ l => l.wfFmt [0, 1, 2] && d != 127
  | .mdual t _ _ _ _ => t != 127
  | .mdrain _ x _ _ => xDesc x
  | .mstash _ x _ _ => xDesc x
  | .mmaxr x _ _ => xDesc x
  | .mmaLong _ _ _ _ _ m => decide (m.toNat < 2)
  | .mdualLong t _ _ _ _ m => t != 127 && decide (m.toNat < 32)
  | .mdrainLong _ x _ _ c => xDesc x && convWf c
  | .mstashLong _ x _ _ c => xDesc x && convWf c
  | .mringConfig n => n16 n
  | .mringAdvance n => n16 n
  | .mtqset n m => n16 n && decide (m.toNat < 64)
  | .mwait n => n16 n
  | .marrive n => n16 n
  | .mfmt n => n16 n
  | .mfmtLong n _ => n16 n
  | .mdesc n _ => n16 n
  | .mbra n _ _ => n16 n
  | .kemitLong _ _ _ l => l.wf
  | .srtrunLong _ _ _ l => l.wf
  | .srtmrgLong _ _ _ l => l.wf
  | .srttabLong _ _ _ l => l.wf
  | .vblendLong _ _ _ l => l.wf
  | .vblendgLong _ _ _ l => l.wf
  | .gdegLong _ _ _ l => l.wf
  | .gdesLong _ _ _ l => l.wf
  | .claimPostLong _ _ _ l => l.wf
  | .claimTakeLong _ _ _ l => l.wf
  | .claimDoneLong _ l => l.wf
  | .taskPushLong _ _ _ l => l.wf
  | .taskSpawnLong _ _ _ l => l.wf
  | .wpsetLong _ _ _ l => l.wf
  | .wpclrLong _ _ l => l.wf
  | .cpyLong _ _ _ l => l.wf
  | .cpymLong _ _ _ l => l.wf
  | .cpydrnLong _ _ _ l => l.wf
  | .cstageLong _ _ l => l.wf
  | .colRunLong _ _ _ l => l.wf
  | .fblkwLong _ _ _ l => l.wf
  | .fblkrLong _ _ _ l => l.wf
  | .fldLong _ _ l => l.wf
  | .fstLong _ _ _ l => l.wf
  | .stepArriveLong _ l => l.wf
  | .stepWaitLong _ l => l.wf
  | .arrtgtLong _ _ l => l.wf
  | .lnkdrnLong _ _ l => l.wf
  | .lnkctlLong _ _ _ l => l.wf
  | .sadd .. | .ssub .. | .smul .. | .smulh .. | .sdiv .. | .srem .. | .smin .. | .smax .. | .sand .. | .sor .. | .sxor .. | .sandn ..
  | .sshl .. | .sshr .. | .srot .. | .sclz .. | .seq .. | .sne .. | .slt .. | .sle .. | .ssel .. | .spopc .. | .sctz .. | .sbrev ..
  | .sbfx .. | .sbfi .. | .smov .. | .saddi .. | .smuli .. | .sandi .. | .sori .. | .sxori .. | .seqi .. | .slti .. | .sltni .. | .smovi ..
  | .saddiLong .. | .smuliLong .. | .sandiLong .. | .soriLong .. | .sxoriLong .. | .seqiLong .. | .sltiLong .. | .sltniLong ..
  | .smoviLong .. | .smovh .. | .bra .. | .bz .. | .bnz .. | .call .. | .ret .. | .brx .. | .loop .. | .lpop | .exit | .tail | .yield ..
  | .nop | .braLong .. | .bzLong .. | .bnzLong .. | .callLong .. | .loopLong .. | .yieldLong .. | .hint .. | .mfs .. | .mts .. | .barPod
  | .trap .. | .rft | .brk .. | .vadd .. | .vsub .. | .vmul .. | .vfma .. | .vmin .. | .vmax .. | .vaddmin .. | .vaddmax .. | .vrcp ..
  | .vsqrt .. | .vrsq .. | .vexp2 .. | .vlog2 .. | .vsin .. | .vcos .. | .vrint .. | .vand .. | .vor .. | .vxor .. | .vandn .. | .vshl ..
  | .vshr .. | .vmullo .. | .vmulhi .. | .vpopc .. | .vclz .. | .vcmpEqF32 .. | .vcmpNeF32 .. | .vcmpLtF32 .. | .vcmpLeF32 ..
  | .vcmpGtF32 .. | .vcmpGeF32 .. | .vcmpEqI32 .. | .vcmpNeI32 .. | .vcmpLtI32 .. | .vcmpLeI32 .. | .vcmpGtI32 .. | .vcmpGeI32 ..
  | .vcmpLtN32 .. | .vcmpLeN32 .. | .vcmpGtN32 .. | .vcmpGeN32 .. | .vpack .. | .vunplo .. | .vunphi .. | .vmov .. | .vbcst .. | .vshfl ..
  | .vbfly .. | .vlsu .. | .vlsd .. | .vscan .. | .vdot2 .. | .vandLong .. | .vorLong .. | .vxorLong .. | .vandnLong .. | .vmovLong ..
  | .vbcstLong .. | .vshflLong .. | .vbflyLong .. | .vlsuLong .. | .vlsdLong .. | .vlane .. | .vmovs .. | .vgetr .. | .vsetr .. | .vgetl ..
  | .vputl .. | .vpand .. | .vpor .. | .vpxor .. | .vpandn .. | .vpmov .. | .vpget .. | .vvall .. | .vvany .. | .vpcnt .. | .vmovi ..
  | .sldN8 .. | .sldI8 .. | .sldN16 .. | .sldI16 .. | .sldN32 .. | .sldI32 .. | .sldN64 .. | .sstN8 .. | .sstN16 .. | .sstN32 ..
  | .sstN64 .. | .vld .. | .vst .. | .vldx .. | .vstx .. | .vldro .. | .vldrox .. | .vldv .. | .vstv .. | .vldvx .. | .vstvx .. | .vsts ..
  | .vaadd .. | .vamin .. | .vamax .. | .vaand .. | .vaor .. | .vaxor .. | .vaxchg .. | .vacas .. | .vafadd .. | .vafmin .. | .vafmax ..
  | .vredadd .. | .vredmin .. | .vredmax .. | .vredand .. | .vredor .. | .vredxor .. | .vredfadd .. | .vredfmin .. | .vredfmax ..
  | .sseqadd .. | .sarwait .. | .saadd .. | .roinv | .vpref .. | .spref .. | .sseqaddLong .. | .sarwaitLong .. | .mma .. | .mclr .. | .mend
  | .mreuse .. | .mnop | .mloop .. | .kemit .. | .srtrun .. | .srtmrg .. | .srttab .. | .vblend .. | .vblendg .. | .gdeg .. | .gdes ..
  | .claimPost .. | .claimTake .. | .claimDone .. | .taskPush .. | .taskSpawn .. | .wpset .. | .wpclr .. | .cpy .. | .cpym .. | .cpydrn ..
  | .cstage .. | .colRun .. | .colSend .. | .colRed .. | .colStep | .colEnd | .colSig .. | .fblkw .. | .fblkr .. | .fld .. | .fst ..
  | .stepArrive .. | .stepWait .. | .arrtgt .. | .lnkdrn .. | .lnkctlRead .. | .lnkctlHold .. | .lnkctlRelease .. | .lnkctlDisable ..
  | .lnkctlEnable .. | .clauseFetch | .clauseWaitMet | .watchdogBudget | .watchdogStall | .impreciseFaultDeliver .. | .loadDataArrive ..
  | .atomicResultReturn .. | .trackerAck .. | .reduceFlushApply .. | .pageWalk | .binTimerExpire .. | .gangPlace .. | .gangAge ..
  | .gangBlocking .. | .saveBudgetExpire .. | .saveWrite .. | .gangRestore .. | .gangRetire .. | .launchCompletion .. | .bodyPhaseStart ..
  | .bodyWaveForm .. | .pitchRequest .. | .pitchRelease .. | .sortStart .. | .gdeStart .. | .copyStart .. | .scheduleEntryStart ..
  | .collectiveStart | .engineCompletion .. | .chainTailWrite .. | .chainEnable .. | .chainReset .. | .chainLaunch .. | .chainSignal ..
  | .chainNodedef .. | .chainNop .. | .launchPacketSend .. | .launchPacketAck | .launchPacketReceive .. | .residencyReportReceive ..
  | .pieceArrive .. | .pieceAck .. | .pieceRetransmit .. | .remoteReadRequest .. | .remoteReadReply .. | .vcEscape .. | .stepArrivedSend
  | .stepArrivedReceive .. | .stepLostReceive .. | .stepOpenReceive .. | .stepTimeout | .stepCommit .. | .stepAbort .. | .stepOutcomeAck ..
  | .stepApplyComplete | .linkLoss .. | .linkLock .. | .noRouteTimeout .. | .drainMarkerReturn .. | .linkEnableTimeout .. | .podForm
  | .podDissolve | .tlbInvalidate | .invalidateComplete | .lineRepair .. | .serviceWrite .. | .thermalResume | .evstatClear ..
  | .wpclearHandle .. | .wpclearAsid .. | .wpclearAll | .routeWrite .. | .checkpointGo | .checkpointDone .. | .msixVectorUnmask ..
  | .registerWrite .. | .deviceReset | .powerStateEnter | .powerWake | .powerExitComplete | .thermalTrip .. | .thermalHoldEnd
  | .unassignedOpcode .. | .drainPerformed .. | .stepOutcomeResend .. | .arithmeticClockChange .. => true

end Sys2Proof
end

