-- ==== Sys2Proof/Tests/Slice0.lean ====
section
/-!
SUPPORT. Tests: words written out from the encoding tables decode to their instructions, `Instr.wf` refuses ill-formed terms, and each
statement's hypotheses are met by a concrete state and operands. Expected values are written out by hand from spec/.
-/

section

set_option maxRecDepth 100000

open Sys2Proof Sys2Proof.Machine

/-! ### Decoding: words written out from the encodings of R66 to R94 -/

theorem test_decode_scalar :
    decode 0 0x00060c38 0 = .sadd 3 3 7 0 ∧ decode 0 0x120c0410 0 = .slt 6 1 2 0 ∧ decode 0 0x2b1a0020 0 = .smovi 13 32 ∧
    decode 0 0x33fe0005 0 = .call 127 5 ∧ decode 0 0x022a50a1 0 = .smul 21 20 20 1 ∧ decode 0 0x34fe0000 0 = .ret 127 ∧
    decode 0 0x38000000 0 = .exit ∧ decode 0 0xf3000000 0 = .hint 3 := by
  refine ⟨?_, ?_, ?_, ?_, ?_, ?_, ?_, ?_⟩ <;> rfl

theorem test_decode_scalar_long :
    decode 0 0xab060000 0x12345678 = .smoviLong 3 0x12345678 ∧ decode 0 0xac060000 9 = .smovh 3 9 ∧
    decode 0 0xa2224400 0x3ffff = .sandiLong 17 17 0x3ffff := by
  refine ⟨?_, ?_, ?_⟩ <;> rfl

theorem test_decode_vector :
    decode 1 0x24016166 0 = .vcmpGtF32 1 0x61 0x66 ∧ decode 1 0x2b026465 0 = .vcmpGeI32 2 0x64 0x65 ∧ decode 1 0x2c02080d 0 = .vcmpLtN32 2 8 13 ∧
    decode 1 0x3420000a 0 = .vbcst 0x20 0 10 ∧ decode 1 0x60000000 0 = .vlane 0 ∧ decode 1 0x36010002 0 = .vbfly 1 0 2 ∧
    decode 1 0x64070007 0 = .vgetl 7 0 7 ∧ decode 1 0x3701000d 0 = .vlsu 1 0 13 ∧ decode 1 0x6501140c 0 = .vputl 1 20 12 ∧
    decode 1 0x35090708 0 = .vshfl 9 7 8 ∧ decode 1 0x66020201 0 = .vpand 2 2 1 ∧ decode 1 0x33020100 0 = .vmov 2 1 := by
  refine ⟨?_, ?_, ?_, ?_, ?_, ?_, ?_, ?_, ?_, ?_, ?_, ?_⟩ <;> rfl

theorem test_decode_vector_long :
    decode 1 0x80030305 0x00800400 = .vaddLong 3 3 5 ⟨0, 4, 0, 0, 0, 1, 0, false, 0⟩ ∧
    decode 1 0x86040105 0x03000400 = .vaddminLong 4 1 5 ⟨3, 0, 0, 0, 0, 1, 0, false, 0⟩ ∧
    decode 1 0x80031104 0x00200020 = .vaddLong 3 17 4 ⟨0, 1, 0, 0, 0, 0, 0, false, 4⟩ ∧
    decode 1 0xe0140a44 0x03000080 = .vcvt 0x14 0x0a 0x44 ⟨3, 0, 0, 0, 0, 0, 0, true, 0⟩ := by
  refine ⟨?_, ?_, ?_, ?_⟩ <;> rfl

theorem test_decode_memory :
    decode 2 0x10040604 0 = .vld 4 3 4 ∧ decode 2 0x0a0e0a00 0 = .sstN32 14 5 0 ∧ decode 2 0x0b150000 0 = .sstN64 21 0 0 ∧
    decode 2 0x06020000 0 = .sldN64 2 0 0 ∧ decode 2 0x400c1200 0 = .sseqadd 12 9 0 ∧ decode 2 0x36a00aa1 0 = .vredfadd 160 5 false 161 ∧
    decode 2 0x12100a0a 0 = .vldx 16 5 false 10 ∧ decode 2 0x50089000 0 = .fenceRel 0x08 4 ∧ decode 2 0x50018800 0 = .fenceAcq 1 4 ∧
    decode 2 0x50019800 0 = .unassignedOpcode 0x50019800 ∧ decode 2 0x1a000802 0 = .vsts 0 4 2 ∧ decode 2 0x41060602 0 = .sarwait 6 3 2 := by
  refine ⟨?_, ?_, ?_, ?_, ?_, ?_, ?_, ?_, ?_, ?_, ?_, ?_⟩ <;> rfl

theorem test_decode_memory_long :
    decode 2 0x84060600 0x2400 = .sldN32Long 6 3 0 ⟨0, 0, 0, 0, 0, true, false, 2, false, false⟩ ∧
    decode 2 0x960e1804 0x2200 = .vldvLong 14 12 4 ⟨0, 0, 0, 0, 0, true, false, 1, false, false⟩ ∧
    decode 2 0xb6030d07 0x07000000 = .vredfaddLong 3 6 true 7 ⟨7, 0, 0, 0, 0, false, false, 0, false, false⟩ := by
  refine ⟨?_, ?_, ?_⟩ <;> rfl

theorem test_decode_matrix :
    decode 3 0x00091900 0 = .mma 4 17 18 false 0 ∧ decode 3 0x80101a80 1 = .mmaLong 8 1 21 false 0 1 ∧ decode 3 0x00101acc 0 = .mma 8 1 21 true 3 ∧
    decode 3 0x020a0000 0 = .mclr 5 false 0 ∧ decode 3 0x83116000 7 = .mdrainLong 8 22 false 0 7 ∧ decode 3 0x05017000 0 = .mmaxr 23 false 0 ∧
    decode 3 0x06010000 0 = .mringConfig 1 ∧ decode 3 0x06010001 0 = .mringAdvance 1 ∧ decode 3 0x06010002 0 = .unassignedOpcode 0x06010002 ∧
    decode 3 0x07040006 0 = .mtqset 4 6 ∧ decode 3 0x08020000 0 = .mwait 2 ∧ decode 3 0x09010000 0 = .marrive 1 := by
  refine ⟨?_, ?_, ?_, ?_, ?_, ?_, ?_, ?_, ?_, ?_, ?_, ?_⟩ <;> rfl

theorem test_decode_matrix_control :
    decode 3 0x0c000004 0 = .mreuse 4 ∧ decode 3 0x8d000020 5 = .mloop 32 5 ∧ decode 3 0x8e040001 9 = .mbra 4 true 9 ∧
    decode 3 0x8b000000 0x18 = .mdesc 0 0x18 := by
  refine ⟨?_, ?_, ?_, ?_⟩ <;> rfl

theorem test_decode_engine :
    decode 4 0x1804040c 0 = .colRun 4 2 3 ∧ decode 4 0x010c0c1c 0 = .srtrun 12 6 7 ∧ decode 4 0x04052800 0 = .vblend 5 20 0 ∧
    decode 4 0x0609040c 0 = .gdeg 9 2 3 ∧ decode 4 0x080a061c 0 = .claimPost 10 3 7 ∧ decode 4 0x090a001c 0 = .claimTake 10 0 7 ∧
    decode 4 0x0d05040c 0 = .wpset 5 2 3 ∧ decode 4 0x100c0814 0 = .cpy 12 4 5 ∧ decode 4 0x130d0c00 0 = .cstage 13 6 ∧
    decode 4 0x120e0e20 0 = .cpydrn 14 7 8 ∧ decode 4 0x200a0410 0 = .fblkw 10 2 4 ∧ decode 4 0x23100654 0 = .fst 16 3 21 := by
  refine ⟨?_, ?_, ?_, ?_, ?_, ?_, ?_, ?_, ?_, ?_, ?_, ?_⟩ <;> rfl

theorem test_decode_engine_more :
    decode 4 0x24080000 0 = .stepArrive 8 ∧ decode 4 0x25090000 0 = .stepWait 9 ∧ decode 4 0x260b0600 0 = .arrtgt 11 3 ∧
    decode 4 0x27101e00 0 = .lnkdrn 16 15 ∧ decode 4 0x28101e4c 0 = .lnkctlRead 16 15 19 ∧ decode 4 0x19000004 0 = .colSend 0 1 ∧
    decode 4 0x810c0c1c 0x1600 = .srtrunLong 12 6 7 ⟨0, 0, 0, 0, 0, false, true, 3, false⟩ := by
  refine ⟨?_, ?_, ?_, ?_, ?_, ?_, ?_⟩ <;> rfl

theorem test_decode_system :
    decode 5 0x00300100 0 = .mfs 24 0x100 ∧ decode 5 0x08000000 0 = .rft ∧ decode 5 0x02000005 0 = .barPod ∧ decode 5 0x02000002 0 = .bar 2 ∧
    decode 5 0x04000001 0 = .nbarr 1 := by
  refine ⟨?_, ?_, ?_, ?_, ?_⟩ <;> rfl

theorem test_decode_reserved_class : decode 6 0x00060c38 0 = .unassignedOpcode 0x00060c38 ∧ decode 7 0 0 = .unassignedOpcode 0 := by
  refine ⟨?_, ?_⟩ <;> rfl

/-! ### Well-formedness: for every check a term that it refuses, and one term that passes -/

theorem test_wf_refuses_shift : ∀ i ∈ ([
    .sshli 0 0 64, .sshri 0 0 64, .ssrai 0 0 64, .sshliLong 0 0 64, .sshriLong 0 0 64, .ssraiLong 0 0 64] : List Instr), i.wf = false := by decide

theorem test_wf_refuses_system : ∀ i ∈ ([
    .bar 5, .nbarw 0 16, .nbarr 16, .nbwait 0 16, .nbinit 0 16, .phint 3 0 0 0] : List Instr), i.wf = false := by decide

theorem test_wf_refuses_vector_1 : ∀ i ∈ ([
    .vaddLong 0 0 0 ⟨0, 0, 0, 0, 0, 10, 0, false, 0⟩, .vsubLong 0 0 0 ⟨0, 0, 0, 0, 0, 10, 0, false, 0⟩,
    .vmulLong 0 0 0 ⟨0, 0, 0, 0, 0, 1, 0, false, 0⟩, .vfmaLong 0 0 0 ⟨0, 0, 0, 0, 0, 1, 0, false, 0⟩,
    .vminLong 0 0 0 ⟨0, 0, 0, 0, 0, 10, 0, false, 0⟩, .vmaxLong 0 0 0 ⟨0, 0, 0, 0, 0, 10, 0, false, 0⟩,
    .vaddminLong 0 0 0 ⟨0, 0, 0, 0, 0, 10, 0, false, 0⟩, .vaddmaxLong 0 0 0 ⟨0, 0, 0, 0, 0, 10, 0, false, 0⟩,
    .vrcpLong 0 0 ⟨0, 0, 0, 0, 0, 1, 0, false, 0⟩, .vsqrtLong 0 0 ⟨0, 0, 0, 0, 0, 1, 0, false, 0⟩,
    .vrsqLong 0 0 ⟨0, 0, 0, 0, 0, 1, 0, false, 0⟩, .vexp2Long 0 0 ⟨0, 0, 0, 0, 0, 6, 0, false, 0⟩,
    .vlog2Long 0 0 ⟨0, 0, 0, 0, 0, 6, 0, false, 0⟩, .vsinLong 0 0 ⟨0, 0, 0, 0, 0, 6, 0, false, 0⟩,
    .vcosLong 0 0 ⟨0, 0, 0, 0, 0, 6, 0, false, 0⟩, .vrintLong 0 0 ⟨0, 0, 0, 0, 0, 1, 0, false, 0⟩,
    .vshlLong 0 0 0 ⟨0, 0, 0, 0, 0, 3, 0, false, 0⟩, .vshrLong 0 0 0 ⟨0, 0, 0, 0, 0, 3, 0, false, 0⟩,
    .vmulloLong 0 0 0 ⟨0, 0, 0, 0, 0, 3, 0, false, 0⟩, .vmulhiLong 0 0 0 ⟨0, 0, 0, 0, 0, 3, 0, false, 0⟩,
    .vpopcLong 0 0 ⟨0, 0, 0, 0, 0, 3, 0, false, 0⟩, .vclzLong 0 0 ⟨0, 0, 0, 0, 0, 3, 0, false, 0⟩,
    .vcmpEqF32Long 0 0 0 ⟨0, 0, 0, 0, 0, 6, 0, false, 0⟩, .vcmpNeF32Long 0 0 0 ⟨0, 0, 0, 0, 0, 6, 0, false, 0⟩] : List Instr), i.wf = false := by decide

theorem test_wf_refuses_vector_2 : ∀ i ∈ ([
    .vcmpLtF32Long 0 0 0 ⟨0, 0, 0, 0, 0, 6, 0, false, 0⟩, .vcmpLeF32Long 0 0 0 ⟨0, 0, 0, 0, 0, 6, 0, false, 0⟩,
    .vcmpGtF32Long 0 0 0 ⟨0, 0, 0, 0, 0, 6, 0, false, 0⟩, .vcmpGeF32Long 0 0 0 ⟨0, 0, 0, 0, 0, 6, 0, false, 0⟩,
    .vcmpEqI32Long 0 0 0 ⟨0, 0, 0, 0, 0, 2, 0, false, 0⟩, .vcmpNeI32Long 0 0 0 ⟨0, 0, 0, 0, 0, 2, 0, false, 0⟩,
    .vcmpLtI32Long 0 0 0 ⟨0, 0, 0, 0, 0, 2, 0, false, 0⟩, .vcmpLeI32Long 0 0 0 ⟨0, 0, 0, 0, 0, 2, 0, false, 0⟩,
    .vcmpGtI32Long 0 0 0 ⟨0, 0, 0, 0, 0, 2, 0, false, 0⟩, .vcmpGeI32Long 0 0 0 ⟨0, 0, 0, 0, 0, 2, 0, false, 0⟩,
    .vcmpLtN32Long 0 0 0 ⟨0, 0, 0, 0, 0, 1, 0, false, 0⟩, .vcmpLeN32Long 0 0 0 ⟨0, 0, 0, 0, 0, 1, 0, false, 0⟩,
    .vcmpGtN32Long 0 0 0 ⟨0, 0, 0, 0, 0, 1, 0, false, 0⟩, .vcmpGeN32Long 0 0 0 ⟨0, 0, 0, 0, 0, 1, 0, false, 0⟩,
    .vpackLong 0 0 0 ⟨0, 0, 0, 0, 0, 1, 0, false, 0⟩, .vunploLong 0 0 ⟨0, 0, 0, 0, 0, 1, 0, false, 0⟩,
    .vunphiLong 0 0 ⟨0, 0, 0, 0, 0, 1, 0, false, 0⟩, .vscanLong 0 0 ⟨0, 0, 0, 0, 0, 4, 0, false, 0⟩,
    .vdot2Long 0 0 0 ⟨0, 0, 0, 0, 0, 3, 0, false, 0⟩, .vcvt 0 0 3 ⟨0, 0, 0, 0, 0, 0, 0, false, 0⟩,
    .vcvt 0 0 10 ⟨3, 0, 0, 0, 0, 0, 0, false, 0⟩, .vcvt 0 0 7 ⟨3, 0, 0, 1, 0, 0, 0, false, 0⟩] : List Instr), i.wf = false := by decide

theorem test_wf_refuses_memory_1 : ∀ i ∈ ([
    .sacas 127 0 0, .fence 0 5, .fenceAcq 0 5, .fenceRel 0 5, .sldN8Long 0 0 0 ⟨0, 0, 0, 0, 0, false, false, 5, false, false⟩,
    .sldI8Long 0 0 0 ⟨0, 0, 0, 0, 0, false, false, 5, false, false⟩, .sldN16Long 0 0 0 ⟨0, 0, 0, 0, 0, false, false, 5, false, false⟩,
    .sldI16Long 0 0 0 ⟨0, 0, 0, 0, 0, false, false, 5, false, false⟩,
    .sldN32Long 0 0 0 ⟨0, 0, 0, 0, 0, false, false, 5, false, false⟩,
    .sldI32Long 0 0 0 ⟨0, 0, 0, 0, 0, false, false, 5, false, false⟩,
    .sldN64Long 0 0 0 ⟨0, 0, 0, 0, 0, false, false, 5, false, false⟩, .sstN8Long 0 0 0 ⟨0, 0, 0, 0, 0, false, false, 5, false, false⟩,
    .sstN16Long 0 0 0 ⟨0, 0, 0, 0, 0, false, false, 5, false, false⟩,
    .sstN32Long 0 0 0 ⟨0, 0, 0, 0, 0, false, false, 5, false, false⟩,
    .sstN64Long 0 0 0 ⟨0, 0, 0, 0, 0, false, false, 5, false, false⟩, .vldLong 0 0 0 ⟨0, 0, 0, 0, 0, false, false, 5, false, false⟩,
    .vstLong 0 0 0 ⟨0, 0, 0, 0, 0, false, false, 5, false, false⟩,
    .vldxLong 0 0 false 0 ⟨0, 0, 0, 0, 0, false, false, 5, false, false⟩,
    .vldxLong 0 0 false 0 ⟨0x0a, 0, 0, 0, 0, false, false, 0, false, false⟩,
    .vstxLong 0 0 false 0 ⟨0, 0, 0, 0, 0, false, false, 5, false, false⟩,
    .vstxLong 0 0 false 0 ⟨0x0a, 0, 0, 0, 0, false, false, 0, false, false⟩,
    .vldroLong 0 0 0 ⟨0, 0, 0, 0, 0, false, false, 5, false, false⟩,
    .vldroxLong 0 0 false 0 ⟨0, 0, 0, 0, 0, false, false, 5, false, false⟩,
    .vldroxLong 0 0 false 0 ⟨0x0a, 0, 0, 0, 0, false, false, 0, false, false⟩] : List Instr), i.wf = false := by decide

theorem test_wf_refuses_memory_2 : ∀ i ∈ ([
    .vldvLong 0 0 0 ⟨0, 0, 0, 0, 0, false, false, 5, false, false⟩, .vstvLong 0 0 0 ⟨0, 0, 0, 0, 0, false, false, 5, false, false⟩,
    .vldvxLong 0 0 false 0 ⟨0, 0, 0, 0, 0, false, false, 5, false, false⟩,
    .vstvxLong 0 0 false 0 ⟨0, 0, 0, 0, 0, false, false, 5, false, false⟩,
    .vstsLong 0 0 0 ⟨0, 0, 0, 0, 0, false, false, 5, false, false⟩,
    .vaaddLong 0 0 false 0 ⟨0, 0, 0, 0, 0, false, false, 5, false, false⟩,
    .vaaddLong 0 0 false 0 ⟨3, 0, 0, 0, 0, false, false, 0, false, false⟩,
    .vaminLong 0 0 false 0 ⟨0, 0, 0, 0, 0, false, false, 5, false, false⟩,
    .vaminLong 0 0 false 0 ⟨3, 0, 0, 0, 0, false, false, 0, false, false⟩,
    .vamaxLong 0 0 false 0 ⟨0, 0, 0, 0, 0, false, false, 5, false, false⟩,
    .vamaxLong 0 0 false 0 ⟨3, 0, 0, 0, 0, false, false, 0, false, false⟩,
    .vaandLong 0 0 false 0 ⟨0, 0, 0, 0, 0, false, false, 5, false, false⟩,
    .vaandLong 0 0 false 0 ⟨3, 0, 0, 0, 0, false, false, 0, false, false⟩,
    .vaorLong 0 0 false 0 ⟨0, 0, 0, 0, 0, false, false, 5, false, false⟩,
    .vaorLong 0 0 false 0 ⟨3, 0, 0, 0, 0, false, false, 0, false, false⟩,
    .vaxorLong 0 0 false 0 ⟨0, 0, 0, 0, 0, false, false, 5, false, false⟩,
    .vaxorLong 0 0 false 0 ⟨3, 0, 0, 0, 0, false, false, 0, false, false⟩,
    .vaxchgLong 0 0 false 0 ⟨0, 0, 0, 0, 0, false, false, 5, false, false⟩,
    .vaxchgLong 0 0 false 0 ⟨3, 0, 0, 0, 0, false, false, 0, false, false⟩,
    .vacasLong 0 0 false 0 ⟨0, 0, 0, 0, 0, false, false, 5, false, false⟩,
    .vacasLong 0 0 false 0 ⟨3, 0, 0, 0, 0, false, false, 0, false, false⟩,
    .vacasLong 14 0 false 0 ⟨0, 0, 0, 1, 0, false, false, 0, false, false⟩,
    .vafaddLong 0 0 false 0 ⟨0, 0, 0, 0, 0, false, false, 5, false, false⟩,
    .vafaddLong 0 0 false 0 ⟨1, 0, 0, 0, 0, false, false, 0, false, false⟩] : List Instr), i.wf = false := by decide

theorem test_wf_refuses_memory_3 : ∀ i ∈ ([
    .vafminLong 0 0 false 0 ⟨0, 0, 0, 0, 0, false, false, 5, false, false⟩,
    .vafminLong 0 0 false 0 ⟨1, 0, 0, 0, 0, false, false, 0, false, false⟩,
    .vafmaxLong 0 0 false 0 ⟨0, 0, 0, 0, 0, false, false, 5, false, false⟩,
    .vafmaxLong 0 0 false 0 ⟨1, 0, 0, 0, 0, false, false, 0, false, false⟩,
    .vredaddLong 0 0 false 0 ⟨0, 0, 0, 0, 0, false, false, 5, false, false⟩,
    .vredaddLong 0 0 false 0 ⟨3, 0, 0, 0, 0, false, false, 0, false, false⟩,
    .vredminLong 0 0 false 0 ⟨0, 0, 0, 0, 0, false, false, 5, false, false⟩,
    .vredminLong 0 0 false 0 ⟨3, 0, 0, 0, 0, false, false, 0, false, false⟩,
    .vredmaxLong 0 0 false 0 ⟨0, 0, 0, 0, 0, false, false, 5, false, false⟩,
    .vredmaxLong 0 0 false 0 ⟨3, 0, 0, 0, 0, false, false, 0, false, false⟩,
    .vredandLong 0 0 false 0 ⟨0, 0, 0, 0, 0, false, false, 5, false, false⟩,
    .vredandLong 0 0 false 0 ⟨3, 0, 0, 0, 0, false, false, 0, false, false⟩,
    .vredorLong 0 0 false 0 ⟨0, 0, 0, 0, 0, false, false, 5, false, false⟩,
    .vredorLong 0 0 false 0 ⟨3, 0, 0, 0, 0, false, false, 0, false, false⟩,
    .vredxorLong 0 0 false 0 ⟨0, 0, 0, 0, 0, false, false, 5, false, false⟩,
    .vredxorLong 0 0 false 0 ⟨3, 0, 0, 0, 0, false, false, 0, false, false⟩,
    .vredfaddLong 0 0 false 0 ⟨0, 0, 0, 0, 0, false, false, 5, false, false⟩,
    .vredfaddLong 0 0 false 0 ⟨6, 0, 0, 0, 0, false, false, 0, false, false⟩,
    .vredfminLong 0 0 false 0 ⟨0, 0, 0, 0, 0, false, false, 5, false, false⟩,
    .vredfminLong 0 0 false 0 ⟨1, 0, 0, 0, 0, false, false, 0, false, false⟩,
    .vredfmaxLong 0 0 false 0 ⟨0, 0, 0, 0, 0, false, false, 5, false, false⟩,
    .vredfmaxLong 0 0 false 0 ⟨1, 0, 0, 0, 0, false, false, 0, false, false⟩,
    .saaddLong 0 0 0 ⟨0, 0, 0, 0, 0, false, false, 5, false, false⟩, .saaddLong 0 0 0 ⟨3, 0, 0, 0, 0, false, false, 0, false, false⟩] : List Instr), i.wf = false := by decide

theorem test_wf_refuses_memory_4 : ∀ i ∈ ([
    .sacasLong 0 0 0 ⟨0, 0, 0, 0, 0, false, false, 5, false, false⟩, .sacasLong 0 0 0 ⟨3, 0, 0, 0, 0, false, false, 0, false, false⟩,
    .sacasLong 127 0 0 ⟨0, 0, 0, 0, 0, false, false, 0, false, false⟩] : List Instr), i.wf = false := by decide

theorem test_wf_refuses_matrix : ∀ i ∈ ([
    .mdual 127 0 0 false 0, .mdrain 0 15 false 0, .mstash 0 15 false 0, .mmaxr 15 false 0, .mmaLong 0 0 0 false 0 2,
    .mdualLong 127 0 0 false 0 0, .mdualLong 0 0 0 false 0 32, .mdrainLong 0 15 false 0 0, .mdrainLong 0 16 false 0 1,
    .mstashLong 0 15 false 0 0, .mstashLong 0 16 false 0 1, .mringConfig 16, .mringAdvance 16, .mtqset 16 0, .mtqset 0 64, .mwait 16,
    .marrive 16, .mfmt 16, .mfmtLong 16 0, .mdesc 16 0, .mbra 16 false 0] : List Instr), i.wf = false := by decide

theorem test_wf_refuses_engine_1 : ∀ i ∈ ([
    .kemitLong 0 0 0 ⟨0, 0, 0, 0, 0, false, false, 5, false⟩, .srtrunLong 0 0 0 ⟨0, 0, 0, 0, 0, false, false, 5, false⟩,
    .srtmrgLong 0 0 0 ⟨0, 0, 0, 0, 0, false, false, 5, false⟩, .srttabLong 0 0 0 ⟨0, 0, 0, 0, 0, false, false, 5, false⟩,
    .vblendLong 0 0 0 ⟨0, 0, 0, 0, 0, false, false, 5, false⟩, .vblendgLong 0 0 0 ⟨0, 0, 0, 0, 0, false, false, 5, false⟩,
    .gdegLong 0 0 0 ⟨0, 0, 0, 0, 0, false, false, 5, false⟩, .gdesLong 0 0 0 ⟨0, 0, 0, 0, 0, false, false, 5, false⟩,
    .claimPostLong 0 0 0 ⟨0, 0, 0, 0, 0, false, false, 5, false⟩, .claimTakeLong 0 0 0 ⟨0, 0, 0, 0, 0, false, false, 5, false⟩,
    .claimDoneLong 0 ⟨0, 0, 0, 0, 0, false, false, 5, false⟩, .taskPushLong 0 0 0 ⟨0, 0, 0, 0, 0, false, false, 5, false⟩,
    .taskSpawnLong 0 0 0 ⟨0, 0, 0, 0, 0, false, false, 5, false⟩, .wpsetLong 0 0 0 ⟨0, 0, 0, 0, 0, false, false, 5, false⟩,
    .wpclrLong 0 0 ⟨0, 0, 0, 0, 0, false, false, 5, false⟩, .cpyLong 0 0 0 ⟨0, 0, 0, 0, 0, false, false, 5, false⟩,
    .cpymLong 0 0 0 ⟨0, 0, 0, 0, 0, false, false, 5, false⟩, .cpydrnLong 0 0 0 ⟨0, 0, 0, 0, 0, false, false, 5, false⟩,
    .cstageLong 0 0 ⟨0, 0, 0, 0, 0, false, false, 5, false⟩, .colRunLong 0 0 0 ⟨0, 0, 0, 0, 0, false, false, 5, false⟩,
    .fblkwLong 0 0 0 ⟨0, 0, 0, 0, 0, false, false, 5, false⟩, .fblkrLong 0 0 0 ⟨0, 0, 0, 0, 0, false, false, 5, false⟩,
    .fldLong 0 0 ⟨0, 0, 0, 0, 0, false, false, 5, false⟩, .fstLong 0 0 0 ⟨0, 0, 0, 0, 0, false, false, 5, false⟩] : List Instr), i.wf = false := by decide

theorem test_wf_refuses_engine_2 : ∀ i ∈ ([
    .stepArriveLong 0 ⟨0, 0, 0, 0, 0, false, false, 5, false⟩, .stepWaitLong 0 ⟨0, 0, 0, 0, 0, false, false, 5, false⟩,
    .arrtgtLong 0 0 ⟨0, 0, 0, 0, 0, false, false, 5, false⟩, .lnkdrnLong 0 0 ⟨0, 0, 0, 0, 0, false, false, 5, false⟩,
    .lnkctlLong 0 0 0 ⟨0, 0, 0, 0, 0, false, false, 5, false⟩] : List Instr), i.wf = false := by decide

theorem test_wf_accepts : ∀ i ∈ ([.sadd 3 3 7 0, .sshli 1 2 63, .bar 4, .nbarr 15, .phint 2 0 0 0, .vaddLong 3 3 5 ⟨0, 4, 0, 0, 0, 1, 0, false, 0⟩,
    .vcvt 0x14 0x0a 0x44 ⟨3, 0, 0, 0, 0, 0, 0, false, 0⟩, .vredfaddLong 3 6 true 7 ⟨7, 0, 0, 0, 0, false, false, 0, false, false⟩, .sacas 126 0 0,
    .fenceRel 8 4, .mdrainLong 8 22 false 0 7, .mtqset 15 63, .srtrunLong 12 6 7 ⟨0, 0, 0, 0, 0, false, true, 3, false⟩] : List Instr), i.wf = true := by decide

/-! ### Witnesses: concrete states and operands that meet the hypotheses of the statements -/

namespace Sys2Proof.Demo
open Sys2Proof.Claim

/-- A wave with all registers full, at the only instruction of its clause. -/
def wave : Wave :=
  { Wave.blank with gang := 0, status := .live, sregN := 128, vregN := 256, phase := .issue, hdr := placedHdr 0 1, words := [0] }

/-- Its sequencer, at the only instruction of its clause. -/
def seqr : Seqr := { Seqr.blank with gang := 0, status := .run, phase := .issue, hdr := placedHdr 3 1, words := [0] }

/-- The device after reset with one gang of one workgroup on it: wave 1 of gang 0 of launch 0 has the turn. -/
def base : State := { State.reset.placeGangFor 0 wave seqr with cur := 1, seq := seqKey 0 0 }

/-- The same with another wave. -/
def of (f : Wave → Wave) : State := base.setWave (f wave)

/-- The same with another sequencer. -/
def ofSeq (f : Seqr → Seqr) : State := { base with seqs := base.seqs.set (seqKey 0 0) (f seqr) }

/-- Scalar registers with given values. -/
def regs (w : Wave) (xs : List (Nat × Word)) : Wave := xs.foldl (fun w x => w.setS x.1 x.2) w

/-- The same with values in scalar registers. -/
def withS (xs : List (Nat × Word)) : State := of fun w => regs w xs

theorem at_ {s : State} (h : decide (s.wave.status = .live ∧ s.wave.phase = .issue) = true) : AtInstr s := by
  have h := of_decide_eq_true h
  exact h
theorem sfull {w : Wave} {rs : List Nat} (h : decide (∀ n ∈ rs, n < w.sregN ∧ w.sFull n = true) = true) : SFull w rs := by
  have h := of_decide_eq_true h
  exact h
theorem vfull {w : Wave} {rs : List Nat} (h : decide (∀ n ∈ rs, n < w.vregN ∧ w.vFull n = true) = true) : VFull w rs := by
  have h := of_decide_eq_true h
  exact h
theorem last {w : Wave} {n : Nat} (h : decide (hdrCount w.hdr ≤ w.idx + n) = true) : LastOfClause w n := by
  have h := of_decide_eq_true h
  exact h

/-- An outcome is a next state. -/
def goesOn : Host.Outcome State Fault Refusal → Bool
  | .next _ => true
  | _ => false

theorem goes {o : Host.Outcome State Fault Refusal} (h : goesOn o = true) : ∃ t, o = .next t := by
  cases o with
  | next t => exact ⟨t, rfl⟩
  | fault f => nomatch h
  | refused r => nomatch h

/-- A fetch gives a word. -/
def gives : Fetch → Bool
  | .ok .. => true
  | _ => false

theorem given {f : Fetch} (h : gives f = true) : ∃ x t, f = .ok x t := by
  cases f with
  | ok x t => exact ⟨x, t, rfl⟩
  | _ => nomatch h

/-- Command 7 of wave 1, of an engine. -/
def cmdOf (op : CmdOp) : Cmd :=
  { id := 7, eng := 4, unit := 0, core := 0, wave := 1, waveid := 0, gang := 0, asid := 0, pc := 4, dreg := some 3, op := op, status := .queued, word := 5, data := [],
    acq := none, tracker := true, reserved := false, deadline := none, pieces := [], denied := false, bad := [], pos := 0, passes := 0, spoiled := false, fired := [] }

end Sys2Proof.Demo

open Sys2Proof.Claim Sys2Proof.Demo

theorem witness_encoded_instruction : (Instr.sadd 3 3 7 0).cls = some 0 ∧ (Instr.sadd 3 3 7 0).canonical = true ∧
    (Instr.vaddLong 3 3 5 ⟨0, 4, 0, 0, 0, 1, 0, false, 0⟩).cls = some 1 ∧ (Instr.vaddLong 3 3 5 ⟨0, 4, 0, 0, 0, 1, 0, false, 0⟩).canonical = true := by decide

theorem witness_unassigned_code :
    (∀ x ∈ [((0 : Nat), (0x2c000000 : BitVec 32)), (0, 0x80000000), (0, 0xb4000000), (2, 0x57000000), (3, 0xef000000), (4, 0x94000000), (5, 0x0a000000)],
      opOf x.2 < 0xf0 ∧ assignedIn x.1 (opOf x.2) = false) ∧
    (opOf 0x50001800 = 0x50 ∧ bits 11 2 0x50001800 = 3) ∧ (opOf 0x06000002 = 0x06 ∧ 2 ≤ (bits 0 2 0x06000002).toNat) ∧
    (opOf 0x0c000008 = 0x0c ∧ bits 3 13 0x0c000008 ≠ 0) ∧ (opOf 0x8e008000 = 0x8e ∧ bits 1 15 0x8e008000 ≠ 0) ∧
    base.party = .wave ∧ AtInstr base ∧ ({ base with party := .seq }).sq.canIssue = true :=
  ⟨by decide, by decide, by decide, by decide, by decide, rfl, at_ rfl, by decide⟩

theorem witness_hint : base.party = .wave ∧ AtInstr base ∧ ({ base with party := .seq }).party = .seq ∧ ({ base with party := .seq }).sq.canIssue = true :=
  ⟨rfl, at_ rfl, rfl, by decide⟩

theorem witness_step_runs_decoded :
    let s : State := { base with agenda := [.wave 1], party := .wave }
    AtInstr s ∧ s.mustStop 1 = false ∧ s.takesFault 1 = false ∧ s.stalled 1 = false ∧ s.wave.overBudget = false ∧ s.behindAtomic 1 = false ∧
      opWords s.wave.word = 1 ∧ AloneInPipe s 1 ∧ s.wentOn (s.setWave { s.wave with held := false }) 1 = true ∧ s.wentOn s.block 1 = false :=
  ⟨at_ rfl, by decide, by decide, by decide, by decide, by decide, by decide, fun m h hk _ => absurd (by revert m; decide) hk, by decide, by decide⟩

/-- Two waves of one pipe; the pipe's last wave stands at position 0. -/
def Sys2Proof.Demo.pair (w : Wave) : State :=
  { base with waves := [(1, { wave with waveid := 1 }), (2, w)], rr := [(0, 0)] }

theorem witness_pipe :
    (let w := { wave with idx := 1, hdr := placedHdr 0 2 };
      (pair w).rr.get 3 (4 * w.core + w.waveid.toNat / 4 % 4) = 0 ∧ w.waveid.toNat % 4 = 0 ∧ w.phase = .issue ∧ w.idx ≠ 0 ∧ w.held = false ∧ (2, w) ∈ (pair w).waves) ∧
    (let w := { wave with waveid := 2 };
      (w.waveid.toNat % 4 + 3 - 0) % 4 = 1 ∧ ((1 : BitVec 32).toNat % 4 + 3 - 0) % 4 = 0 ∧ (2, w) ∈ (pair w).waves ∧ (pair w).waves.find 1 = some { wave with waveid := 1 }) := by decide

theorem witness_collective_step :
    let c : Cmd := { cmdOf (.collective 0 1 16 [0x1c000000] []) with status := .running }
    let s : State := { base with agenda := [.col], cmds := [c], col := some ⟨7, 0, 0, none, []⟩ }
    s.agenda = [.col] ∧ s.cmdAt 7 = some c := ⟨rfl, by decide⟩

theorem witness_memory_step :
    hasMemory 0x7fffffffff = true ∧ hasMemory 0x8000000000 = false ∧ ({ base with agenda := [.hostWrite 0x7fffffffff [1, 2]] }).agenda = [.hostWrite 0x7fffffffff [1, 2]] := by
  decide

theorem witness_step_runs_matrix :
    let s : State := { base with agenda := [.seq (seqKey 0 0)], party := .seq }
    s.sq.canIssue = true ∧ opWords (nth 0 s.sq.words s.sq.widx) = 1 ∧ encode .pageWalk = [] := ⟨by decide, by decide, rfl⟩

theorem witness_memory_form : Memory.wf State.reset.mem = true ∧ ∃ t, step (State.reset.withFetchWord 32 0x3b000000) = .next t :=
  ⟨rfl, goes (by decide)⟩

theorem witness_scalar_forms : ∃ f, scalarEffect (.sadd 3 4 127 0) = some (3, [4, 127], f) ∧ AtInstr base ∧ SFull base.wave [3, 4, 127] :=
  ⟨_, rfl, at_ rfl, sfull rfl⟩

theorem witness_division :
    (AtInstr base ∧ SFull base.wave [1, 2, 3] ∧ value 3 (base.wave.sreg 3) = 0) ∧
    (let s := withS [(2, 0x80000000), (3, 0xffffffff)];
      AtInstr s ∧ SFull s.wave [1, 2, 3] ∧ isSigned 3 = true ∧ value 3 (s.wave.sreg 3) = -1 ∧ value 3 (s.wave.sreg 2) = -(2 ^ (typeBits 3 - 1) : Nat)) :=
  ⟨⟨at_ rfl, sfull rfl, by decide⟩, at_ rfl, sfull rfl, by decide, by decide, by decide⟩

theorem witness_bit_fields : ∃ f, fieldEffect (.sbfi 4 5 6 1) = some (4, [5, 6, 4], f) ∧ AtInstr base ∧ SFull base.wave [4, 5, 6, 4] :=
  ⟨_, rfl, at_ rfl, sfull rfl⟩

theorem witness_immediate_forms : ∃ f, immediateEffect (.smovh 3 9) = some (3, [3], 2, f) ∧ AtInstr base ∧ SFull base.wave [3, 3] :=
  ⟨_, rfl, at_ rfl, sfull rfl⟩

theorem witness_immediate_shifts : ∃ f g, shiftEffect (.sshli 1 2 63) = some (1, 2, 1, 63, f) ∧ shiftEffect (.sshri 1 2 64) = some (1, 2, 1, 64, g) ∧
    AtInstr base ∧ SFull base.wave [1, 2] := ⟨_, _, rfl, rfl, at_ rfl, sfull rfl⟩

theorem witness_scalar_frame : scalarDest (.smovi 13 32) = some (13, [], 1) ∧ AtInstr base ∧ SFull base.wave [13] ∧
    (∃ t, exec (.smovi 13 32) base = .next t) ∧ (∀ i ∈ [Instr.sshli 1 2 63, .smovi 13 32], ¬ ShiftsTooFar i) ∧ ShiftsTooFar (.sshri 1 2 64) ∧
    scalarDest (.sshri 1 2 64) = some (1, [2], 1) ∧ base.wave.ls = [] := by
  refine ⟨rfl, at_ rfl, sfull rfl, goes (by decide), fun i hi => ?_, ⟨1, 2, 1, 64, _, rfl, by decide⟩, rfl, rfl⟩
  simp only [List.mem_cons, List.mem_nil_iff, or_false] at hi
  rcases hi with rfl | rfl <;> rintro ⟨d, a, n, k, f, h, hk⟩ <;> cases h
  revert hk
  decide

theorem witness_scalar_checks :
    (let s := of fun w => { w with sregN := 8 };
      AtInstr s ∧ ∃ r ∈ [(8 : BitVec 7), 2, 3], s.wave.sregN ≤ r.toNat) ∧
    (let s := of fun w => w.emptyS 2;
      (∀ r ∈ [(1 : BitVec 7), 2, 3], r.toNat < s.wave.sregN) ∧ ∃ r ∈ [(1 : BitVec 7), 2, 3], s.wave.sFull r.toNat = false) :=
  ⟨⟨at_ rfl, by decide⟩, by decide, by decide⟩

theorem witness_branches :
    (∃ tk f, branchEffect (.bz 5 2) = some ([5], 1, tk, true, f) ∧ tk base.wave = true ∧ tk (withS [(5, 1)]).wave = false) ∧ AtInstr base ∧
      LastOfClause base.wave 1 ∧ SFull base.wave [5] := ⟨⟨_, _, rfl, by decide, by decide⟩, at_ rfl, last rfl, sfull rfl⟩

theorem witness_call : (∃ f, callEffect (.call 127 5) = some (127, 1, f)) ∧ AtInstr base ∧ LastOfClause base.wave 1 ∧ SFull base.wave [127] :=
  ⟨⟨_, rfl⟩, at_ rfl, last rfl, sfull rfl⟩

theorem witness_loop :
    (∃ f, loopEffect (.loop 5 4) = some (5, 1, f)) ∧ AtInstr base ∧ LastOfClause base.wave 1 ∧ SFull base.wave [5] ∧ base.wave.inHandler = false ∧
    4 ≤ (of fun w => { w with ls := [⟨0, 0, 1⟩, ⟨0, 0, 1⟩, ⟨0, 0, 1⟩, ⟨0, 0, 1⟩] }).wave.ls.length ∧ base.wave.ls.length < 4 ∧
    (withS [(5, 1)]).wave.sreg 5 ≠ 0 ∧ base.wave.sreg 5 = 0 ∧ ∃ x t, base.fetchWord base.wave.core (base.gang base.wave.gang).asid 16 = .ok x t :=
  ⟨⟨_, rfl⟩, at_ rfl, last rfl, sfull rfl, rfl, by decide, by decide, by decide, by decide, given (by decide)⟩

theorem witness_skipped_loop :
    let s := of fun w => { w with phase := .fetch, resume := .past }
    s.party = .wave ∧ s.wave.status = .live ∧ s.wave.phase = .fetch ∧ s.wave.resume = .past ∧
      ∃ x t, s.fetchWord s.wave.core s.myGang.asid s.wave.pc.toNat = .ok x t := ⟨rfl, rfl, rfl, rfl, given (by decide)⟩

theorem witness_two_loops :
    let s (a b : LoopEntry) : State := of fun w => { w with ls := [a, b] }
    (∀ a ∈ [(⟨0, 4, 2⟩ : LoopEntry), ⟨0, 4, 1⟩, ⟨0, 8, 1⟩], AtInstr (s a ⟨0, 4, 1⟩) ∧ LastOfClause (s a ⟨0, 4, 1⟩).wave 1 ∧ (s a ⟨0, 4, 1⟩).wave.ls = [a] ++ [⟨0, 4, 1⟩]) ∧
      instrAddr (s ⟨0, 4, 2⟩ ⟨0, 4, 1⟩).wave = 4 := by
  refine ⟨fun a ha => ?_, by decide⟩
  simp only [List.mem_cons, List.mem_nil_iff, or_false] at ha
  rcases ha with rfl | rfl | rfl <;> exact ⟨at_ rfl, last rfl, rfl⟩

theorem witness_pass_closes :
    let s (n : Word) (h : Bool) (fin : Word) : State := of fun w => { w with ls := [⟨0, fin, n⟩], inHandler := h }
    (∀ x ∈ [s 2 false 4, s 1 false 4, s 0 true 4, s 1 false 8], AtInstr x ∧ LastOfClause x.wave 1 ∧ ∃ e, x.wave.ls = [] ++ [e]) ∧
      (∀ x ∈ [s 2 false 4, s 1 false 4], x.wave.inHandler = false ∧ ∀ e ∈ x.wave.ls, e.fin = instrAddr x.wave) ∧
      (∀ e ∈ (s 2 false 4).wave.ls, 2 ≤ e.count.toNat) ∧ (∀ e ∈ (s 1 false 4).wave.ls, e.count.toNat < 2) ∧ (s 0 true 4).wave.inHandler = true ∧
      ∀ e ∈ (s 1 false 8).wave.ls, e.fin ≠ instrAddr (s 1 false 8).wave := by
  refine ⟨fun x hx => ?_, by decide, by decide, by decide, rfl, by decide⟩
  simp only [List.mem_cons, List.mem_nil_iff, or_false] at hx
  rcases hx with rfl | rfl | rfl | rfl <;> exact ⟨at_ rfl, last rfl, _, rfl⟩

theorem witness_transfer_place : AtInstr (of fun w => { w with hdr := placedHdr 0 2 }) ∧ ¬ LastOfClause (of fun w => { w with hdr := placedHdr 0 2 }).wave 1 :=
  ⟨at_ rfl, by unfold LastOfClause; decide⟩

theorem witness_wave_ends : AtInstr base ∧ LastOfClause base.wave 1 ∧ base.tracked base.cur = false ∧ base.wave.allFull = true :=
  ⟨at_ rfl, last rfl, by decide, by decide⟩

theorem witness_special_registers :
    AtInstr base ∧ SFull base.wave [3] ∧ (0x010, base.wave.icount) ∈ plainSpecials base ∧ ¬ assigned 0x013 ∧ ¬ assigned 0x126 ∧ assigned 0x125 ∧ ¬ writable 0x010 ∧
    (let s := of fun w => { w with inHandler := true, ls := [⟨0, 0, 1⟩] };
      AtInstr s ∧ s.wave.inHandler = true ∧ (0 : Nat) < s.wave.ls.length) ∧ 4 < ((withS [(2, 5)]).wave.sreg 2).toNat % 8 ∧ (base.wave.sreg 2).toNat % 8 ≤ 4 :=
  ⟨at_ rfl, sfull rfl, by simp [plainSpecials], by unfold assigned; decide, by unfold assigned; decide, by unfold assigned; decide, by unfold writable; decide,
    ⟨at_ rfl, rfl, by decide⟩, by decide, by decide⟩

namespace Sys2Proof.Demo

/-- The kernel of `base` changed. -/
def withKernel (f : Kernel → Kernel) : State := base.modLaunch 0 fun x => { x with kernel := f x.kernel }

/-- The gang of `base` changed. -/
def withGang (f : Gang → Gang) : State := base.modGang 0 f

/-- Two waves of one workgroup, the second of which has arrived at the core barrier or not. -/
def twoWaves (arrived : Bool) : State :=
  { base with waves := [(1, { wave with waiting := some (.bar 1 0) }), (2, { wave with waiting := if arrived then some (.bar 1 0) else none })] }

/-- Operation 7 in flight, of wave 1: a load that has not returned. -/
def demoOp : MemOp :=
  { id := 7, core := 0, wave := 1, waveid := 0, gang := 0, launch := 0, pc := 4, path := .gen, counted := .sm, tracker := false, atomic := false,
    seqctr := none, acc := [⟨.phys 0x1000, 0x1000, false, false, .read 0 4, none⟩], res := [], fill := .scalar 3 4 false, rel := none, acq := none, reads := [],
    bad := none, pieces := [], denied := false, expzFull := false, entered := true, fired := [], ord := 7 }

end Sys2Proof.Demo

theorem witness_scoped_barrier :
    AtInstr base ∧ base.myLaunch.kernel.bscope = 6 ∧ (withKernel fun k => { k with bscope := 2 }).myLaunch.kernel.bscope ≤ 4 ∧ base.wave.waiting = none ∧
      GenPerformed base base.cur 1 ∧ ¬ GenPerformed { base with ops := [demoOp] } 1 1 ∧ (of fun w => { w with waiting := some (.bar 2 0) }).wave.waiting = some (.bar 2 0) :=
  ⟨at_ rfl, rfl, by decide, rfl, fun _ h => (nomatch h), fun h => absurd (h demoOp (List.mem_singleton.2 rfl) rfl rfl) (by decide), rfl⟩

theorem witness_core_barrier :
    (∀ b, 0 < ((twoWaves b).gang 0).wgs.length ∧ ∃ k w, (k, w) ∈ (twoWaves b).liveOf 0 ∧ w.wg = 0) ∧
    (∀ x ∈ (twoWaves true).liveOf 0, x.2.wg = 0 → x.2.waiting = some (.bar 1 ((twoWaves true).barPhase 0 0 1))) ∧
    ∃ x ∈ (twoWaves false).liveOf 0, x.2.wg = 0 ∧ x.2.waiting ≠ some (.bar 1 ((twoWaves false).barPhase 0 0 1)) := by
  refine ⟨fun b => ⟨?_, 1, { wave with waiting := some (.bar 1 0) }, ?_, rfl⟩, by decide, by decide⟩ <;> cases b <;> decide

theorem witness_numbered_barriers :
    AtInstr base ∧ base.wave.wg < base.myGang.wgs.length ∧ SFull base.wave [5] ∧ base.wave.waiting = none ∧ (15 : BitVec 10).toNat < 16 ∧
      16 ≤ (16 : BitVec 10).toNat ∧ (of fun w => { w with waiting := some (.nb 1 0) }).wave.waiting = some (.nb 1 0) ∧
      (⟨2, 1, 0, []⟩ : NBar).count + 1 = (⟨2, 1, 0, []⟩ : NBar).expect ∧ (⟨2, 0, 0, []⟩ : NBar).count + 1 ≠ (⟨2, 0, 0, []⟩ : NBar).expect :=
  ⟨at_ rfl, by decide, sfull rfl, rfl, by decide, by decide, rfl, by decide, by decide⟩

theorem witness_trap_enters :
    let s := withKernel fun k => { k with trap := 0x100 }
    AtInstr s ∧ s.wave.inHandler = false ∧ s.wave.waiting = none ∧ s.unfinished s.cur = false ∧ s.trapEntry s.wave = some 0x100 :=
  ⟨at_ rfl, rfl, rfl, by decide, by decide⟩

theorem witness_trap_ends :
    AtInstr base ∧ base.wave.waiting = none ∧ base.unfinished base.cur = false ∧ (withKernel fun k => { k with trap := 0xffffffff }).trapEntry wave = none ∧
      (of fun w => { w with inHandler := true }).wave.inHandler = true := ⟨at_ rfl, rfl, by decide, by decide, rfl⟩

theorem witness_return_from_trap :
    let s (b : Bool) : State := of fun w => { w with inHandler := true, trap := { w.trap with haddrWritten := b, hdr := placedHdr 0 2, next := 1 } }
    (∀ b, AtInstr (s b) ∧ (s b).wave.inHandler = true) ∧ (∀ b, LastOfClause (s b).wave 1 ∧ (s b).wave.trap.cause.toNat % 256 ≠ Code.mtxFault.toNat) ∧
      (s true).wave.trap.haddrWritten = true ∧ (s false).wave.trap.haddrWritten = false ∧ (s false).wave.trap.unfetched = false ∧
      (s false).wave.trap.next.toNat < hdrCount (s false).wave.trap.hdr ∧ base.wave.inHandler = false := by
  refine ⟨fun b => ⟨⟨rfl, rfl⟩, rfl⟩, fun b => ?_, rfl, rfl, rfl, by decide, rfl⟩
  cases b <;> exact ⟨last rfl, by decide⟩

theorem witness_return_from_other_traps :
    let s (past : Bool) (next : Nat) (unfetched : Bool) : State := of fun w => { w with
      inHandler := true, ls := [⟨0, 8, 2⟩]
      trap := { w.trap with cause := Code.mtxFault.setWidth _, hdr := placedHdr 0 1, words := [0], haddr := 4, past := past, unfetched := unfetched, next := BitVec.ofNat _ next } }
    (∀ p ∈ [true, false], (s p 0 true).wave.trap.unfetched = true ∧ (s p 0 true).wave.trap.cause.toNat % 256 = Code.mtxFault.toNat) ∧
      hdrCount (s false 1 false).wave.trap.hdr ≤ (s false 1 false).wave.trap.next.toNat ∧ (s false 1 false).wave.ls = [] ++ [⟨0, 8, 2⟩] ∧
      (∀ r ∈ [true, false], let t : State := { s false 0 true with seqs := [(seqKey 0 0, { seqr with status := .fault, mstat := if r then 64 else 0 })] };
        ∃ q, t.seqs.find (seqKey t.wave.gang t.wave.wg) = some q ∧ q.status = .fault ∧ q.mstat.getLsbD 6 = r) ∧
      ∃ q, (s false 0 true).seqs.find (seqKey 0 0) = some q ∧ q.status ≠ .fault := by
  refine ⟨by decide, by decide, rfl, fun r _ => ⟨_, rfl, rfl, by cases r <;> decide⟩, _, rfl, by decide⟩

theorem witness_preemption_hint :
    AtInstr base ∧ SFull base.wave ((List.range (2 * (2 : BitVec 2).toNat)).map (2 * (63 : BitVec 6).toNat + ·)) = SFull base.wave [126, 127, 128, 129] ∧
    SFull base.wave ((List.range (2 * (1 : BitVec 2).toNat)).map (2 * (63 : BitVec 6).toNat + ·)) ∧ base.myGang.saveAt = none ∧
    (let s := withGang fun g => { g with saveAt := some 9 };
      s.myGang.saveAt ≠ none ∧ s.wave.inHandler = false ∧ (∀ n, n < s.wave.sregN → s.wave.sFull n = true) ∧ (∀ n, n < s.wave.vregN → s.wave.vFull n = true)) ∧
    (let s := { (of fun w => w.emptyS 2) with gangs := (withGang fun g => { g with saveAt := some 9 }).gangs };
      s.myGang.saveAt ≠ none ∧ ∃ n, n < s.wave.sregN ∧ (1 : BitVec 16).getLsbD (n / 8) = true ∧ s.wave.sFull n = false) :=
  ⟨at_ rfl, rfl, sfull rfl, rfl, ⟨by decide, rfl, by decide, by decide⟩, by decide, 2, by decide⟩

theorem witness_vector_forms :
    (∃ v, vectorForm base.wave (.vaddLong 3 3 5 ⟨0, 4, 3, 3, 0, 1, 0, false, 0⟩) = some v ∧ FormReady base.wave v ∧ v.x.h = 4 ∧ v.x.w = 4) ∧
    (∃ v, vectorForm base.wave (.vscan 9 7) = some v ∧ FormReady base.wave v) ∧ AtInstr base ∧
    ∃ t, exec (.vmov 2 1) base = .next t :=
  ⟨⟨_, rfl, ⟨rfl, by decide, vfull rfl, sfull rfl⟩, by decide, by decide⟩, ⟨_, rfl, rfl, by decide, vfull rfl, sfull rfl⟩, at_ rfl, goes (by decide)⟩

theorem witness_lanes :
    AtInstr base ∧ base.wave.inHandler = false ∧ VFull base.wave [3, 4, 5] ∧ base.wave.compact.h = 1 ∧ base.wave.compact.w = 1 ∧
      (base.wave.pred base.wave.compact.pred).getLsbD 31 = true ∧ ¬ 0x7f800000 < (base.wave.lane 4 0).toNat % 2 ^ 31 ∧
      0x7f800000 < ((wave.setV 4 (List.replicate 32 0x7f800001)).lane 4 0).toNat % 2 ^ 31 :=
  ⟨at_ rfl, rfl, vfull rfl, by decide, by decide, by decide, by decide, by decide⟩

theorem witness_compares :
    (∃ c, compareForm base.wave (.vcmpGtF32Long 1 2 3 ⟨0, 0, 0, 0, 0, 3, 0, false, 0⟩) =
        some (longArgs ⟨0, 0, 0, 0, 0, 3, 0, false, 0⟩, 3, c, 1, 2, 3) ∧ (longArgs ⟨0, 0, 0, 0, 0, 3, 0, false, 0⟩).type = 3) ∧
    (longArgs ⟨0, 0, 0, 0, 0, 6, 0, false, 0⟩).type ≠ 0 ∧ (longArgs ⟨0, 0, 0, 0, 0, 6, 0, false, 0⟩).type ≠ 3 ∧
    AtInstr base ∧ base.wave.inHandler = false ∧ VFull base.wave [2, 3] := ⟨⟨_, rfl, by decide⟩, by decide, by decide, at_ rfl, rfl, vfull rfl⟩

theorem witness_predicates : (∃ f, logicForm (.vpandn 0 2 1) = some (0, 2, 1, f)) ∧ AtInstr base ∧ base.wave.inHandler = false ∧ SFull base.wave [4] :=
  ⟨⟨_, rfl⟩, at_ rfl, rfl, sfull rfl⟩

theorem witness_register_moves :
    AtInstr base ∧ SFull base.wave [7, 127] ∧ VFull base.wave [255] ∧ base.wave.inHandler = false ∧
      ((withS [(7, 255)]).wave.sreg 7).toNat < (withS [(7, 255)]).wave.vregN ∧ VFull (withS [(7, 255)]).wave [((withS [(7, 255)]).wave.sreg 7).toNat] ∧
      (withS [(7, 256)]).wave.vregN ≤ ((withS [(7, 256)]).wave.sreg 7).toNat := ⟨at_ rfl, sfull rfl, vfull rfl, rfl, by decide, vfull rfl, by decide⟩

theorem witness_conversions :
    let l : VL := ⟨3, 0, 0, 0, 0, 0, 0, false, 0⟩
    (∃ a b, eType l.c.toNat = some a ∧ eType (1 : BitVec 8).toNat = some b ∧ a.width = b.width) ∧ AtInstr base ∧ base.wave.inHandler = false ∧
      VFull base.wave (blockRegs (longArgs l).h (longArgs l).w 2 ++ blockRegs (longArgs l).h (longArgs l).w 3) ∧ (longArgs l).h = 1 ∧ (longArgs l).w = 1 :=
  ⟨⟨_, _, rfl, rfl, by decide⟩, at_ rfl, rfl, vfull rfl, by decide, by decide⟩

theorem witness_resized :
    let l (n : BitVec 8) : VL := ⟨n, 0, 0, 0, 0, 0, 0, false, 0⟩
    (∀ p ∈ [((3 : BitVec 8), (7 : BitVec 8)), (7, 3)], ∃ a b, eType (l p.1).c.toNat = some a ∧ eType p.2.toNat = some b ∧ a.width ≠ b.width ∧
      (longArgs (l p.1)).h = 1 ∧ (longArgs (l p.1)).w = 1) ∧ (longArgs ⟨3, 0, 0, 1, 0, 0, 0, false, 0⟩).w ≠ 1 ∧
      VFull base.wave (blockReg 4 0 0 :: (List.range 2).map (blockReg 8 0)) ∧ AtInstr base ∧ base.wave.inHandler = false := by
  refine ⟨fun p h => ?_, by decide, vfull rfl, at_ rfl, rfl⟩
  simp only [List.mem_cons, List.mem_nil_iff, or_false] at h
  rcases h with rfl | rfl <;> exact ⟨_, _, rfl, rfl, by decide⟩

theorem witness_other_conversions :
    let l (c : BitVec 8) : VL := ⟨c, 0, 1, 0, 0, 0, 0, false, 0⟩
    (longArgs (l 3)).w = 1 ∧ (longArgs (l 3)).h = 2 ∧ eType (l 0x48).c.toNat = none ∧ eType 3 ≠ none ∧
      VFull base.wave ((List.range 2).flatMap fun r => (List.range 2).map (blockReg 16 r) ++ (List.range 1).map (blockReg 8 r)) :=
  ⟨by decide, by decide, by decide, by decide, vfull rfl⟩

theorem witness_packed_nan :
    (0x7f800000 : Nat) < (0xffc12345 : BitVec 32).toNat % 2 ^ 31 ∧ (0xffc12345 : BitVec 32).toNat / 2 ^ 16 % 2 ^ 7 ≠ 0 ∧
      ((wave.setV 4 (List.replicate 32 0xffc12345)).lane 4 0) = 0xffc12345 := by decide

theorem witness_moves_in_handler :
    let s := of fun w => { w with inHandler := true, v := w.v.set 9 ⟨List.replicate 32 0, false⟩ }
    AtInstr s ∧ s.wave.inHandler = true ∧ SFull s.wave [2, 5] ∧ (9 : BitVec 8).toNat < s.wave.vregN ∧ s.wave.vFull 9 = false :=
  ⟨at_ rfl, rfl, sfull rfl, by decide, by decide⟩

theorem witness_empty_vector_source :
    let s := of fun w => { w with v := w.v.set 3 ⟨List.replicate 32 0, false⟩ }
    (∃ v, vectorForm s.wave (.vaddLong 1 2 3 ⟨0, 0, 0, 0, 2, 3, 0, false, 0⟩) = some v ∧ v.legal = true ∧ (∀ n ∈ v.reads ++ v.writes, n < s.wave.vregN) ∧
      (∀ n ∈ v.ss, n < s.wave.sregN) ∧ v.vs = [(2, 0, false)] ++ (3, 1, true) :: [] ∧ blockRegs v.x.h v.x.w 3 = [] ++ 3 :: []) ∧
      AtInstr s ∧ s.wave.inHandler = false ∧ s.wave.vFull 3 = false ∧ (of fun w => w.emptyS 3).wave.sFull 3 = false :=
  ⟨⟨_, rfl, by decide⟩, at_ rfl, rfl, by decide, by decide⟩

theorem witness_vector_in_handler :
    let s := of fun w => { w with inHandler := true }
    AtInstr s ∧ s.wave.inHandler = true ∧ (∃ v, vectorForm s.wave (.vadd 1 2 3) = some v) ∧ engineClass (.claimDone 3) = true := ⟨at_ rfl, rfl, ⟨_, rfl⟩, rfl⟩

theorem witness_vector_checks :
    (∃ v, vectorForm base.wave (.vaddLong 1 2 3 ⟨0, 0, 0, 0, 0, 10, 0, false, 0⟩) = some v ∧ v.legal = false) ∧
    (let s := of fun w => { w with vregN := 8 };
      ∃ v, vectorForm s.wave (.vadd 8 2 3) = some v ∧ v.legal = true ∧ (∃ n ∈ v.reads ++ v.writes, s.wave.vregN ≤ n) ∧ AtInstr s) ∧
    (let s := of fun w => { w with v := w.v.set 2 ⟨List.replicate 32 0, false⟩ };
      ∃ v, vectorForm s.wave (.vadd 1 2 3) = some v ∧ v.legal = true ∧ (∀ n ∈ v.reads ++ v.writes, n < s.wave.vregN) ∧ v.x.fe = 0 ∧
        ∃ n ∈ v.reads ++ v.writes, s.wave.vFull n = false) :=
  ⟨⟨_, rfl, by decide⟩, ⟨_, rfl, by decide, by decide, at_ rfl⟩, _, rfl, by decide, by decide, by decide, by decide⟩

namespace Sys2Proof.Demo

/-- The same operation with other accesses. -/
def memop (acc : List Acc) : MemOp := { demoOp with acc := acc }

/-- `base` with an operation in flight. -/
def inFlight (o : MemOp) : State := { base with ops := [o], nextId := 8 }

/-- An access at physical address 0x1000. -/
def accAt (k : AccKind) : Acc := ⟨.phys 0x1000, 0x1000, false, false, k, none⟩

/-- Bytes that have come back. -/
def back (n : Nat) : Map Byte := (List.range n).foldl (fun m k => m.set k 1) []

/-- Ranges of addresses pass their checks. -/
def allPass : Addrs → Bool
  | .ok => true
  | _ => false

theorem passes {a : Addrs} (h : allPass a = true) : a = .ok := by
  cases a with
  | ok => rfl
  | _ => nomatch h

/-- A leaf of a page of device 5, and a pod of the devices 0 and 5 (R400, R406). -/
def remotePte : Word := 0x5000000005f
def podOf : Pod := ⟨5, 0, [0, 5], 0, 64, 0, 16, 0, 0, 100, 10, 0, 0⟩

end Sys2Proof.Demo

theorem witness_memory_forms :
    (∃ m, memForm base (.vldLong 16 4 0 ⟨0, 0, 1, 1, 0, false, false, 4, false, false⟩) = some m ∧ m.legal = true ∧ SFull base.wave m.ss ∧ VFull base.wave m.vs ∧
      Passes base m ∧ m.rs ≠ [] ∧ (base.split base.myGang.asid m.rs).2 = [] ∧ m.op.tracker = false ∧ m.x.rel = false ∧ L1Misses base m) ∧
    (∃ m, memForm base (.sacas 126 0 255) = some m ∧ m.legal = true ∧ SFull base.wave m.ss ∧ VFull base.wave m.vs ∧ Passes base m ∧ m.rs ≠ [] ∧
      (base.split base.myGang.asid m.rs).2 = [] ∧ m.op.atomic = true) ∧
    (∃ m, memForm base (.vst 4 3 4) = some m ∧ m.legal = true ∧ SFull base.wave m.ss ∧ VFull base.wave m.vs ∧ Passes base m ∧
      (base.split base.myGang.asid m.rs).2 = [] ∧ m.op.tracker = true ∧ base.trackerRoom base.wave.core = true ∧
      L1Misses { base with l1 := [⟨0, 0, []⟩] } m) ∧
    AtInstr base ∧ base.wave.acqs = [] ∧ base.wave.waiting = none :=
  ⟨⟨_, rfl, by decide, sfull rfl, vfull rfl, passes (by decide), by decide, by decide, by decide, by decide,
      fun _ _ _ _ _ _ hl => absurd hl List.not_mem_nil⟩,
    ⟨_, rfl, by decide, sfull rfl, vfull rfl, passes (by decide), by decide, by decide, by decide⟩,
    ⟨_, rfl, by decide, sfull rfl, vfull rfl, passes (by decide), by decide, by decide, by decide, fun h => nomatch h⟩, at_ rfl, rfl, rfl⟩

theorem witness_no_lane :
    let s := of fun w => { w with vp := w.vp.set 1 0 }
    ∃ m, memForm s (.vldLong 16 4 0 ⟨0, 1, 0, 0, 0, false, false, 0, false, false⟩) = some m ∧ AtInstr s ∧ m.legal = true ∧ SFull s.wave m.ss ∧
      VFull s.wave m.vs ∧ s.wave.acqs = [] ∧ s.wave.waiting = none ∧ m.rs = [] :=
  ⟨_, rfl, at_ rfl, by decide, sfull rfl, vfull rfl, rfl, rfl, by decide⟩

theorem witness_addresses :
    (∃ p n, base.trans 0 0x1000 = .ok p n ∧ pteRmt p = false ∧ 0x1000 % 4 = 0) ∧
    (let s := withS [(9, 4)];
      ∃ m r, memForm s (.sseqadd 12 9 0) = some m ∧ AtInstr s ∧ m.legal = true ∧ m.rs = [r] ∧ m.align = true ∧ r.va % r.w ≠ 0 ∧
        s.checkRanges s.myGang.asid m.need [(r.va, r.w, 1)] = .ok) ∧
    (let s := { base with tlb := [⟨0, 0, 0, 4096, 0x0f⟩, ⟨0, 1, 0, 4096, 0x03⟩] };
      ∃ p n, s.trans 1 0 = .ok p n ∧ Need.store.writes = true ∧ pteW p = false) ∧
    (let s : State := { base with tlb := [⟨0, 1, 0, 4096, remotePte⟩], pod := some podOf };
      ∃ p n, s.trans 1 0 = .ok p n ∧ pteRmt p = true ∧ pteR p = true ∧ s.isMember (pteDev p) = true ∧ ({ s with pod := none }).isMember (pteDev p) = false) :=
  ⟨⟨_, _, rfl, by decide, by decide⟩, ⟨_, _, rfl, at_ rfl, by decide, rfl, by decide, by decide, passes (by decide)⟩, ⟨_, _, rfl, by decide, by decide⟩,
    _, _, rfl, by decide, by decide, by decide, by decide⟩

theorem witness_stash_store :
    AtInstr base ∧ base.wave.acqs = [] ∧ base.wave.waiting = none ∧ SFull base.wave [4] ∧ VFull base.wave (block base.wave.memCompact 0) ∧
      base.wave.memCompact.scope ≤ 4 ∧ base.wave.memCompact.h = 1 ∧ base.wave.memCompact.w = 1 ∧ base.wave.memCompact.rel = false ∧
      base.wave.memCompact.acq = false ∧ base.trackerRoom base.wave.core = true ∧ base.wave.takes base.wave.memCompact.pred 31 = true ∧
      base.checkRanges base.myGang.asid .store [(0, 8192, 1)] = .ok ∧ ((withS [(4, 4)]).wave.sreg 4).toNat % 128 ≠ 0 ∧
      (let l : ML := ⟨0, 0, 3, 0, 0, false, false, 0, false, false⟩; 32 ≤ 0 + 16 * ((memLong l).h - 1) + ((memLong l).w - 1)) ∧
      ∃ p n, base.trans 0 8191 = .ok p n ∧ pteW p = true ∧ pteRmt p = false :=
  ⟨at_ rfl, rfl, rfl, sfull rfl, vfull rfl, by decide, by decide, by decide, by decide, by decide, by decide, by decide, passes (by decide),
    by decide, by decide, _, _, rfl, by decide, by decide⟩

theorem witness_vault_forms :
    let rs := elements base.wave base.wave.memCompact (blockAt 12 4) (fun _ _ => false) fun _ _ _ => .read
    AtInstr base ∧ base.trackerRoom base.wave.core = true ∧ SFull base.wave [12] ∧
      VFull base.wave ([] ++ block base.wave.memCompact 14) ∧ base.wave.memCompact.scope ≤ 4 ∧ base.wave.memCompact.rel = false ∧ rs ≠ [] ∧
      (let w := (of fun w => { w with vp := w.vp.set 1 0 }).wave;
        elements w (memLong ⟨0, 1, 0, 0, 0, false, false, 2, true, false⟩) (blockAt 12 4) (fun _ _ => false) (fun _ _ _ => .read) = []) :=
  ⟨at_ rfl, by decide, sfull rfl, vfull rfl, by decide, by decide, by decide, by decide⟩

theorem witness_vault_addresses :
    let two : State := { withKernel id with gangs := [(0, base.gang 0), (1, { base.gang 0 with gangid := 1 })] }
    let s := two.modLaunch 0 fun x => { x with grants := 3 }
    let a : Word := 0x8000000001000004
    (base.gang 0).vaultSize ≠ 0 ∧ ((withGang fun g => { g with vaultSize := 0 }).gang 0).vaultSize = 0 ∧ a.getLsbD 63 = true ∧ (4 : Word).getLsbD 63 = false ∧
      ((two.modLaunch 0 fun x => { x with grants := 0 }).launch (two.gang 0).launch).grants.testBit 0 = false ∧ (s.launch (s.gang 0).launch).grants.testBit 1 = true ∧
      Claim.Reaches s 0 a (1, { base.gang 0 with gangid := 1 }) ∧ (∀ y ∈ s.gangs, Claim.Reaches s 0 a y → y = (1, { base.gang 0 with gangid := 1 })) ∧
      ∀ x ∈ s.gangs, ¬ Claim.Reaches s 0 0x8000000002000004 x := by
  refine ⟨by decide, by decide, by decide, by decide, by decide, by decide, by unfold Claim.Reaches; decide, ?_, by unfold Claim.Reaches; decide⟩
  unfold Claim.Reaches
  decide

theorem witness_remote_forms :
    let st (n k : Nat) : State :=
      { base with tlb := [⟨0, 0, 0, 4096, remotePte⟩], pod := some { podOf with allow := n, spillsz := 128 * k } }
    (∀ i ∈ [Instr.sldN32 2 4 1, .sstN32 2 4 1], ∃ m r, memForm (st 4 4) i = some m ∧ AtInstr (st 4 4) ∧ m.legal = true ∧ SFull (st 4 4).wave m.ss ∧
      VFull (st 4 4).wave m.vs ∧ Passes (st 4 4) m ∧ (m.need = .load ∨ m.need = .store) ∧ m.rs = [r] ∧ 0 < r.w ∧ m.x.rel = false ∧
      r.va % 2 ^ 18 + r.w ≤ 2 ^ 18 ∧ (st 4 4).trackerRoom 0 = true ∧
      ∃ p n, (st 4 4).trans (st 4 4).myGang.asid r.va = .ok p n ∧ pteRmt p = true ∧ ptePa p n r.va % 64 + r.w ≤ 64) ∧
    (st 4 4).outcomePending = false ∧ 0 < (st 4 4).allowLeft 5 ∧ (st 0 4).allowLeft 5 = 0 ∧ 0 < (st 0 4).spillFree ∧ (st 0 0).spillFree = 0 ∧
      ({ st 4 4 with step := { StepState.reset with reported := some 0 } }).outcomePending = true := by
  refine ⟨fun i hi => ?_, by decide, by decide, by decide, by decide, by decide, by decide⟩
  simp only [List.mem_cons, List.mem_nil_iff, or_false] at hi
  rcases hi with rfl | rfl <;> exact ⟨_, _, rfl, at_ rfl, by decide, sfull rfl, vfull rfl, passes (by decide), by decide, rfl, by decide, by decide, by decide, by decide, _, _, rfl, by decide, by decide⟩

theorem witness_load_served :
    let l : Line := ⟨0, 32, (List.range 128).map (BitVec.ofNat 8)⟩
    let s : State := { (withS [(4, 0x1000)]) with l1 := [l] }
    (∀ i ∈ [Instr.sldN32 2 4 1, .sldN32Long 2 4 1 ⟨0, 0, 0, 0, 0, false, false, 2, true, false⟩], ∃ m r, memForm s i = some m ∧ AtInstr s ∧ m.legal = true ∧
      SFull s.wave m.ss ∧ Passes s m ∧ m.need = .load ∧ m.rs = [r] ∧ r.w ∣ 128 ∧ r.va % r.w = 0 ∧ m.x.rel = false ∧
      ∃ p n, s.trans s.myGang.asid r.va = .ok p n ∧ pteRmt p = false ∧ pteMt p = 0 ∧ s.l1.find? (fun x => x.core == s.wave.core && x.line == ptePa p n r.va / 128) = some l) ∧
      s.ops = [] ∧ s.emitOver s.cur s.nextId 0x1000 = false ∧ ({ s with ops := [demoOp] }).ops ≠ [] := by
  refine ⟨fun i hi => ?_, rfl, rfl, by decide⟩
  simp only [List.mem_cons, List.mem_nil_iff, or_false] at hi
  rcases hi with rfl | rfl <;> exact ⟨_, _, rfl, at_ rfl, by decide, sfull rfl, passes (by decide), rfl, rfl, by decide, by decide, by decide, _, _, rfl, by decide, by decide, by decide⟩

theorem witness_empty_memory_source :
    (∃ m, memForm base (.vstLong 4 3 4 ⟨0, 0, 0, 0, 4, false, false, 0, false, false⟩) = some m ∧ m.legal = true ∧ m.srcs = [(0, false, [3]), (1, true, [])] ++ (2, true, [] ++ [4]) :: [] ∧
      m.x.fe.testBit 2 = true ∧ m.x.fe.testBit 0 = false) ∧
    (∃ m, memForm base (.sldN32 2 4 1) = some m ∧ m.x.fe = 0 ∧ ∃ n ∈ m.ss, (of fun w => w.emptyS 4).wave.sFull n = false) ∧
      (of fun w => w.emptyV 4).wave.vFull 4 = false := ⟨⟨_, rfl, by decide⟩, ⟨_, rfl, by decide⟩, by decide⟩

theorem witness_perform :
    (∀ k ∈ [AccKind.write [1, 2], .read 0 4, .rmw .add 5 4 0, .rmw .seqAdd 5 8 0, .rmw .redFadd 5 4 0, .rmw (.shadow 7) 5 2 0, .write (toBytes 8 3)],
      let o := memop [accAt k]
      let s := inFlight o
      s.opAt 7 = some o ∧ (∀ q ∈ s.ops, q.id = o.id → q = o) ∧ (∀ a ∈ o.acc, a.at_ = .phys 0x1000 ∧ a.parked = none) ∧
        s.canPerform 7 (chanOf 0x1000) = true ∧ s.bad = [] ∧ s.cmds = [] ∧ (∀ x ∈ s.launches, x.2.kernel.mode ≠ 1) ∧ s.reduce = [] ∧ s.flushQ = [] ∧ s.shadow = [] ∧
        s.watch = [] ∧ s.reduceVictim 32 = none) ∧
    Memory.wf base.mem = true ∧ 0x1000 % 128 + 8 ≤ 128 ∧
    (let o := memop [⟨.vault 0 16, 16, false, false, .read 0 4, none⟩];
      (inFlight o).opAt 7 = some o ∧ (inFlight o).canPerform 7 (o.acc.map Acc.chan).sum = true ∧ (inFlight o).badVault = [] ∧ Memory.wf ((inFlight o).gang 0).vault = true) ∧
    (let o := memop [⟨.ungranted, 16, false, false, .write [1, 2, 3, 4], none⟩]; (inFlight o).opAt 7 = some o ∧ (inFlight o).canPerform 7 (o.acc.map Acc.chan).sum = true) := by
  decide

theorem witness_sums :
    (let r : ReduceLine := ⟨32, [(0, 0x3f800000), (3, 0x40000000)], [1], [0], 0x1000, none⟩;
      (∃ k, ({ base with reduce := [r] }).reduce.filter (fun (r : ReduceLine) => r.line == 0x1000 / 128) = [k]) ∧ ({ base with flushQ := [r] }).flushQ.find? (fun (q : ReduceLine) => q.line == r.line) = some r ∧
        (r.sums.map (·.1)).Nodup ∧ (∀ w ∈ r.sums, w.1 < 32) ∧ ({ base with bad := [(32, Code.poison)] }).bad.find r.line = some Code.poison ∧
        ({ base with hr := { base.hr with service := 0 } }).hr.service = 0) ∧
    (let h : ShadowLine := ⟨32, 7, List.replicate 64 0, [0], 0x1000⟩;
      ({ base with shadow := [h] }).shadow.filter (fun (h : ShadowLine) => h.line == 0x1000 / 128) = [h] ∧ 0x1000 % 128 / ((shadowFmt h.fmt).width / 8) < h.elems.length ∧
        h.elems.length = 128 / ((shadowFmt h.fmt).width / 8) ∧ h.fmt ≠ 0x40) := ⟨⟨⟨_, rfl⟩, by decide⟩, by decide⟩

theorem witness_counter_makes_ready :
    let o : MemOp := { memop [] with tracker := true, fill := .none, seqctr := some 0x1000 }
    let x := { base.launch 0 with status := .waiting, ready := [(0x1000, 2), (0x2000, 1)], seen := [false, true] }
    let s : State := { inFlight o with launches := [(0, x)] }
    s.opAt o.id = some o ∧ o.complete = true ∧ x.seen.length = x.ready.length ∧ (∃ e : TlbEntry, s.tlb.filter (fun e =>
      decide (576 ≤ e.unit ∧ e.unit < 580) && e.hits x.asid 0x1000) = [e] ∧ ptePa e.pte e.span 0x1000 = 0x1000) ∧ s.transNow x.asid (2 ^ 57) = .error Code.addrRange := by
  exact ⟨by decide, by decide, by decide, ⟨_, rfl, by decide⟩, rfl⟩

theorem witness_watchpoint :
    let w : Watch := ⟨0x1000, 64, 3, 0xff, 0x4000, 0, true, true, false, 0⟩
    let v : Word := 3
    (w.armed = true ∧ w.pa ≤ 0x1000 ∧ 0x1000 + 8 ≤ w.pa + w.len ∧ (v &&& w.m) = (w.v &&& w.m) ∧ (2 : Nat) ∉ demoOp.fired) ∧ w.queued < 16 ∧
      16 ≤ ({ w with queued := 16 }).queued ∧ ¬ ({ w with armed := false }).armed = true ∧
      (let s : State := { inFlight (memop [accAt (.write (toBytes 8 3))]) with watch := [(2, w)] }; s.canPerform 7 (chanOf 0x1000) = true) := by decide

theorem witness_data_arrives :
    (let o : MemOp := { memop [] with res := back 4 };
      (inFlight o).opAt 7 = some o ∧ ((inFlight o).waves.find 1).isSome = true ∧ ((inFlight o).gang 0).status = .resident ∧ ((inFlight o).waveAt 1).status = .live ∧
        ∀ k, k < 4 → (o.res.find k).isSome = true) ∧
    (let o : MemOp := { memop [] with res := back 4, fill := .vector [(0, 5)] [(0, 31, 0, 4, false)] };
      (inFlight o).opAt 7 = some o ∧ ∀ x ∈ [((0 : Nat), (31 : Nat), (0 : Nat), (4 : Nat), false)], x.1 = 0 ∧ ∀ k, k < x.2.2.2.1 → (o.res.find (x.2.2.1 + k)).isSome = true) ∧
    (let o : MemOp := { memop [] with tracker := true, fill := .none };
      (inFlight o).opAt 7 = some o ∧ o.complete = true) ∧
    (let o : MemOp := { memop [] with atomic := true, res := back 4 };
      let s := { inFlight o with waves := [(1, { wave with waiting := some (.atomic 7) })] };
      s.opAt 7 = some o ∧ (s.waves.find 1).isSome = true ∧ s.unfinished 1 = false ∧ (s.waveAt 1).waiting = some (.atomic 7)) ∧
    (let o : MemOp := { memop [] with atomic := true, res := back 4, fill := .vector [(0, 5)] [(0, 31, 0, 4, false), (0, 30, 4, 4, false)], bad := some (Code.poison, 0x1000) };
      let s := { inFlight o with waves := [(1, { wave with waiting := some (.atomic 7) })] };
      s.opAt 7 = some o ∧ o.acc = [] ∧ s.unfinished 1 = false ∧ (s.waveAt 1).inHandler = false ∧
        (({ s with launches := (withKernel fun k => { k with trap := 0x100 }).launches }).trapEntry (s.waveAt 1)).isSome = true) := by decide

theorem witness_fences :
    AtInstr base ∧ base.wave.acqs = [] ∧ base.wave.waiting = none ∧ (∀ sc ∈ [(0 : Nat), 3, 4], base.fenceFull 0 sc = true) ∧ base.fenceReads 0 = true ∧
      base.reduce = [] ∧ base.flushQ = [] ∧ base.shadow = [] ∧ SFull base.wave [9] ∧
      (inFlight (memop [accAt (.read 0 4)])).fenceReads 0 = false ∧ (inFlight (memop [accAt (.read 0 4)])).fenceFull 0 4 = false := by
  refine ⟨at_ rfl, rfl, rfl, by decide, by decide, rfl, rfl, rfl, sfull rfl, by decide, by decide⟩

theorem witness_arrival_wait :
    AtInstr base ∧ SFull base.wave [3, 6] ∧ base.myGang.vaultSize ≠ 0 ∧ base.badVault = [] ∧ (base.wave.sreg 6).toNat ≤ fromBytes (Memory.read base.myGang.vault 0 8) ∧
      fromBytes (Memory.read base.myGang.vault 0 8) < ((withS [(6, 1)]).wave.sreg 6).toNat ∧
      ((withGang fun g => { g with vaultSize := 0 })).myGang.vaultSize = 0 ∧ 0 < ((withS [(6, 1)]).wave.sreg 6).toNat :=
  ⟨at_ rfl, sfull rfl, by decide, rfl, by decide, by decide, by decide, by decide⟩

theorem witness_tile_predicate :
    tileForm (.mma 4 17 18 true 3) = some (true, 3, 1) ∧ SeqAtInstr (ofSeq fun q => { q with tq := 8 }) ∧ tileBit (ofSeq fun q => { q with tq := 8 }).sq 3 = true ∧
      tileForm (.mma 4 17 18 false 3) = some (false, 3, 1) ∧ tileBit base.sq 3 = false ∧ SeqAtInstr base :=
  ⟨rfl, ⟨.inl rfl, rfl⟩, by decide, rfl, by decide, .inl rfl, rfl⟩

theorem witness_matrix_units :
    SeqAtInstr base ∧ base.checkAll base.sq.asid (base.sq.rowRanges 16 base.sq.fmty 128 0 32) = .ok ∧ tileBit base.sq 0 = !false ∧ base.sq.srcOk 16 = true ∧
      base.sq.srcOk 31 = true ∧ base.sq.srcOk 0 = false ∧ (ofSeq fun q => { q with rings := [(0, ⟨0, 128, 2, 0, 0, false⟩)] }).sq.srcOk 0 = true ∧
      fmtBytes base.sq.fmtx.fmt8 = fmtBytes base.sq.fmty.fmt8 ∧ base.sq.work = [] ∧ base.sq.part = false ∧ base.sq.reuse = 0 ∧ base.sq.misaligned 16 = false ∧
      base.drains = [] ∧ base.sq.fmtx.fmt8 = 0x03 ∧ base.sq.fmty.fmt8 = base.sq.fmtx.fmt8 ∧
      (ofSeq fun q => { q with work := [(1, [])] }).sq.work = [(1, [])] ∧ 1 < (2 : BitVec 32).toNat ∧ 31 < (32 : BitVec 32).toNat :=
  ⟨⟨.inl rfl, rfl⟩, passes (by decide), by decide⟩

theorem witness_matrix_elements :
    (3 : BitVec 5).toNat < 16 ∧ base.sq.fmtx.nScales = 0 ∧ 4096 % 4 = 0 ∧ (base.gang base.sq.gang).vaultSize ≠ 0 := by decide

theorem witness_matrix_drains :
    SeqAtInstr base ∧ tileBit base.sq 0 = !false ∧ convOk 7 = true ∧ base.sq.srcOk 16 = true ∧ base.sq.misaligned 16 = false ∧
      base.checkAll base.sq.asid [⟨.engWrite, (base.sq.rowLoc 16 base.sq.mrow).addr.toNat, 128, 1⟩] = .ok ∧ (base.sq.mdAt 0).base.toNat % 128 = 0 ∧
      (let d : Drain := ⟨9, seqKey 0 0, 0, 0, 0, 4, [⟨.phys 256, 256, false, false, .write [1, 2, 3, 4], none⟩], [], 3, []⟩;
        ({ base with drains := [d] }).drains = [d] ∧ ({ base with drains := [d] }).bad = [] ∧ Memory.wf base.mem = true) :=
  ⟨⟨.inl rfl, rfl⟩, by decide, by decide, by decide, by decide, passes (by decide), by decide, rfl, rfl, rfl⟩

theorem witness_matrix_control :
    SeqAtInstr base ∧ SeqReadable base 0 32 8 ∧ (∀ d ∈ base.drains, d.seq ≠ base.seq) ∧ ¬ hdrCount base.sq.hdr ≤ 0 ∧ hdrCount base.sq.hdr ≤ base.sq.widx + 2 ∧
      ¬ hdrCount (ofSeq fun q => { q with hdr := placedHdr 3 3 }).sq.hdr ≤ 2 ∧ base.sq.loop.length < 4 ∧
      (ofSeq fun q => { q with loop := [⟨0, 0, 1⟩, ⟨0, 0, 1⟩, ⟨0, 0, 1⟩, ⟨0, 0, 1⟩] }).sq.loop.length = 4 ∧
      (let s := ofSeq fun q => { q with md := [(1, ⟨0, 128, 2⟩)], rings := [(1, ⟨0, 128, 2, 0, 0, true⟩)] };
        1 ≤ (s.sq.mdAt 1).cfg.toNat % 32 ∧ (s.sq.mdAt 1).cfg.toNat % 32 ≤ 16 ∧ s.sq.rings.find 1 = some ⟨0, 128, 2, 0, 0, true⟩) ∧
      (base.sq.mdAt 1).cfg.toNat % 32 = 0 ∧ base.sq.status = .run ∧ (63 : BitVec 16).toNat < 64 ∧ (63 : BitVec 16).getLsbD 1 = true ∧ (61 : BitVec 16).getLsbD 1 = false ∧
      (if (4 : BitVec 8) = 0 then true else base.sq.tq.getLsbD 4) = false ∧ ∃ x t, base.fetchWord base.sq.core base.sq.asid 64 = .ok x t :=
  ⟨⟨.inl rfl, rfl⟩, ⟨passes (by decide), rfl⟩, by decide, by decide, by decide, by decide, by decide, by decide, by decide, by decide, by decide, by decide, by decide,
    by decide, by decide, given (by decide)⟩

theorem witness_matrix_control_more :
    (let s : State := { base with drains := [⟨9, seqKey 0 0, 0, 0, 0, 4, [], [], 3, []⟩] }; ∃ d ∈ s.drains, d.seq = s.seq) ∧
    (let s := ofSeq fun q => { q with status := .wait };
      SeqAtInstr s ∧ s.sq.status = .wait ∧
        (s.modNbar 0 0 2 fun b => { b with phase := 1 }).nbDone 0 0 2 ((s.modNbar 0 0 2 fun b => { b with phase := 1 }).sq.tokens.get 0 2) = true) ∧
    (let s : State := { base with mem := Memory.write [] 0 [3, 0, 0, 0, 0, 0, 0, 0, 0, 0, 0, 0, 0, 0, 0, 0, 7] };
      (seqBytes s 0 32).1.length = 32 ∧ mfmtOk (nth 0 (seqBytes s 0 32).1 0) = true ∧ mfmtOk (nth 0 (seqBytes s 0 32).1 16) = true) ∧ 16 ≤ (16 : BitVec 8).toNat :=
  ⟨by decide, ⟨⟨.inr rfl, rfl⟩, rfl, by decide⟩, by decide, by decide⟩

namespace Sys2Proof.Demo

/-- `base` with values in scalar registers and bytes in memory. -/
def withMem (xs : List (Nat × Word)) (a : Nat) (bs : List Byte) : State := { withS xs with mem := Memory.write [] a bs }

/-- A block of 8-byte words. -/
def words (xs : List Nat) : List Byte := xs.flatMap (toBytes 8)

/-- A pod of the devices 0 and 1, whose root is device 0. -/
def pod : Pod := ⟨5, 0, [0, 1], 0, 64, 0, 16, 0, 0, 100, 10, 0, 0⟩

/-- `base` in that pod. -/
def podState : State := { base with pod := some pod }

/-- A command of an engine. -/
def cmd (eng : Nat) (op : CmdOp) (st : CStatus) : Cmd := { cmdOf op with eng := eng, status := st }

theorem ready {s : State} {x : EArgs} {rs : List Nat} (h : decide ((s.wave.status = .live ∧ s.wave.phase = .issue) ∧ s.wave.inHandler = false ∧ x.scope ≤ 4 ∧
    (∀ n ∈ rs, n < s.wave.sregN ∧ s.wave.sFull n = true) ∧ s.wave.acqs = [] ∧ s.wave.waiting = none ∧ x.rel = false) = true) : EngReady s x rs := by
  obtain ⟨h1, h2, h3, h4, h5, h6, h7⟩ := of_decide_eq_true h
  exact ⟨h1, h2, h3, h4, h5, h6, fun h => by rw [h7] at h; nomatch h⟩

end Sys2Proof.Demo

theorem witness_engine_command :
    let s := withMem [(6, 0x1000), (7, 2)] 0x1000 (words [0x2000, 0x3000, 0x10000, 0])
    ∃ f g rs op, cmdForm s (.srtrun 12 6 7) = some f ∧ EngReady s f.x (f.d :: f.srcs) ∧ ReadsBlock s (s.wave.sreg (nth 0 f.srcs 0)).toNat f.len 8 g ∧
      f.plan g.bytes = .run rs op ∧ s.checkAll s.myGang.asid rs = .ok ∧ f.room = true ∧ s.trackerRoom s.wave.core = true :=
  ⟨_, _, _, _, rfl, ready rfl, ⟨passes (by decide), rfl, rfl⟩, rfl, passes (by decide), by decide, by decide⟩

theorem witness_engine_answer :
    let s := withMem [(6, 0x1000), (7, 0)] 0x1000 (words [0x2000, 0x3000, 0x10000, 0])
    ∃ f g, cmdForm s (.srtrun 12 6 7) = some f ∧ EngReady s f.x (f.d :: f.srcs) ∧ ReadsBlock s (s.wave.sreg (nth 0 f.srcs 0)).toNat f.len 8 g ∧
      f.plan g.bytes = .answer 0 0 := ⟨_, _, rfl, ready rfl, ⟨passes (by decide), rfl, rfl⟩, rfl⟩

theorem witness_engine_others :
    EngReady base base.wave.engCompact [14, 7, 8] ∧ (copyForm base base.wave.engCompact false 14 7 8).room = true ∧ base.trackerRoom base.wave.core = true ∧
    (let s : State := { (withKernel fun k => { k with mode := 1 }) with waves := [(1, regs wave [(7, 0x810)])] };
      s.myLaunch.kernel.mode = 1 ∧ s.wave.bodyNo = none ∧ 1 ≤ (s.wave.sreg 7).toNat / 256 % 16 ∧ (s.wave.sreg 7).toNat / 256 % 16 ≤ 8 ∧
        VFull s.wave (upto ((s.wave.sreg 7).toNat % 256) 13)) ∧
    base.myLaunch.kernel.mode ≠ 1 := ⟨ready rfl, by decide, by decide, ⟨rfl, rfl, by decide, by decide, vfull rfl⟩, by decide⟩

theorem witness_engine_at_once :
    EngReady base base.wave.engCompact [13, 6] ∧
    (let s : State := { base with watch := [(5, ⟨0, 8, 0, 0, 0, 0, true, true, false, 0⟩)] };
      ∃ w, s.watch.find 5 = some w ∧ w.armed = true ∧ w.asid = s.myGang.asid) ∧ base.watch.find 5 = none ∧
    (let s := withMem [(2, 0x1000)] 0x1000 (words [0x2000, 8, 0, 0]);
      ∃ g, ReadsBlock s 0x1000 32 8 g ∧ numAt g.bytes 0 8 % 8 = 0 ∧ numAt g.bytes 8 4 = 8 ∧ (∃ p n, s.trans 0 0x2000 = .ok p n) ∧ g.s.freeWatch 0 = some 0) ∧
    (let s := withMem [(2, 0x1000)] 0x1000 (words [0x2001, 8, 0, 0]); ∃ g, ReadsBlock s 0x1000 32 8 g ∧ numAt g.bytes 0 8 % 8 ≠ 0) :=
  ⟨ready rfl, ⟨_, rfl, rfl, rfl⟩, rfl, ⟨_, ⟨passes (by decide), rfl, rfl⟩, by decide, by decide, ⟨_, _, rfl⟩, by decide⟩, _,
    ⟨passes (by decide), rfl, rfl⟩, by decide⟩

/-- A block that fails, an empty source of a long form, and an engine that already runs four commands. -/
theorem witness_engine_errors :
    (let s : State := { withMem [(6, 0x1000), (7, 2)] 0x1000 (words [0x2000, 0x3000, 0x10000, 0]) with bad := [(32, Code.poison)] };
      ∃ f g, cmdForm s (.srtrun 12 6 7) = some f ∧ EngReady s f.x (f.d :: f.srcs) ∧ s.checkAll s.myGang.asid [⟨.blockRead, 0x1000, f.len, 8⟩] = .ok ∧
        (s.wave.sreg (nth 0 f.srcs 0)).toNat = 0x1000 ∧ s.genRead 0x1000 f.len = some g ∧ g.bad = some (Code.poison, 0x1000)) ∧
    (let l : EL := ⟨0, 0, 0, 0, 3, false, false, 0, false⟩; l.scope.toNat ≤ 4 ∧ l.fe.getLsbD 0 = true ∧ l.fe.getLsbD 1 = true) ∧
      (of fun w => w.emptyS 6).wave.sFull 6 = false ∧ (of fun w => w.emptyS 6).wave.sFull 7 = true :=
  ⟨⟨_, _, rfl, ready rfl, passes (by decide), rfl, rfl, rfl⟩, by decide, by decide, by decide⟩

theorem witness_claim_post_count :
    (let s : State := { (withKernel fun k => { k with mode := 1 }) with waves := [(1, regs wave [(7, 0x910)])] };
      s.myLaunch.kernel.mode = 1 ∧ s.wave.bodyNo = none ∧ 8 < (s.wave.sreg 7).toNat / 256 % 16 ∧ EngReady s s.wave.engCompact [13, 6, 7]) ∧
    (let s : State := { (withKernel fun k => { k with mode := 1 }) with waves := [(1, wave)] }; (s.wave.sreg 7).toNat / 256 % 16 = 0) :=
  ⟨⟨rfl, rfl, by decide, ready rfl⟩, by decide⟩

theorem witness_tasks :
    EngReady base base.wave.engCompact [5, 2, 3] ∧ base.nodes.find 0 = none ∧
    (let s : State := { base with nodes := [(0, ⟨16, 2, 0, 1, 0, 0, 0⟩)] };
      ∃ nd g, s.nodes.find 0 = some nd ∧ s.checkAll s.myGang.asid [⟨.engRead, 0, nd.rsize, 16⟩] = .ok ∧ s.genRead 0 nd.rsize = some g ∧ g.bad = none ∧
        s.genDone s.cur 4 = true ∧ (s.bin 0 0).recs.length < nd.coal ∧ g.s.bin 0 0 = s.bin 0 0) ∧
    (let s : State := { base with nodes := [(0, ⟨16, 1, 0, 1, 0, 0, 0⟩)], bins := [(0, ⟨[[]], none, []⟩)] };
      ∃ nd, s.nodes.find 0 = some nd ∧ nd.coal ≤ (s.bin 0 0).recs.length) ∧
    base.checkAll base.myGang.asid [⟨.blockRead, 0, 160, 32⟩] = .ok ∧ base.readyRoom = true ∧ base.pagesOk base.myGang.asid 0 64 (fun p _ _ => pteW p && !pteRmt p) = true ∧
    ∃ n t, base.submit base.myGang.asid 0 (some 0x1000) {} = .taken n t :=
  ⟨ready rfl, rfl, ⟨_, _, rfl, passes (by decide), rfl, rfl, by decide, by decide, rfl⟩, ⟨_, rfl, by decide⟩, passes (by decide), by decide, by decide, _, _, rfl⟩

namespace Sys2Proof.Demo

/-- A plan of reading an entry of a key buffer succeeds. -/
def hasEntry : Entry → Bool
  | .ok .. => true
  | _ => false

theorem entry {e : Entry} (h : hasEntry e = true) : ∃ id rec t, e = .ok id rec t := by
  cases e with
  | ok id rec t => exact ⟨id, rec, t, rfl⟩
  | _ => nomatch h

end Sys2Proof.Demo

theorem witness_claim_take :
    EngReady base base.wave.engCompact [10, 7] ∧ (base.wave.sreg 7).toNat % 256 + 5 ≤ base.wave.vregN ∧ base.wave.bodyNo = none ∧
      (let s := of fun w => { w with bodyNo := some 0, items := [(3, 8)] };
        s.wave.bodyNo ≠ none ∧ s.wave.taken = false ∧ VFull s.wave (upto 0 5) ∧ s.wave.items.find? (fun it => it.1 == 3) = some (3, 8)) ∧
      (of fun w => { w with bodyNo := some 0, taken := true }).wave.taken = true :=
  ⟨ready rfl, by decide, rfl, ⟨by decide, rfl, vfull rfl, rfl⟩, rfl⟩

theorem witness_arrival_target :
    let s (e : Nat) : State := { podState with waves := [(1, regs wave [(3, 0x1000)])], mem := Memory.write [] 0x1000 (words [e, 4, 0, 0]) }
    (∀ e ∈ [(255 : Nat), 256], ∃ g, (s e).inPod = true ∧ (s e).genRead 0x1000 32 = some g ∧ g.bad = none ∧ g.s.gangs = (s e).gangs ∧ g.s.arrivals = (s e).arrivals ∧
      numAt g.bytes 0 4 = e ∧ numAt g.bytes 4 4 = 0) ∧ EngReady (s 255) (s 255).wave.engCompact [11, 3] ∧ (s 255).myGang.vaultSize ≠ 0 ∧
      (s 255).checkAll (s 255).myGang.asid [⟨.blockRead, 0x1000, 32, 8⟩] = .ok ∧
      (let t : State := { s 255 with arrivals := [(255, ⟨9, 0, 1, 0, 0⟩)], gangs := (s 255).gangs.set 9 { Gang.blank with status := .ready } };
        ∃ y, t.arrivals.find 255 = some y ∧ y.gang ≠ t.wave.gang ∧ ∃ z, t.gangs.find y.gang = some z ∧ z.status ≠ .retired) := by
  refine ⟨fun e he => ?_, ready rfl, by decide, passes (by decide), ?_⟩
  · simp only [List.mem_cons, List.mem_nil_iff, or_false] at he
    rcases he with rfl | rfl <;> exact ⟨_, by decide, rfl, rfl, rfl, rfl, by decide, by decide⟩
  · exact ⟨_, rfl, by decide, _, rfl, by decide⟩

theorem witness_splat :
    EngReady base base.wave.engCompact [2, 3] ∧ VFull base.wave [4, 5, 6, 9] ∧ base.trackerRoom base.wave.core = true ∧
      base.checkAll base.myGang.asid [⟨.engBoth, 0, 8, 16⟩, ⟨.engBoth, 16, 0, 1⟩] = .ok ∧ (∃ p n, base.trans 0 0 = .ok p n ∧ pteRmt p = false) ∧
      (List.range 32).filter (base.wave.takes base.wave.engCompact.pred) ≠ [] ∧
      (let s := of fun w => { w with vp := w.vp.set 1 0 }; (List.range 32).filter (s.wave.takes (engLong ⟨0, 1, 0, 0, 0, false, false, 0, false⟩).pred) = []) :=
  ⟨ready rfl, vfull rfl, by decide, passes (by decide), ⟨_, _, rfl, by decide⟩, by decide, by decide⟩

theorem witness_blend :
    EngReady base base.wave.engCompact [5, 20, 21, 22, 23] ∧ (1 : BitVec 7).toNat % 16 ≠ 0 ∧ (16 : BitVec 7).toNat % 16 = 0 ∧ VFull base.wave (pixelRegs 16 4) ∧
      VFull base.wave (((List.range 3).map fun j => 16 + 32 + 4 * j).flatMap fun b => blockRegs 2 4 b) ∧ VFull base.wave [60] ∧
      (∃ id rec t, (withS [(21, 0x1000)]).readEntry 0 0x1000 0 = .ok id rec t) ∧ (base.wave.sreg 23).toNat % 2 ^ 32 = 0 ∧
      ((withS [(23, 1)]).wave.sreg 23).toNat % 2 ^ 32 ≠ 0 ∧ (∀ n, (base.wave.vreg n).length = 32) :=
  ⟨ready rfl, by decide, by decide, vfull rfl, vfull rfl, vfull rfl, entry (by decide), by decide, by decide, fun _ => rfl⟩

theorem witness_fabric :
    EngReady base base.wave.engCompact [10, 2, 3, 4] ∧ (2 : BitVec 7).toNat ≠ 127 ∧ base.inPod = false ∧ podState.inPod = true ∧
      EngReady podState podState.wave.engCompact [10, 2, 3, 4] ∧ MaySend podState ∧
      (let s : State := { podState with waves := [(1, regs wave [(3, 0x100), (4, 8)])], tlb := [⟨0, 0, 0, 4096, 0x1000000005f⟩] };
        (s.wave.sreg 4).toNat % 2 ^ 32 = 8 ∧ s.spillCheck ((s.blockRuns s.myGang.asid 0x100 8).map (·.dev)) = none) ∧
      ((withS [(4, 2)]).wave.sreg 4).toNat % 2 ^ 32 % 4 ≠ 0 :=
  ⟨ready rfl, by decide, by decide, by decide, ready rfl, ⟨by decide, by decide, by decide⟩, ⟨by decide, by decide⟩, by decide⟩

theorem witness_fabric_granted :
    let s : State := { podState with tlb := [⟨0, 0, 0, 4096, 0x1000000005f⟩, ⟨0, 0, 4096, 4096, 0x1f⟩], waves := [(1, regs wave [(2, 0x40000000), (3, 0x100), (4, 8), (6, 0x100)])] }
    s.checkAll s.myGang.asid [⟨.rmtWrite, 0x100, 8, 4⟩, ⟨.engRead, 0x40000000, 8, 4⟩] = .ok ∧ s.checkAll s.myGang.asid [⟨.rmtRead, 0x100, 8, 8⟩] = .ok ∧
      (Eng.read { s := s, via := some (s.myTlb, s.me) } s.wave.gang ⟨false, 0x40000000⟩ 8).2.ungranted = false ∧ MayRead s ∧
      Allowed s (s.blockRuns s.myGang.asid 0x100 8) ∧ ({ s with step := { StepState.reset with reported := some 0 } }).outcomePending = true ∧
      ({ s with pod := some { pod with allow := 0 } }).spillCheck ((s.blockRuns s.myGang.asid 0x100 8).map RemRun.dev) ≠ none := by
  refine ⟨passes (by decide), passes (by decide), by decide, ⟨by decide, by decide⟩, ?_, by decide, by decide⟩
  unfold Allowed
  decide

theorem witness_links :
    (∃ p, portOf 30 = some (false, p)) ∧ portOf 31 = none ∧ portOf 223 = some (true, 95) ∧ portOf 224 = none ∧ EngReady base base.wave.engCompact [16, 15, 19] ∧
      base.fabctl = true ∧ (base.modLaunch 0 fun x => { x with grants := 0 }).fabctl = false ∧ (base.port true 0).state = .down ∧
      (∀ st ∈ [PortState.up, .held], ∀ b, ((base.putPort true 0 { (base.port true 0) with state := st, nbrchg := b }).port true 0).state = st) := by
  refine ⟨⟨_, rfl⟩, rfl, rfl, rfl, ready rfl, by decide, by decide, by decide, fun st h b => ?_⟩
  simp only [List.mem_cons, List.mem_nil_iff, or_false] at h
  rcases h with rfl | rfl <;> rfl

theorem witness_pod_steps :
    EngReady podState podState.wave.engCompact [8] ∧ podState.inPod = true ∧ podState.myLaunch.kernel.bscope = 6 ∧ AtInstr podState ∧ podState.wave.waiting = none ∧
      podState.step.outcomes.find? (fun o => o.1 == podState.step.stepno) = none ∧
      (∀ o ∈ [StepOut.commit, .abort], ∀ c, ({ podState.step with outcomes := [(0, o, c)] }).outcomes.find? (fun o => o.1 == 0) = some (0, o, c)) ∧
      podState.unfinished podState.cur = false ∧ base.inPod = false ∧ (withKernel fun k => { k with bscope := 5 }).myLaunch.kernel.bscope ≤ 5 ∧
      (∀ o ∈ [none, some (StepOut.commit, false), some (.abort, false)], (of fun w => { w with waiting := some (.step 0 true o) }).wave.waiting = some (.step 0 true o)) := by
  refine ⟨ready rfl, by decide, rfl, at_ rfl, rfl, by decide, fun o _ c => rfl, by decide, by decide, by decide, fun o _ => rfl⟩

namespace Sys2Proof.Demo

/-- A program that reads well. -/
def reads {ε α : Type} : Except ε α → Bool
  | .ok _ => true
  | _ => false

theorem readsOk {ε α : Type} {e : Except ε α} (h : reads e = true) : ∃ x, e = .ok x := by
  cases e with
  | ok x => exact ⟨x, rfl⟩
  | error x => nomatch h

/-- A parameter block of a collective program at 0x1000 and a program at 0x207c that ends at once. -/
def colState (chunk : Nat) : State :=
  { withS [(6, 0x1000)] with mem := Memory.write (Memory.write [] 0x1000 (words [0x200000001, chunk, 0x11, 0x207c])) 0x207c (toBytes 4 0xff41 ++ toBytes 4 0x1c000000) }

/-- The collective engine runs a program. -/
def colRunning (pieces : List (BitVec 16 × Nat)) (waiting : Option Word) : State :=
  { podState with
    party := .col, cmds := [{ cmd 4 (.collective 0 1 16 [0x1c000000] [(0, 0x1000), (1, 0x2000)]) .running with pieces := pieces }], col := some ⟨7, 0, 0, waiting, []⟩ }

end Sys2Proof.Demo

theorem witness_collective_program :
    EngReady (colState 16) (colState 16).wave.engCompact [5, 6, 7] ∧
      (∃ blk t, (colState 16).issueRead (colState 16).wave.engCompact 5 0x1000 32 8 = .ok (blk, t) ∧ numAt blk 8 8 = 16 ∧ numAt blk 0 4 = 1 ∧
        numAt blk 4 4 = 2 ∧ numAt blk 24 8 = 0x207c ∧
        ∃ ws fin u, State.readProg (colState 16).wave.engCompact 5 1024 0x207c 0 [] t = .ok (some (ws, fin), u) ∧
          u.checkAll u.myGang.asid (⟨.engRead, 0x207c, fin - 0x207c, 4⟩ :: ⟨.engRead, 0, 0, 8⟩ :: (colNames ws).map fun k => ⟨.engRead, 8 * k, 8, 8⟩) = .ok ∧
          ∃ p v, State.readParams (colState 16).wave.engCompact 5 0 (colNames ws) [] u = .ok (p, v) ∧ v.wave = (colState 16).wave ∧ v.cmds = [] ∧
          v.ops = [] ∧ v.gangs = (colState 16).gangs ∧ v.checkAll 0 (⟨.engRead, 0x207c, fin - 0x207c, 4⟩ :: ⟨.engRead, 0, 0, 8⟩ ::
            (colNames ws).map (fun k => ⟨.engRead, 8 * k, 8, 8⟩) ++ colRanges ⟨1, 2, 16, 1, 1, 0x207c⟩ p ws) = .ok ∧
          (colRanges ⟨1, 2, 16, 1, 1, 0x207c⟩ p ws).any (v.localDest 0) = false ∧ v.trackerRoom v.wave.core = true) ∧
      ∃ blk t, (colState 15).issueRead (colState 15).wave.engCompact 5 0x1000 32 8 = .ok (blk, t) ∧ numAt blk 8 8 = 15 := by
  refine ⟨ready rfl, ⟨_, _, rfl, by decide, by decide, by decide, by decide, ?_⟩, _, _, rfl, by decide⟩
  refine ⟨[0x1c000000], _, _, rfl, passes (by decide), ?_⟩
  refine ⟨[], _, rfl, by decide, by decide, by decide, by decide, passes (by decide), by decide, by decide⟩

theorem witness_collective_instructions :
    let s := colRunning [] none
    let x : ColCtx := s.colCtx.getD ⟨⟨0, 0, 0, none, []⟩, cmd 4 .fabLoad .running, 0, 0, 0, []⟩
    let e0 : Eng := { s := s, self := some x.cmd.id, via := some (tlbCol, 2), fired := x.run.fired }
    s.party = .col ∧ s.colCtx = some x ∧ s.outcomePending = false ∧ s.spillCheck ((s.sendRunsOf x.cmd.asid 0x2000 x.chunk).map (·.dev)) = none ∧
      (Eng.read e0 x.cmd.gang ⟨false, 0x1000⟩ x.chunk).2.bad = [] ∧
      ((List.range (x.chunk / 4)).foldl (fun (e : Eng) k => e.redWord x.cmd.gang (0x2000 + 4 * k) (0x1000 + 4 * k)) e0).bad = [] ∧
      x.cmd.pieces = [] ∧ x.cmd.erred = false ∧ x.run.waiting = none ∧ s.inPod = true ∧ s.checkAllAs tlbCol 2 x.cmd.asid [⟨.engBoth, 0x1000, 8, 8⟩] = .ok ∧
      (∃ p n, s.transAs tlbCol 2 x.cmd.asid 0x1000 = .ok p n ∧ pteExpz p = false) ∧
      s.checkAllAs tlbCol 2 x.cmd.asid [⟨.engRead, 0x1000, x.chunk, 1⟩, ⟨.engWrite, 0x2000, x.chunk, 1⟩] = .ok ∧
      s.bad = [] ∧ s.watch = [] ∧ s.cmds = [x.cmd] ∧ ({ s with launches := [] }).launches = [] ∧ (s.gang x.cmd.gang).asid = x.cmd.asid ∧ Memory.wf s.mem = true :=
  ⟨rfl, rfl, by decide, by decide, by decide, by decide, rfl, by decide, rfl, by decide, passes (by decide), ⟨_, _, rfl, by decide⟩, passes (by decide), rfl, rfl, rfl, rfl,
    rfl, rfl⟩

theorem witness_collective_ends :
    (let s := colRunning [] (some 0)
      ∀ o ∈ [StepOut.commit, .abort], ({ s with step := { s.step with outcomes := [(0, o, false)] } }).step.outcomes.find? (fun o => o.1 == 0) = some (0, o, false)) ∧
    ({ colRunning [] (some 0) with pod := none }).inPod = false ∧
    (let s := colRunning [] none; let c : Cmd := { cmd 4 (.collective 0 1 16 [0x1c000000] []) .running with bad := [Code.poison] };
      ({ s with cmds := [c] }).colCtx.isSome = true ∧ c.erred = true ∧ OnlyCommand { s with cmds := [c] } (some c.id) ∧ ∀ y ∈ s.launches, y.2.status ≠ .waiting) := by
  refine ⟨fun o _ => rfl, by decide, by unfold OnlyCommand; decide⟩

namespace Sys2Proof.Demo

/-- `base` with commands. -/
def withCmds (l : List Cmd) : State := { base with cmds := l }

/-- A clause header and the `n` words after it are fetched. -/
def fetches (s : State) (va n : Nat) : Bool := match s.fetchWord 0 0 va with
  | .ok _ t => (match t.fetchWords 0 0 (va + 4) n with
    | .ok _ => true
    | _ => false)
  | _ => false

theorem fetched {s : State} {va n : Nat} (h : fetches s va n = true) :
    ∃ x t, s.fetchWord 0 0 va = .ok x t ∧ ∃ ws u, t.fetchWords 0 0 (va + 4) n = .ok (ws, u) := by
  unfold fetches at h
  split at h
  · rename_i x t e
    split at h
    · rename_i p e'
      exact ⟨x, t, e, p.1, p.2, e'⟩
    · nomatch h
  · nomatch h

/-- `base` in step with a queue of gang 0. -/
def waitingGang (st : GStatus) : State :=
  { withGang fun g => { g with status := st } with waves := [], seqs := [], queue := [(3, ⟨.gang 0, [0], 4, 0, none, false⟩)] }

end Sys2Proof.Demo

theorem witness_engines_run :
    (∀ o ∈ [CmdOp.sort 0 4096 8192 0, .sort 0 4096 8192 2], (cmd 1 o .queued).op = o) ∧
    (let s := withCmds [cmd 1 (.sort 0 4096 8192 2) .running]; s.running 1 0 ≠ 0) ∧
    (let s := withCmds [cmd 1 (.sort 0 4096 8192 2) .queued];
      s.running 1 0 = 0 ∧ (s.cmds.find? fun c => c.eng == 1 && c.unit == 0 && c.status == .queued) = some (cmd 1 (.sort 0 4096 8192 2) .queued)) ∧
    4 ≤ (withCmds (List.replicate 4 (cmd 2 (.gather 0 0 0 1 4 1 false) .running))).running 2 0 ∧
    (let s := withCmds (List.replicate 3 (cmd 2 (.gather 0 0 0 1 4 1 false) .running) ++ [cmd 2 (.gather 0 0 0 1 4 1 false) .queued]);
      s.running 2 0 < 4 ∧ ∃ c, (s.cmds.find? fun c => c.eng == 2 && c.unit == 0 && c.status == .queued) = some c) ∧
    (let s := withCmds [cmd 3 (.copy 0 4096 8 1 8 8 0) .queued];
      (s.cmds.filter fun c => c.eng == 3 && c.unit == 0 && c.status == .running && c.dreg.isSome).length < 8 ∧
        ∃ c, (s.cmds.find? fun c => c.eng == 3 && c.unit == 0 && c.status == .queued && c.dreg.isSome && s.copyCan c) = some c) ∧
    (let s := withCmds [cmd 4 (.collective 0 1 16 [] []) .queued];
      s.col = none ∧ ∃ c, (s.cmds.find? fun c => c.eng == 4 && c.status == .queued) = some c) ∧
    (let s := withCmds [cmd 4 (.collective 0 1 16 [] []) .done];
      s.cmdAt 7 = some (cmd 4 (.collective 0 1 16 [] []) .done) ∧ (s.waves.find 1).isSome = true ∧ (s.gang 0).status = .resident ∧ (s.waveAt 1).status = .live) ∧
    (let c := { cmd 3 (.drain 16 2) .running with data := [1, 2, 3, 4] };
      (withCmds [c]).cmdAt 7 = some c ∧ c.data.length % 4 = 0 ∧ ((withCmds [c]).gang 0).vaultSize ≠ 0) := by
  refine ⟨by decide, by decide, by decide, by decide, ⟨by decide, _, rfl⟩, ⟨by decide, _, rfl⟩, ⟨rfl, _, rfl⟩, by decide, by decide⟩

/-- `base` with a command that runs, and translations held for its engine. -/
def Sys2Proof.Demo.ending (c : Cmd) : State :=
  { withCmds [c] with tlb := [⟨c.tlb, 0, 0, 4096, 0x1f⟩] }

theorem witness_sort_passes :
    let c (d p : Nat) : Cmd := { cmd 1 (.sort 0 4096 8192 2) .running with data := (List.range d).flatMap fun i => toBytes 8 (257 * i) ++ toBytes 8 i, pos := d, passes := p }
    (∀ d ∈ [(0 : Nat), 1, 2], (c d 0).op = .sort 0 4096 8192 2 ∧ (c d 0).sorted = false) ∧ (c 1 0).pos < 2 ∧ (c 2 0).pos = 2 ∧ (c 2 8).sorted = true ∧
      (let s := ending (c 2 8); s.cmds.find? (fun c => c.eng == 1 && c.unit == 0 && c.status == .running) = some (c 2 8) ∧ s.cmdMisses (c 2 8) = []) ∧
      (let s := ending (c 1 0); s.cmds.find? (fun c => c.eng == 1 && c.unit == 0 && c.status == .running) = some (c 1 0) ∧ s.cmdMisses (c 1 0) = []) := by decide

theorem witness_engines_compute :
    QuietMemory base ∧ (let e : Eng := { s := base, via := some (tlbCopy 0, 9) }; QuietMemory e.s ∧ Memory.wf e.s.mem = true) ∧
    OnlyCommand base none ∧ (let e : Eng := { s := base, via := some (tlbMtx 0, 9) }; e.trans 0 0x1000 = some (0x1f, 4096)) ∧
    (∀ r ∈ [[((2 ^ 40 : Nat), (5 : Nat)), (2 ^ 40, 7)], [(0, 9)]], List.Pairwise PairLe r) ∧ ([((2 ^ 40 : Nat), (5 : Nat)), (2 ^ 41, 7)].length ≤ 2 ^ 28) := by
  refine ⟨⟨rfl, rfl, rfl, rfl, rfl⟩, ⟨⟨rfl, rfl, rfl, rfl, rfl⟩, by decide⟩, by unfold OnlyCommand; decide, by decide, ?_, by decide⟩
  unfold PairLe
  decide

theorem Sys2Proof.Demo.one_page {s : State} {c : Cmd} (h : s.tlb = [⟨c.tlb, c.asid, 0, 4096, 0x1f⟩]) {a n : Nat} (ha : a + n ≤ 2 ^ 30) :
    InPage s c 0x1f 4096 0 a n := by
  intro x h1 h2
  have hx : x < 2 ^ 30 := by omega
  refine ⟨?_, by omega⟩
  have hit : (TlbEntry.hits ⟨c.tlb, c.asid, 0, 4096, 0x1f⟩ c.asid x) = true := by
    simp only [TlbEntry.hits]
    have : x / 2 ^ 18 < 4096 := by omega
    simp_all
  simp only [State.transAs, State.tlbFind, h, List.filter, beq_self_eq_true, hit, Bool.and_self, pickOf, Option.map]
  exact if_neg (by omega)

theorem witness_commands_end :
    (∀ c ∈ [{ cmd 1 (.merge 4096 [(0, 1)]) .running with data := List.replicate 16 3 }, { cmd 1 (.table 0 4096 1 1) .running with data := List.replicate 8 3 },
        { cmd 2 (.gather 0 64 4096 1 4 1 false) .running with data := [1, 2, 3, 4] }, { cmd 3 (.copy 0 4096 8 2 8 16 0) .running with data := List.replicate 16 3 },
        { cmd 5 (.bulkRead 4096 false) .running with data := [1, 2, 3, 4] }, { cmd 1 (.sort 0 4096 8192 2) .running with data := List.replicate 32 0, pos := 2, passes := 8 },
        { cmd 3 (.drain 16 2) .running with data := [1, 2, 3, 4] }, cmd 5 .fabLoad .running, cmd 5 (.fabStore 0) .running, cmd 5 (.bulkWrite []) .running],
      AtItsEnd (ending c) c 3 ∧ QuietMemory (ending c) ∧ OnlyCommand (ending c) (some c.id) ∧ Memory.wf (ending c).mem = true ∧ (ending c).cmdMisses c = []) ∧
    (let c := { cmd 3 (.copy 0 4096 8 2 8 16 0) .running with data := List.replicate 16 3 };
      endWrites c ≠ [] ∧ (endWrites c).Pairwise (fun v w => v.1 + v.2.length ≤ w.1 ∨ w.1 + w.2.length ≤ v.1) ∧
        ∀ w ∈ endWrites c, InPage (ending c) c 0x1f 4096 0 w.1 w.2.length ∧ w.1 + w.2.length ≤ 2 ^ 56) ∧
    (let c := { cmd 1 (.sort 0 4096 8192 2) .running with data := List.replicate 32 0, pos := 2, passes := 8 };
      c.sorted = true ∧ InPage (ending c) c 0x1f 4096 0 4096 32 ∧ InPage (ending c) c 0x1f 4096 0 8192 8224) ∧
    (let c := { cmd 4 (.collective 0 1 16 [] []) .done with denied := true }; (withCmds [c]).sent = [] ∧ (withCmds [c]).cmdAt 7 = some c) := by
  refine ⟨by unfold AtItsEnd QuietMemory OnlyCommand; decide, ⟨by decide, by decide, fun w h => ?_⟩, ⟨by decide, one_page rfl (by decide), one_page rfl (by decide)⟩, rfl, by decide⟩
  have : w.1 + w.2.length ≤ 2 ^ 30 := by revert w; decide
  exact ⟨one_page rfl this, by omega⟩

/-- A record of a kind, at the origin, with a conic or radius of 1. -/
def Sys2Proof.Demo.recordOf (k : Lane) : List Lane := [0, 0, 0x3f800000, 0, 0x3f800000, 0, 0, 0, 0, 0, 0, 0, 0, 0, 0x3f000000, k]

/-- The distance from it along an axis. -/
def Sys2Proof.Demo.away (p : Lane) : FVal := (f32 p).add 0 (f32 (nth 0 (recordOf 0) 0)).neg

theorem witness_alpha_at_centre :
    (((f32 (nth 0 (recordOf 0) 2)).mul ((away 0).mul (away 0))).add 0 (((f32 (nth 0 (recordOf 0) 3)).mul ((away 0).mul (away 0))).mul (.num false 1 1))).add 0
      ((f32 (nth 0 (recordOf 0) 4)).mul ((away 0).mul (away 0))) = .num false 0 (-446) := by decide +kernel

theorem witness_alpha_kinds : (∀ k, nth 0 (recordOf k) 15 = k) ∧ nth 0 (recordOf 0) 14 = 0x3f000000 := ⟨fun _ => rfl, rfl⟩

theorem witness_alpha_opacity : f32 0x3f000000 ≠ .nan := by decide +kernel

theorem witness_alpha_in_point :
    (((away 0).mul (away 0)).add 0 ((away 0).mul (away 0))).cmp (f32 (nth 0 (recordOf 1) 2)) = some .lt := by decide +kernel

theorem witness_alpha_outside_point :
    (((away 0x40000000).mul (away 0x40000000)).add 0 ((away 0).mul (away 0))).cmp (f32 (nth 0 (recordOf 1) 2)) = some .gt := by decide +kernel

theorem witness_skips :
    Skipped 0 ∧ Skipped 0x7fc00000 ∧ ¬ Skipped 0x3f000000 ∧ alphaCapped 0x3f800000 = 0x3f7d70a4 ∧ (f32 0x3f800000).cmp (f32 0x3f7d70a4) = some .gt ∧
      base.wave.takes 0 5 = true ∧ (of fun w => { w with vp := w.vp.set 1 0 }).wave.takes 1 5 = false ∧ (∀ n, (base.wave.vreg n).length = 32) ∧ 16 % 16 = 0 := by
  unfold Skipped
  refine ⟨by decide, by decide, by decide, by decide, by decide, by decide, by decide, fun _ => rfl, rfl⟩

theorem witness_clause_fetch :
    (∃ p n, base.trans 0 0x1000 = .ok p n ∧ pteRmt p = false ∧ pteX p = true ∧ Plain base ∧ base.ro = [] ∧ ptePa p n 0x1000 % 4 = 0) ∧
    (∀ h ∈ [(0xff00 : Nat), 0xff31, 0xff61, 0xff01, 0xff51, 0xff0f],
      let s : State := { of fun w => { w with phase := .fetch } with mem := Memory.write [] 0 (toBytes 4 h) }
      s.party = .wave ∧ s.wave.status = .live ∧ s.wave.phase = .fetch ∧ s.wave.resume = .no ∧ gives (s.fetchWord 0 0 0) = true) ∧
    (∃ x t, (of fun w => { w with phase := .fetch, pc := 0x7c }).fetchWord 0 0 0x7c = .ok x t ∧ ∃ ws u, t.fetchWords 0 0 0x80 1 = .ok (ws, u)) ∧
    (let s : State := { ofSeq fun q => { q with phase := .fetch } with party := .seq, mem := Memory.write [] 0 (toBytes 4 0xff31) };
      s.party = .seq ∧ s.sq.status = .run ∧ s.sq.phase = .fetch ∧ gives (s.fetchWord s.sq.core s.sq.asid s.sq.mpc.toNat) = true) := by
  refine ⟨⟨_, _, rfl, by decide, by decide, ⟨rfl, rfl, rfl, rfl, rfl⟩, rfl, by decide⟩, by decide, fetched (by decide), by decide⟩

theorem witness_clause_events :
    (let s := of fun w => { w with phase := .wait }; s.party = .wave ∧ s.wave.phase = .wait ∧ WaitsMet s 1 s.wave.hdr ∧ s.wave.idx < countOf s.wave.hdr) ∧
    (let s := of fun w => { w with phase := .wait, idx := 1 }; WaitsMet s 1 s.wave.hdr ∧ countOf s.wave.hdr ≤ s.wave.idx) ∧
    ¬ WaitsMet (inFlight { memop [accAt (.read 0 4)] with counted := .vm }) 1 0xf001 ∧
    (let s := of fun w => { w with budget := 5, icount := 5 }; AtInstr s ∧ s.wave.budget ≠ 0 ∧ s.wave.budget.toNat ≤ s.wave.icount.toNat ∧ s.unfinished 1 = false) ∧
    (let s := of fun w => { w with budget := 6, icount := 5 }; s.wave.icount.toNat < s.wave.budget.toNat) ∧
    (let s : State := { of fun w => { w with stall := 1, blockedAt := some 0 } with clk := [4096, 0, 0, 0] }; AtInstr s ∧ 0 + 4096 * s.wave.stall.toNat ≤ s.clock 0) ∧
    (let s := of fun w => { w with stall := 1, blockedAt := some 0 }; s.clock 0 < 0 + 4096 * s.wave.stall.toNat) ∧
    (let s := of fun w => { w with pend := [⟨0x40, 0, 0⟩] }; (s.waveAt 1).pend = [⟨0x40, 0, 0⟩] ∧ (s.waveAt 1).phase ≠ .fetch ∧ s.unfinished 1 = false) ∧
    (of fun w => { w with pend := [⟨0x40, 0, 0⟩], inHandler := true }).wave.inHandler = true := by
  have met {s : State} {k : Nat} {h : BitVec 32} (a : h.toNat / 256 % 256 = 255 ∧ h.getLsbD 16 = false ∧ h.getLsbD 17 = false) : WaitsMet s k h :=
    ⟨.inl (by omega), .inl (by omega), fun x => absurd x (by rw [a.2.1]; decide), fun x => absurd x (by rw [a.2.2]; decide)⟩
  refine ⟨⟨rfl, rfl, met (by decide), by decide⟩, ⟨met (by decide), by decide⟩, fun h => ?_, ⟨at_ rfl, by decide⟩, by decide, ⟨at_ rfl, by decide⟩, by decide, by decide, rfl⟩
  have a := h.1
  revert a; decide

theorem witness_memory_events :
    (let s : State := { base with flushQ := [⟨3, [(31, 0x3f800000)], [], [], 0, none⟩] }; s.bad = [] ∧ s.watch = [] ∧ Memory.wf s.mem = true) ∧
    (∀ l ∈ [(0 : Nat), 1, 2, 3, 4, 5],
      -- an address space whose walk ends at level `l`: the tables of its levels lie at 0x10000, 0x20000, 0x30000 and 0x30200
      let mem := Memory.write (Memory.write (Memory.write (Memory.write (Memory.write [] 0 (toBytes 8 (0x10000 + if 0 < l then 1 else 0)))
        0x10000 (toBytes 8 (0x20000 + if 1 < l then 1 else 0))) 0x20000 (toBytes 8 (if l = 2 then 0x1f else 0x30001)))
        0x30000 (toBytes 8 (if l = 3 then 0x1f else 0x30201))) 0x30200 (toBytes 8 0x1f)
      let s : State := { base with mem := mem, missQ := [⟨0, 0, 0, [(1, 0)]⟩] }
      s.nextMiss = some ⟨0, 0, 0, [(1, 0)]⟩ ∧ s.hole 0 0 = none ∧ (s.walk 0 0).toOption.isSome = decide (2 ≤ l)) ∧
    (let s : State := { base with missQ := [⟨0, 0, 0, [(1, 0)]⟩], hr := { base.hr with asidtab := 0x7000000000000 } }; ∃ a, s.hole 0 0 = some a) ∧
    base.nextMiss = none ∧ Serving base ∧ base.invRun = none ∧
    (let s : State := { base with invRun := some ⟨0x20000, 0x40000, 8⟩, hr := { base.hr with invgo := true } };
      s.invRun = some ⟨0x20000, 0x40000, 8⟩ ∧ (0x20000 : Word).getLsbD 16 = false ∧ (0x20000 : Word).getLsbD 17 = true) ∧
    base.ops = [] ∧ base.flushQ = [] ∧ base.applyQ = [] ∧ base.thold = false := by
  refine ⟨by decide, by decide, ⟨_, rfl⟩, rfl, ⟨rfl, by decide⟩, by decide⟩

theorem witness_gang_events :
    base.queue = [] ∧ (waitingGang .ready).thold = false ∧ (waitingGang .ready).power = .l0 ∧ ({ base with power := .l3 }).power = .l3 ∧ (waitingGang .ready).podHeld 0 = false ∧
    (∀ st ∈ [GStatus.ready, .saved], ((waitingGang st).spot 0 0).isSome = true ∧ ((waitingGang st).gang 0).status = st) ∧
    (let s : State := { waitingGang .ready with clk := [0x100000, 0, 0, 0] };
      s.queue.find 3 = some ⟨.gang 0, [0], 4, 0, none, false⟩ ∧ 0 + max 1 s.hr.age.toNat ≤ s.clock 0 ∧ s.headOf 0 4 = some 3) ∧
    (let e : QEntry := ⟨.gang 0, [0], 4, 0, some 0, true⟩; let s : State := { waitingGang .ready with queue := [(3, e)] }; s.queue.find 3 = some e ∧ e.blocking = true) ∧
    (waitingGang .ready).clock 0 < 0 + max 1 (waitingGang .ready).hr.age.toNat ∧
    (let s := withGang fun g => { g with status := .saving, saveAt := some 0 };
      (s.gang 0).status = .saving ∧ 0 ≤ s.clock 0 ∧ s.midInstr 1 = false ∧ s.unfinished 1 = false ∧ s.canRetire 0 = false ∧ 0 ∈ s.unitOf 0 ∧
        ({ s with seqs := [] }).seqsOpen 0 = [] ∧ (∃ w ∈ s.waves, w.2.gang = 0 ∧ w.2.status = .live)) ∧
    (let s : State := { withGang fun g => { g with status := .saving } with waves := [(1, { wave with status := .saved })], seqs := [], saved := [⟨0, 0, 1, 0, false⟩] };
      s.canRetire 0 = false ∧ s.waves.any (fun w => w.2.gang == 0 && w.2.status == .live) = false ∧ s.cmds.any (fun c => c.gang == 0 && s.copying c) = false ∧
        s.seqsOpen 0 = [] ∧ s.quiet 0 = true ∧ s.unitOf 0 = [0] ∧ s.saved.find? (fun x => x.gang == 0) = some ⟨0, 0, 1, 0, false⟩) ∧
    (let s : State := { base with waves := [(1, { wave with status := .tailed })], seqs := [] }; s.canRetire 0 = true ∧ (s.gang 0).batch = none) := by
  refine ⟨rfl, rfl, rfl, rfl, by decide, by decide, by decide, by decide, by decide, by decide, by decide, by decide⟩

namespace Sys2Proof.Demo

/-- A chain with one entry of 64 bytes at 0x4000, whose completions are written at 0x5000. -/
def chainState (kind : Nat) : State :=
  { base with
    launches := [], mem := Memory.write (Memory.write [] 0x4000 (words [kind, 9, 0x6000, 5])) 0x6000 (words [0x1000000000, 0x100000000, 0x100000001])
    chains := [(63, ⟨0x4000, 1, 0, 1, 0, 0x5000, 0, true, none, []⟩)] }

/-- An entry is read. -/
def isEntry : State × ChainEntry → Bool
  | (_, .entry _) => true
  | _ => false

theorem read_entry {x : State × ChainEntry} (h : isEntry x = true) : ∃ t b, x = (t, .entry b) := by
  obtain ⟨t, e⟩ := x
  cases e with
  | entry b => exact ⟨t, b, rfl⟩
  | _ => nomatch h

/-- A piece of one byte to device 0. -/
def piece (no : Nat) : Piece := ⟨1, 0, 0, no, 0x3000000000, [(0x3000000000, 9)], none, 4⟩

/-- `base` with the launch changed. -/
def withLaunch (f : Launch → Launch) : State := base.modLaunch 0 f

/-- An item on trial for a body wave. -/
def forming (asked : Bool) : State :=
  { withLaunch fun x => { x with kernel := { x.kernel with mode := 1 }, item := [(4, ⟨1, [], [2], 0, false⟩)] } with
    formers := [⟨0, 0, 0, 4, 9, [(4, false)], [], [6], asked⟩] }

/-- A request of item 5 for a pitch. -/
def asking : State := { base with pitchReqs := [⟨8, 0, 2, 5, 9, false, none⟩] }

/-- The gang of `base` with a copy schedule of one entry at 0, whose opcode is given, and a copy block at 0x100. -/
def scheduled (op : Nat) (room : Bool) : State :=
  { withGang fun g => { g with releases := [(1, 1, 0, 0)], stage := 1 } with
    launches := (withLaunch fun x => { x with cbtab := 0x100, ncb := 1 }).launches
    mem := Memory.write (Memory.write [] 0 (toBytes 4 (2 ^ 24 * op))) 0x100 (words [0x1000, 0x2000, 0x100000010, 0x1000000010])
    tlb := base.tlb ++ [⟨tlbCopy 0, 0, 0, 4096, 0x1f⟩]
    cmds := if room then [] else List.replicate 256 (cmdOf .claimDone) }

theorem pod_ok (b : List Byte) (ids : List (BitVec 16)) (n : Nat) (dev : BitVec 16) :
    (readPod b ids).ok n dev = ((readPod b [dev]).ok n dev && ids.contains dev) := by
  have h : [dev].contains dev = true := by simp
  show (_ && _ && _ && ids.contains dev) = ((_ && _ && _ && [dev].contains dev) && ids.contains dev)
  rw [h, Bool.and_true]
  rfl

end Sys2Proof.Demo

theorem witness_launch_events :
    (let s : State := { withLaunch fun x => x with waves := [], seqs := [], gangs := [(0, { Gang.blank with launch := 0 })] };
      (s.launch 0).status = .ready ∧ s.gangsOver 0 = true ∧ s.launchQuiet 0 = true ∧ s.sumLines 0 = [] ∧ s.traceQ = [] ∧ (s.launch 0).tainted = false ∧
        (s.launch 0).trace = 0 ∧ Plain s) ∧ base.gangsOver 0 = false ∧
    (∀ n ∈ [(1 : Nat), 2],
      let s : State := { base with nodes := [(0, ⟨16, n, 0, 1, 0, 0, 0⟩)], bins := [(0, ⟨[[]], none, []⟩)] }
      s.nodes.find 0 = some ⟨16, n, 0, 1, 0, 0, 0⟩ ∧ (n ≤ (s.bin 0 0).recs.length ↔ n = 1) ∧ (s.bin 0 0).slots = []) ∧
    (let s : State := { base with nodes := [(0, ⟨16, 1, 0, 1, 0, 0, 0⟩)], bins := [(0, ⟨[[]], none, [0]⟩)] }; ∀ k, k < 1 → k ∈ (s.bin 0 0).slots) ∧
    (let s : State := { withLaunch fun x => { x with kernel := { x.kernel with mode := 1 } } with waves := [(1, { wave with status := .ended })] };
      (s.launch 0).kernel.mode = 1 ∧ (s.launch 0).status = .ready ∧ (s.launch 0).tainted = false ∧ (s.launch 0).bodyPhase = false ∧ (∃ g ∈ s.gangs, g.2.launch = 0) ∧
        (∀ g ∈ s.gangs, g.2.launch = 0 → g.2.status ≠ .ready ∧ g.2.status ≠ .saved) ∧ ∀ w ∈ s.waves, w.2.status ≠ .live ∧ w.2.status ≠ .saved) ∧
    (∀ a ∈ [true, false], (forming a).thold = false ∧ (forming a).power = .l0 ∧ ((forming a).launch 0).tainted = false ∧ ((forming a).launch 0).item.find 4 = some ⟨1, [], [2], 0, false⟩) ∧
    (let s : State := { forming true with pitchReqs := [⟨8, 0, 2, 4, 9, false, some true⟩] };
      s.pitchReqs ≠ [] ∧ ∀ r ∈ s.pitchReqs, r.loop = 0 ∧ r.item = 4 ∧ r.body = 9 ∧ r.answer = some true) ∧
    asking.pitch = [] ∧ asking.pitchRels = [] ∧ (∀ j ∈ [(4 : Nat), 5, 6], ({ asking with pitch := [⟨0, 2, .reserved j, none⟩] }).pitch = [⟨0, 2, .reserved j, none⟩]) ∧
    (∀ d ∈ [none, some (6 : Nat)], ({ base with pitchRels := [(0, 2, 9, 5)], pitch := [⟨0, 2, .held 9, d⟩] }).pitch = [⟨0, 2, .held 9, d⟩]) := by
  refine ⟨⟨by decide, by decide, by decide, by decide, rfl, rfl, rfl, rfl, rfl, rfl, rfl, rfl⟩, by decide, by decide, by decide, by decide, by decide, by decide, rfl, rfl, by decide, by decide⟩

theorem witness_denied_candidate :
    let s : State := { forming true with pitchReqs := [⟨8, 0, 2, 4, 9, false, some false⟩, ⟨9, 0, 3, 4, 9, false, some true⟩] }
    (∀ r ∈ s.pitchReqs, r.loop = 0 ∧ r.item = 4 ∧ r.body = 9 ∧ r.answer ≠ none) ∧ (∃ r ∈ s.pitchReqs, r.answer = some false) ∧
      (let t : State := { forming false with formers := [⟨0, 0, 0, 4, 9, [], [], [4], false⟩] }; t.formers = [⟨0, 0, 0, 4, 9, [], [], [4], false⟩] ∧
        4 ∈ (⟨0, 0, 0, 4, 9, [], [], [4], false⟩ : Former).denied) := by decide

theorem witness_schedule :
    (∀ op ∈ [(0x90 : Nat), 0x91, 0x92], ∀ r ∈ [true, false], let s := scheduled op r;
      (s.gang 0).status = .resident ∧ ((s.gang 0).releases.find? fun r => decide ((s.gang 0).nextEntry < r.1)) = some (1, 1, 0, 0) ∧
      (s.gang 0).nextEntry < (s.gang 0).stage ∧ (s.launch 0).ncb = 1 ∧ (s.trackerRoom (s.waveAt 1).core = r) ∧
      numAt (Eng.read { s := s, via := some (tlbCopy 0, cmdWaiter 0) } 0 ⟨false, 0⟩ 8).1 0 4 = 2 ^ 24 * op) ∧
    (scheduled 0x90 true).checkAllAs (tlbCopy 0) (cmdWaiter 0) 0 [⟨.blockRead, 0, 8, 1⟩] = .ok ∧
    (scheduled 0x90 true).checkAllAs (tlbCopy 0) (cmdWaiter 0) 0 [⟨.blockRead, 0x100, 32, 8⟩] = .ok ∧
    (let b := readCopy (Eng.read { s := scheduled 0x90 true, via := some (tlbCopy 0, cmdWaiter 0) } 0 ⟨false, 0x100⟩ 32).1;
      copyStatus false b (entryCtl 0x90000000 0) (scheduled 0x90 true).myLaunch.kernel.wg = 0 ∧
        (scheduled 0x90 true).checkAllAs (tlbCopy 0) (cmdWaiter 0) 0 (copyRanges false b (entryCtl 0x90000000 0)) = .ok) ∧
      Plain (scheduled 0x90 true) :=
  ⟨by decide, passes (by decide), passes (by decide), ⟨by decide, passes (by decide)⟩, rfl, rfl, rfl, rfl, rfl⟩

theorem witness_chain_registers :
    Serving base ∧ (base.chain 63).status = 0 ∧ (base.chain 63).entries < (1 - (base.chain 63).head).toNat ∧ (0 - (base.chain 63).head).toNat ≤ (base.chain 63).entries ∧
      (base.chain 0).enable = false ∧ base.hr.lpgo = 0 ∧ hasMemory base.hr.lprec.toNat = true ∧ hasMemory (base.hr.lprec.toNat + 159) = true ∧ Plain base ∧
      base.reaches 0 = true ∧ base.reaches 1 = false ∧ base.hr.sched.getLsbD 16 = false ∧
      (let s : State := { base with hr := { base.hr with sched := 0x10001 } }; s.hr.sched.getLsbD 16 = true ∧ s.hr.sched.setWidth 16 = (1 : BitVec 16) ∧ s.readyRoom = true) ∧
      base.hr.rptsize.toNat ≤ (base.hr.rpttail - base.hr.rpthead).toNat ∧
      (let s : State := { base with hr := { base.hr with rptsize := 1 } };
        (s.hr.rpttail - s.hr.rpthead).toNat < s.hr.rptsize.toNat ∧ hasMemory (s.hr.rptbase.toNat + 32 * (s.hr.rpttail.toNat % s.hr.rptsize.toNat)) = true ∧
          s.hr.expztop = 0 ∧ 65 ∈ s.msixMask) := by
  refine ⟨⟨rfl, by decide⟩, by decide, by decide, by decide, by decide, rfl, by decide, by decide, ⟨rfl, rfl, rfl, rfl, rfl⟩, by decide, by decide, by decide, by decide, by decide, by decide⟩

theorem witness_chain_entries :
    (∀ k ∈ [(0 : Nat), 1, 2, 3], isEntry ((chainState k).nextEntry 63) = true) ∧ ((chainState 0).chain 63).open_ = [] ∧
      (∃ t, (chainState 4).nextEntry 63 = (t, .stop 1)) ∧
      (∃ t b, (chainState 1).nextEntry 63 = (t, .entry b) ∧ numAt b 0 4 = 1 ∧ t.readyRoom = true ∧
        ∃ l v, (t.takeEntry 63 b).2.submit (t.chain 63).asid (wordAt b 16) (some (wordAt b 32)) { chain := some (63, t.nextId) } = .taken l v) ∧
      (∃ t b, (chainState 2).nextEntry 63 = (t, .entry b) ∧ numAt b 0 4 = 2 ∧ t.counterOk (t.chain 63).asid (wordAt b 16) = true ∧
        (∃ p n, t.transNow (t.chain 63).asid (wordAt b 16).toNat = .ok (p, n) ∧ pteExpz p = false) ∧ Plain t ∧ NothingToSpoil t ∧
        ∀ y ∈ t.launches, y.2.status ≠ .waiting) ∧
      ∃ t b, (chainState 3).nextEntry 63 = (t, .entry b) ∧ numAt b 0 4 = 3 ∧ ∃ v d, t.devGet (t.chain 63).asid (wordAt b 16).toNat 64 = (v, some d) ∧ numAt d 0 4 = 0 := by
  refine ⟨by decide, rfl, ⟨_, rfl⟩, ⟨_, _, rfl, by decide, by decide, _, _, rfl⟩, ⟨_, _, rfl, by decide, by decide, ⟨_, _, rfl, by decide⟩, ⟨rfl, rfl, rfl, rfl, rfl⟩, ⟨by decide, by decide⟩, by decide⟩,
    ⟨_, _, rfl, by decide, _, _, rfl, by decide⟩⟩

theorem witness_next_entry :
    let x := (chainState 0).chain 63
    x.enable = true ∧ x.status = 0 ∧ x.head ≠ x.tail ∧ (x.tail - x.head).toNat ≤ x.entries ∧
      (let y := ({ chainState 0 with chains := [(63, { x with tail := 2 })] }).chain 63; y.entries < (y.tail - y.head).toNat) ∧
      (∃ t b, (chainState 0).devGet x.asid (x.base.toNat + 64 * (x.head.toNat % x.entries)) 64 = (t, some b) ∧ numAt b 0 4 = 0 ∧ t.devOk x.asid true x.cword.toNat 8 = true) ∧
      (∃ t, (chainState 0).devGet x.asid (2 ^ 57) 64 = (t, none)) ∧ (chainState 0).devOk x.asid true (2 ^ 57) 8 = false := by
  refine ⟨rfl, rfl, by decide, by decide, by decide, ⟨_, _, rfl, by decide, by decide⟩, ⟨_, rfl⟩, by decide⟩

theorem witness_fabric_events :
    (let s := podState;
      (piece 1).dst = s.devid ∧ s.isMember 1 = true ∧ s.isMember 2 = false ∧ s.step.outcomes = [] ∧ s.recvNo.get 0 1 = 0 ∧ s.step.written = false ∧ s.early = [] ∧ s.waitReads = [] ∧
        s.writeRule (piece 1) = none ∧ (∀ b ∈ (piece 1).bytes, s.forbidden b.1 = false)) ∧
    (let e : RptEntry := [0x8800003000000000, 0x3000000000, 0, 0]; let s : State := { podState with rpt := [(0, e)] };
      (nth 0 e 0).getLsbD 63 = true ∧ (nth 0 e 0).getLsbD 59 = true ∧ (nth 0 e 0).toNat / 2 ^ 60 % 8 = 0 ∧ (nth 0 e 0).toNat / 2 ^ 6 % 2 ^ 46 = 0x3000000000 / 64 ∧
        (nth 0 e 1).toNat / 2 ^ 6 % 2 ^ 46 = 0x3000000000 / 64 ∧ (nth 0 e 2).toNat / 2 ^ 16 % 2 ^ 16 = 0 ∧ s.writeRule (piece 1) = some 0) ∧
    (let r : Sent := ⟨piece 1, none, none, 0, 0, 1, 0, 0, false, false, 5, false, false, 0⟩; let s : State := { podState with sent := [r] };
      s.sent = [r] ∧ s.pod = some pod ∧ s.clock 0 < r.deadline ∧ 5 ≤ ({ s with clk := [5, 0, 0, 0] }).clock 0) ∧
    (let q : ReadReq := ⟨3, 1, 0, 0, 0x3000000000, 4, 0, false, 4, 0, []⟩; let s : State := { podState with rpt := [(0, [0x8c00003000000000, 0x3000000000, 0, 0])] };
      q.dst = s.devid ∧ s.canServe q = true ∧ s.canServe { q with step := 1 } = false ∧ (∀ a ∈ upto q.pa q.len, s.forbidden a = false) ∧
        (∃ e, s.rptFor q.src q.pa = some e ∧ rptR e = true)) ∧
    (let q : ReadReq := ⟨3, 0, 1, 0, 0x1000, 4, 0, false, 4, 0, []⟩; let o : MemOp := { memop [] with reads := [3] };
      ({ inFlight o with reads := [(q, [(0x1000, 0)])] }).ops = [o] ∧ o.reads = [q.id] ∧ ([(0x1000, 0)].map (·.2) : List Nat).Nodup) ∧
    (base.port true 95).state = .down ∧ ((base.putPort true 95 { base.port true 95 with state := .up }).port true 95).state ≠ .down ∧
    (let c := { cmd 5 (.linkDrain true 95) .running with unit := 0 };
      (withCmds [c]).cmdAt 7 = some c ∧ c.dreg = some 3 ∧ c.bad = [] ∧ ((withCmds [c]).waves.find 1).isSome = true ∧ ((withCmds [c]).gang 0).status = .resident) ∧
    (let c := { cmd 5 (.linkEnable true 95) .running with deadline := some 5 };
      (withCmds [c]).cmdAt 7 = some c ∧ (withCmds [c]).clock 0 < 5 ∧ 5 ≤ ({ withCmds [c] with clk := [5, 0, 0, 0] }).clock 0) ∧
    (let s : State := { podState with noRoute := [(1, 0)] };
      s.noRoute.find 1 = some 0 ∧ s.step.left = false ∧ s.clock 0 ≤ 0 + pod.stepto * s.mhz ∧
        0 + pod.stepto * s.mhz < ({ s with clk := [BitVec.ofNat 64 (pod.stepto * s.mhz + 1), 0, 0, 0] }).clock 0) := by
  refine ⟨by decide, by decide, by decide, ⟨by decide, by decide, by decide, by decide, _, rfl, by decide⟩, by decide, by decide, by decide, by decide, by decide, by decide⟩

theorem witness_fabric_more :
    (let s (o : StepOut) : State := { podState with step := { StepState.reset with outcomes := [(0, o, false)] } };
      (∀ o ∈ [StepOut.commit, .abort], ∃ e ∈ (s o).step.outcomes, e.1 = (piece 1).step ∧ e.2.1 = o) ∧ Plain (s .commit) ∧ Memory.wf (s .commit).mem = true ∧
        ({ s .commit with rpt := [(0, [0x8800003000000000, 0x3000000000, 0, 0])] }).writeRule (piece 1) = some 0) ∧
    (piece 3).seqNo > podState.recvNo.get 0 1 + 1 ∧ podState.pod = some pod ∧ podState.staged = [] ∧ (piece 1).seqNo ≤ pod.allow ∧ pod.allow < (piece 17).seqNo ∧
    (let s : State := { podState with step := { StepState.reset with applying := some 0, written := true } }; s.step.written = true ∧ s.step.applying = some (piece 1).step) ∧
    (let g : Staged := ⟨piece 1, 0, some 0⟩; g.piece.src = 1 ∧ g.piece.step = 0 ∧ g.rule = 0 ∧ g.piece.bytes = [(0x3000000000, 9)] ∧ g.piece.party = 4 ∧ 0 < g.piece.seqNo) ∧
    ((base.putPort true 95 { base.port true 95 with light := false }).port true 95).light = false ∧ (base.port true 95).light = true := by
  refine ⟨⟨?_, ⟨rfl, rfl, rfl, rfl, rfl⟩, by decide, by decide⟩, by decide, by decide, by decide, by decide, by decide, by decide, by decide, by decide, by decide⟩
  intro o h
  exact ⟨_, List.mem_singleton.2 rfl, rfl, rfl⟩

theorem witness_step_more :
    (let s : State := { podState with step := { StepState.reset with applying := some 0, written := true }, applyQ := [(0, 32, [])] };
      s.step.written = true ∧ s.applyQ ≠ [] ∧ s.step.applying = some 0) ∧
    (let s : State := { podState with step := { StepState.reset with applying := some 0 }, staged := [⟨piece 1, 0, some 0⟩] };
      (∀ d ∈ s.step.due, d.2 ≤ s.recvNo.get 0 (d.1 % 2 ^ 16 + 2 ^ 16 * (0 : Word).toNat)) ∧ s.step.written = false ∧ s.applyQ = [] ∧ Plain s ∧ Alone s ∧ Memory.wf s.mem = true ∧ s.sent = [] ∧ s.waitReads = []) ∧
    (let s : State := { podState with step := { StepState.reset with applying := some 0, due := [(1, 2)] }, recvNo := [(1, 1)] };
      (∃ d ∈ s.step.due, ¬ d.2 ≤ s.recvNo.get 0 (d.1 % 2 ^ 16 + 2 ^ 16 * (0 : Word).toNat)) ∧ s.step.applying = some 0 ∧ s.sent = [] ∧ s.waitReads = []) ∧
    (let s : State := { podState with launches := (withLaunch fun x => { x with stepPc := some (4, 0) }).launches };
      s.step.reported ≠ some 0 ∧ (s.launch 0).stepPc = some (4, 0) ∧ (s.launch 0).status = .ready ∧ 0 = s.step.stepno ∧ s.sent = [] ∧ s.waitReads = [] ∧ 5 ≠ s.step.stepno) ∧
    (let s : State := { podState with waves := [(1, { wave with waiting := some (.step 0 false none) })] };
      s.waves.find 1 = some { wave with waiting := some (.step 0 false none) } ∧ s.quiescent = true ∧ s.col = none ∧ s.pod ≠ none) ∧
    (let s : State := { base with bringUp := 3 }; s.bringUp < 4 ∧ ({ base with bringUp := 2 }).bringUp = 2 ∧ (0x10000 : Nat) / 2 ^ 16 ≠ 0 ∧ 0x10000 / 2 ^ 16 ≠ (7 : Nat)) ∧
    base.idleCore = true ∧ base.restful = false ∧ State.reset.restful = true := by
  refine ⟨by decide, ⟨by decide, rfl, rfl, ⟨rfl, rfl, rfl, rfl, rfl⟩, ⟨⟨by decide, by decide⟩, rfl⟩, by decide, rfl, rfl⟩, by decide, by decide, by decide, by decide, by decide, by decide, by decide⟩

theorem witness_step_events :
    (let s := podState; s.pod = some pod ∧ pod.part = 0 ∧ s.step.left = false ∧ s.step.reported = none ∧ s.step.applying = none ∧ s.step.colArrived = false ∧ s.pod ≠ none ∧
      s.quiescent = true ∧ s.col = none ∧ Plain s ∧ Memory.wf s.mem = true ∧ s.launches ≠ []) ∧
    (let s : State := { podState with step := { podState.step with colArrived := true } }; s.step.colArrived = true ∧ s.sent = [] ∧ s.quiescent = false) ∧
    (let s : State := { podState with step := { podState.step with reported := some 0 } };
      s.step.reported = some 0 ∧ s.sent = [] ∧ s.waitReads = [] ∧ (∀ o ∈ s.step.outcomes, o.1 ≠ 0) ∧ s.step.applying ≠ some 0) ∧
    (let s : State := { podState with step := { podState.step with applying := some 0 }, staged := [⟨piece 1, 0, some 0⟩] };
      s.step.applying = some 0 ∧ (piece 1).step = 0 ∧ (piece 1).bytes = [(0x3000000000, 9)] ∧ (piece 1).entry = none) ∧
    (let p : Pod := { pod with part := 2 }; let s (o : List Word) : State := { podState with pod := some p, waves := [], step := { StepState.reset with openFor := o } };
      (s []).waves = [] ∧ (s []).pod = some p ∧ p.part ≠ 0 ∧ (s []).step.stepno ∉ (s []).step.openFor ∧ (s [0, 1]).step.stepno ∈ (s [0, 1]).step.openFor ∧ (s [0, 1]).sent = []) ∧
    (let p : Pod := { pod with members := [0] }; let s : State := { podState with pod := some p };
      p.root = s.devid ∧ p.members = [0] ∧ s.root = [] ∧
        (let r : RootStep := ⟨0, [], [], false, some 0, true, none, []⟩; r.since = some 0 ∧ s.clock 0 < 0 + p.stepto * s.mhz)) ∧
    hasMemory (numAt base.hr.podBytes 8 8) = true ∧ hasMemory (numAt base.hr.podBytes 8 8 + 8191) = true ∧
    (let s : State := { base with hr := { base.hr with poddesc := [0, 0, 0x8000000000] } };
      (readPod s.hr.podBytes (bitmapIds (s.load (numAt s.hr.podBytes 8 8) 8192))).ok (numAt s.hr.podBytes 4 4) s.devid = false) ∧
    (let s : State := { base with mem := [(0, 1)], hr := { base.hr with poddesc := [0x100000000, 0, 0x100] } };
      (readPod s.hr.podBytes (bitmapIds (s.load (numAt s.hr.podBytes 8 8) 8192))).ok (numAt s.hr.podBytes 4 4) s.devid = true) := by
  refine ⟨⟨rfl, rfl, rfl, rfl, rfl, rfl, by decide, by decide, rfl, ⟨rfl, rfl, rfl, rfl, rfl⟩, rfl, by decide⟩, by decide, by decide, by decide, by decide, by decide, by decide, by decide,
    ?_, ?_⟩
  · exact (pod_ok _ _ _ _).trans (by rw [show (readPod _ [base.devid]).ok _ base.devid = false from rfl, Bool.false_and])
  · have h : (0 : BitVec 16) ∈ bitmapIds (Memory.read [(0, 1)] 0 8192) := by
      unfold bitmapIds
      exact List.mem_filterMap.2 ⟨0, List.mem_range.2 (by simp [Memory.read]), rfl⟩
    exact (pod_ok _ _ _ _).trans (by rw [show (readPod _ [base.devid]).ok _ base.devid = true from rfl, Bool.true_and]; exact List.elem_eq_true_of_mem h)

theorem witness_host_events :
    Serving base ∧ (let s : State := { base with hr := { base.hr with evstat := 3 } }; s.hr.evstat &&& ~~~(1 : BitVec 32) &&& ~~~s.hr.evmask ≠ 0) ∧
    base.hr.evstat &&& ~~~(0 : BitVec 32) &&& ~~~base.hr.evmask = 0 ∧ 0 ∈ base.msixMask ∧
    (let s : State := { base with watch := [(255, ⟨0, 8, 0, 0, 0, 7, true, true, false, 0⟩)] }; s.watch.find 255 ≠ none) ∧ 5 ∉ base.msixPend ∧
    (let s : State := { base with hr := { base.hr with ckStatus := 1, ckLen := 128, ckDst := 0x8000000000000 } };
      s.hr.ckStatus = 1 ∧ s.ckPos = 0 ∧ s.dirty = [] ∧ s.hr.expztop = 0 ∧ s.hr.ckSrc.toNat + 128 ≤ s.hr.ckDst.toNat) ∧
    (let s : State := { base with hr := { base.hr with ckLen := 0x8000000000, ckDst := 0xfff8000000000 } };
      s.hr.ckStatus ≠ 1 ∧ s.hr.ckSrc.toNat + s.hr.ckLen.toNat ≤ 2 ^ 39 ∧ 2 ^ 51 ≤ s.hr.ckDst.toNat ∧ s.hr.ckDst.toNat + s.hr.ckLen.toNat ≤ 2 ^ 52) ∧
    base.thold = false ∧ base.waking = none ∧ base.deepest.num ≤ base.power.num ∧
    ([(2 : BitVec 32), 299, 300, 49999, 50000].all fun t => ({ base with hr := { base.hr with ltol := t } }).deepest == .l1) = true ∧
    (let s : State := { base with power := .l2, thold := true, hr := { base.hr with tresume := true } }; s.power = .l2 ∧ s.thold = true ∧ s.hr.tresume = true) ∧
    State.reset.gangs = [] ∧ State.reset.pod = none ∧ ({ base with waking := some .l1 }).waking ≠ none := by
  refine ⟨⟨rfl, by decide⟩, by decide, by decide, by decide, by decide, by decide, by decide, by decide, by decide, by decide, by decide, by decide +kernel, by decide, by decide, by decide, by decide⟩

end
end

section
/-!
PROOFS. Control transfers (R39, R40, R149, R150): a branch whose checks pass jumps, unwinding the loop stack where its row says so,
or completes its clause. The statements speak of `unwound`, `fetches` and `instrAddr`; the lemmas tie them to the model's
`unwindLoop`, `Wave.jump` and `Wave.target`.
-/
namespace Sys2Proof.Machine
open Sys2Proof.Claim

/-- The popping of R39 drops the topmost entries whose range the target lies outside. -/
theorem unwindLoop_eq_dropWhile (a : Word) (top : List LoopEntry) :
    unwindLoop a top = top.dropWhile fun e => !(decide (e.start.toNat ≤ a.toNat) && decide (a.toNat ≤ e.fin.toNat)) := by
  induction top with
  | nil => rfl
  | cons e rest ih =>
    by_cases h : e.start.toNat ≤ a.toNat ∧ a.toNat ≤ e.fin.toNat
    · simp [unwindLoop, h]
    · have hout : (!(decide (e.start.toNat ≤ a.toNat) && decide (a.toNat ≤ e.fin.toNat))) = true := by
        rw [← Bool.decide_and, decide_eq_false h]; rfl
      rw [unwindLoop, if_neg h, ih, List.dropWhile_cons, if_pos hout]

/-- A counted jump fetches at its target; a jump that unwinds leaves the stack of R39, frozen in a handler (R459). -/
theorem Wave.count_jump (w : Wave) (unwinds : Bool) (a : Word) :
    w.count.jump unwinds a = fetches w a (if unwinds then unwound w a else w.ls) := by
  cases unwinds with
  | false => rfl
  | true =>
    cases hh : w.inHandler with
    | true => simp [Wave.jump, Wave.count, Wave.fetchAt, fetches, unwound, hh]
    | false => simp [Wave.jump, Wave.count, Wave.fetchAt, fetches, unwound, hh, unwindLoop_eq_dropWhile]

/-- At an instruction, a relative target counts from the instruction's first word (R149). -/
theorem Wave.target_of_issue {w : Wave} (hp : w.phase = .issue) {k : Nat} (off : BitVec k) :
    w.target off = instrAddr w + 4 * off.signExtend 64 := by
  simp [Wave.target, Wave.here, instrAddr, hp]

/-- A branch that ends its clause and has its registers: taken, it jumps; untaken, it retires, which completes the clause. -/
theorem State.branch_next {s : State} (hat : AtInstr s) {srcs : List Nat} {n : Nat} (hl : LastOfClause s.wave n)
    (hf : SFull s.wave srcs) (unwinds : Bool) (taken : Wave → Bool) (target : Wave → Word) :
    s.branch srcs n unwinds taken target = .next (if taken s.wave then
        s.setWave (fetches s.wave (target s.wave) (if unwinds then unwound s.wave (target s.wave) else s.wave.ls))
      else done s n id) := by
  obtain ⟨hs, hp⟩ := hat
  have hregs : ∀ r ∈ srcs ++ [], r < s.wave.sregN ∧ s.wave.sFull r = true := by simpa [SFull] using hf
  rw [State.branch, State.transfer_next hs hp hl hregs, State.modWave, Wave.count_jump]
  cases taken s.wave <;> rfl

/-- Every transfer of the table `branchEffect` is a branch of the model with that row's registers, length and condition, and with
a target that, at an instruction, is the row's. -/
theorem exec_eq_branch {i : Instr} {rs : List (BitVec 7)} {n : Nat} {taken : Wave → Bool} {unwinds : Bool} {target : Wave → Word}
    (h : branchEffect i = some (rs, n, taken, unwinds, target)) {s : State} (hp : s.wave.phase = .issue) :
    ∃ dest : Wave → Word, dest s.wave = target s.wave ∧ exec i s = s.branch (rs.map BitVec.toNat) n unwinds taken dest := by
  unfold branchEffect at h
  split at h <;> cases h
  -- `bra`, `yield` and their long twins
  case h_1 off | h_4 off | h_5 off | h_8 off => exact ⟨(·.target off), Wave.target_of_issue hp off, rfl⟩
  -- `bz`, `bnz` and their long twins
  case h_2 a off | h_3 a off | h_6 a off | h_7 a off => exact ⟨(·.target off), Wave.target_of_issue hp off, rfl⟩
  -- `ret`
  case h_9 a => exact ⟨fun w => wordAddr (w.sreg a.toNat), rfl, rfl⟩
  -- `brx`
  case h_10 a off => exact ⟨fun w => wordAddr (w.sreg a.toNat + 4 * off.signExtend 64), rfl, rfl⟩

/-- Settles O12: each transfer is a branch of the model, and a branch whose checks pass jumps or completes its clause. -/
theorem branchesTransfer : Obligations.BranchesTransfer := by
  intro i rs n taken unwinds target s hi hat hl hf
  obtain ⟨dest, hdest, hexec⟩ := exec_eq_branch hi hat.2
  rw [hexec, State.branch_next hat hl hf, hdest]

end Sys2Proof.Machine
end

section
/-!
PROOFS. The scalar types (R69, R143): the model's arithmetic on numbers (`valueOf`, `extend`, `narrow`) is that of the statements on words of N bits
(`value`, `extended`, `delivered`).
-/
namespace Sys2Proof.Machine
open Sys2Proof.Claim

theorem tWidth_eq_typeBits (t : BitVec 3) : tWidth t = typeBits t := by decide +revert
theorem tSigned_eq_isSigned (t : BitVec 3) : tSigned t = isSigned t := by decide +revert
theorem typeBits_pos (t : BitVec 3) : 0 < typeBits t := by decide +revert

theorem toNat_low (t : BitVec 3) (x : Word) : (low t x).toNat = x.toNat % 2 ^ typeBits t := by simp [low]

/-- Reading the low bits as two's complement is `BitVec.toInt` (R121). -/
theorem signed_toNat {n : Nat} (x : BitVec n) : signed n x.toNat = x.toInt := by
  have hlt := x.isLt
  rw [signed, BitVec.toInt_eq_toNat_cond, Nat.mod_eq_of_lt hlt]
  cases n with
  | zero => simp [BitVec.of_length_zero]
  | succ n => simp only [Nat.add_sub_cancel, Nat.pow_succ, Nat.mul_comm 2, Nat.mul_lt_mul_right (Nat.two_pos)]

/-- The value of a word of N bits under a sign. -/
theorem valueOf_toNat (g : Bool) {n : Nat} (x : BitVec n) : valueOf g n x.toNat = if g then x.toInt else x.toNat := by
  rw [valueOf, signed_toNat, Nat.mod_eq_of_lt x.isLt]

theorem valueOf_mod (g : Bool) (n x : Nat) : valueOf g n (x % 2 ^ n) = valueOf g n x := by simp [valueOf, signed]

theorem extend_mod (g : Bool) (n x : Nat) : extend g n (x % 2 ^ n) = extend g n x := by rw [extend, valueOf_mod, extend]

theorem valueOf_low (t : BitVec 3) (x : Word) : valueOf (isSigned t) (typeBits t) (low t x).toNat = value t x := by
  rw [valueOf_toNat, value]

/-- The model's extension of an N-bit result is the one of R143. -/
theorem extend_toNat (t : BitVec 3) (x : BitVec (typeBits t)) : extend (isSigned t) (typeBits t) x.toNat = extended t x := by
  rw [extend, valueOf_toNat, extended]
  cases isSigned t with
  | true => rfl
  | false => simp

/-- Narrowing an exact integer and extending it delivers it (R122, R143). -/
theorem narrow_eq_delivered (t : BitVec 3) (x : Int) : narrow (isSigned t) (typeBits t) x = delivered t x := by
  rw [narrow, delivered, ← extend_toNat, wrap, BitVec.toNat_ofInt]

/-- Both readings of the low bits are congruent to them modulo 2^N. -/
theorem ofInt_value (t : BitVec 3) (x : Word) : BitVec.ofInt (typeBits t) (value t x) = low t x := by
  unfold value
  split <;> simp

/-- A shift count modulo N is the same whether all 64 bits or the low N give it, as N divides 2^N. -/
theorem low_toNat_mod_typeBits (t : BitVec 3) (x : Word) : (low t x).toNat % typeBits t = x.toNat % typeBits t := by
  have hd : typeBits t ∣ 2 ^ typeBits t := by decide +revert
  rw [toNat_low, Nat.mod_mod_of_dvd _ hd]

theorem value_eq_zero_iff (t : BitVec 3) (x : Word) : value t x = 0 ↔ low t x = 0 := by
  constructor
  · intro h
    rw [← ofInt_value, h]
    simp
  · intro h
    simp [value, h]

theorem low_toNat_eq_zero_iff (t : BitVec 3) (x : Word) : (low t x).toNat = 0 ↔ value t x = 0 := by
  rw [value_eq_zero_iff, ← BitVec.toNat_inj]
  rfl

end Sys2Proof.Machine
end

section
/-!
PROOFS. The bit counts and the reversal of R144 on numbers are those of `BitVec`, at every width.
-/
namespace Sys2Proof.Machine
open Sys2Proof.Claim

theorem bitAt_eq_testBit (x i : Nat) : bitAt x i = x.testBit i := by
  rw [bitAt, Nat.testBit_eq_decide_div_mod_eq]
  rfl

/-- Counting from bit `k` down, the bits above it taken as zeros. -/
theorem toNat_clzAuxRec {n : Nat} (x : BitVec n) {k : Nat} (hk : k < n) :
    (x.clzAuxRec k).toNat = n - 1 - k + leadingZeros (k + 1) x.toNat := by
  have hn : n < 2 ^ n := Nat.lt_two_pow_self
  induction k with
  | zero =>
    rw [BitVec.clzAuxRec_zero, leadingZeros, bitAt_eq_testBit, BitVec.testBit_toNat]
    split
    · rw [BitVec.toNat_ofNat, Nat.mod_eq_of_lt (by omega)]; omega
    · rw [BitVec.toNat_ofNat, Nat.mod_eq_of_lt (by omega), leadingZeros]; omega
  | succ k ih =>
    rw [BitVec.clzAuxRec_succ, leadingZeros, bitAt_eq_testBit, BitVec.testBit_toNat]
    split
    · rw [BitVec.toNat_ofNat, Nat.mod_eq_of_lt (by omega)]; omega
    · rw [ih (by omega)]; omega

theorem toNat_clz {n : Nat} (x : BitVec n) : x.clz.toNat = leadingZeros n x.toNat := by
  cases n with
  | zero => simp [BitVec.of_length_zero, leadingZeros]
  | succ n => rw [BitVec.clz, toNat_clzAuxRec x (by omega)]; simp

/-- Trailing zeros are the place of the lowest bit that is set. -/
theorem trailingZeros_eq {n x k : Nat} (hlow : ∀ i, i < k → x.testBit i = false) (hk : k ≤ n) (hbit : k < n → x.testBit k = true) :
    trailingZeros n x = k := by
  induction n generalizing x k with
  | zero => rw [trailingZeros]; omega
  | succ n ih =>
    cases k with
    | zero =>
      have h0 : x % 2 = 1 := by simpa using hbit (by omega)
      simp [trailingZeros, h0]
    | succ k =>
      have h0 : x % 2 = 0 := by simpa using hlow 0 (by omega)
      have hrest : trailingZeros n (x / 2) = k := by
        refine ih (fun i hi => ?_) (by omega) (fun hlt => ?_)
        · rw [Nat.testBit_div_two]; exact hlow (i + 1) (by omega)
        · rw [Nat.testBit_div_two]; exact hbit (by omega)
      simp [trailingZeros, h0, hrest, Nat.add_comm]

theorem toNat_ctz {n : Nat} (x : BitVec n) : x.ctz.toNat = trailingZeros n x.toNat := by
  have hn : n < 2 ^ n := Nat.lt_two_pow_self
  have hle : x.ctz.toNat ≤ n := by
    have := BitVec.le_def.1 (BitVec.clz_le (x := x.reverse))
    rwa [← BitVec.ctz_eq_reverse_clz, BitVec.natCast_eq_ofNat, BitVec.toNat_ofNat, Nat.mod_eq_of_lt hn] at this
  refine (trailingZeros_eq (fun i hi => ?_) hle (fun hlt => ?_)).symm
  · rw [BitVec.testBit_toNat]; exact BitVec.getLsbD_false_of_lt_ctz hi
  · rw [BitVec.testBit_toNat]
    refine BitVec.getLsbD_true_ctz_of_ne_zero (BitVec.ctz_lt_iff_ne_zero.1 (BitVec.lt_def.2 ?_))
    rwa [BitVec.natCast_eq_ofNat, BitVec.toNat_ofNat, Nat.mod_eq_of_lt hn]

theorem popCount_eq_length_filter (n x : Nat) : popCount n x = ((List.range n).filter x.testBit).length := by
  induction n generalizing x with
  | zero => rfl
  | succ n ih =>
    have hshift : (List.range n).filter (x.testBit ∘ Nat.succ) = (List.range n).filter (x / 2).testBit := by
      congr 1; funext i; exact (Nat.testBit_div_two x i).symm
    rw [popCount, ih, List.range_succ_eq_map, List.filter_cons, List.filter_map, hshift]
    rcases Nat.mod_two_eq_zero_or_one x with h | h <;> simp [h, Nat.add_comm]

theorem popCount_low (t : BitVec 3) (x : Word) : popCount (typeBits t) (low t x).toNat = ones (typeBits t) x := by
  rw [popCount_eq_length_filter, ones]
  congr 1
  refine List.filter_congr fun i hi => ?_
  simp [low, List.mem_range.1 hi, BitVec.getLsbD]

theorem bitRev_lt (n x : Nat) : bitRev n x < 2 ^ n := by
  induction n generalizing x with
  | zero => simp [bitRev]
  | succ n ih =>
    have h1 := ih (x / 2)
    have h2 : x % 2 * 2 ^ n ≤ 1 * 2 ^ n := Nat.mul_le_mul_right _ (by omega)
    rw [bitRev, Nat.pow_succ]
    omega

theorem testBit_bitRev {n i : Nat} (x : Nat) (hi : i < n) : (bitRev n x).testBit i = x.testBit (n - 1 - i) := by
  induction n generalizing x with
  | zero => omega
  | succ n ih =>
    rw [bitRev, Nat.mul_comm, Nat.testBit_two_pow_mul_add _ (bitRev_lt n (x / 2))]
    split
    · rename_i h
      rw [ih _ h, Nat.testBit_div_two]
      congr 1; omega
    · have : i = n := by omega
      subst this
      simp

theorem toNat_reverse {n : Nat} (x : BitVec n) : x.reverse.toNat = bitRev n x.toNat := by
  refine Nat.eq_of_testBit_eq fun i => ?_
  rw [BitVec.testBit_toNat, BitVec.getLsbD_reverse]
  by_cases hi : i < n
  · rw [testBit_bitRev _ hi, BitVec.testBit_toNat, BitVec.getMsbD_eq_getLsbD]; simp [hi]
  · rw [Nat.testBit_lt_two_pow (Nat.lt_of_lt_of_le (bitRev_lt n _) (Nat.pow_le_pow_right (by omega) (by omega)))]
    exact BitVec.getMsbD_of_ge _ _ (by omega)

end Sys2Proof.Machine
end

section
/-!
PROOFS. The compact scalar forms (R142 to R146): the result of each on the low N bits of its sources, the corners of a division, and the bit fields.
-/
namespace Sys2Proof.Machine
open Sys2Proof.Claim

/-! ### Results of the forms -/

section
variable (t : BitVec 3) (x y : Word)

theorem extend_and_low : extend (isSigned t) (typeBits t) ((low t x).toNat &&& (low t y).toNat) = extended t (low t x &&& low t y) := by
  rw [← extend_toNat, BitVec.toNat_and]

theorem extend_or_low : extend (isSigned t) (typeBits t) ((low t x).toNat ||| (low t y).toNat) = extended t (low t x ||| low t y) := by
  rw [← extend_toNat, BitVec.toNat_or]

theorem extend_xor_low : extend (isSigned t) (typeBits t) ((low t x).toNat ^^^ (low t y).toNat) = extended t (low t x ^^^ low t y) := by
  rw [← extend_toNat, BitVec.toNat_xor]

theorem extend_andn_low : extend (isSigned t) (typeBits t) ((low t x).toNat &&& (2 ^ typeBits t - 1 - (low t y).toNat)) =
    extended t (low t x &&& ~~~low t y) := by
  rw [← extend_toNat, BitVec.toNat_and, BitVec.toNat_not]

theorem extend_shl_low : extend (isSigned t) (typeBits t) ((low t x).toNat * 2 ^ ((low t y).toNat % typeBits t)) =
    extended t (low t x <<< (y.toNat % typeBits t)) := by
  rw [← extend_toNat, BitVec.toNat_shiftLeft, extend_mod, Nat.shiftLeft_eq, low_toNat_mod_typeBits]

/-- A rotation is the sum of its two shifts, which share no bit. -/
theorem extend_rot_low : extend (isSigned t) (typeBits t)
      ((low t x).toNat * 2 ^ ((low t y).toNat % typeBits t) + (low t x).toNat / 2 ^ (typeBits t - (low t y).toNat % typeBits t)) =
    extended t ((low t x).rotateLeft (y.toNat % typeBits t)) := by
  have hk : y.toNat % typeBits t < typeBits t := Nat.mod_lt _ (typeBits_pos t)
  rw [low_toNat_mod_typeBits, ← extend_toNat, BitVec.toNat_rotateLeft, Nat.mod_eq_of_lt hk]
  generalize y.toNat % typeBits t = k at hk
  have hhigh : (low t x).toNat >>> (typeBits t - k) < 2 ^ k := by
    rw [Nat.shiftRight_eq_div_pow, Nat.div_lt_iff_lt_mul (by positivity), ← Nat.pow_add, show k + (typeBits t - k) = typeBits t by omega]
    exact (low t x).isLt
  have hsmall : (low t x).toNat >>> (typeBits t - k) % 2 ^ typeBits t = (low t x).toNat >>> (typeBits t - k) :=
    Nat.mod_eq_of_lt (hhigh.trans (Nat.pow_lt_pow_right (by omega) hk))
  rw [← Nat.shiftLeft_eq, ← Nat.shiftRight_eq_div_pow, Nat.shiftLeft_add_eq_or_of_lt hhigh, ← extend_mod, Nat.or_mod_two_pow, hsmall]

theorem narrow_add_low : narrow (isSigned t) (typeBits t) (((low t x).toNat : Int) + (low t y).toNat) = delivered t (value t x + value t y) := by
  rw [narrow_eq_delivered, delivered, delivered, BitVec.ofInt_add, BitVec.ofInt_add]
  simp [ofInt_value]

theorem narrow_sub_low : narrow (isSigned t) (typeBits t) (((low t x).toNat : Int) - (low t y).toNat) = delivered t (value t x - value t y) := by
  rw [narrow_eq_delivered, delivered, delivered, Int.sub_eq_add_neg, Int.sub_eq_add_neg, BitVec.ofInt_add, BitVec.ofInt_add, BitVec.ofInt_neg, BitVec.ofInt_neg]
  simp [ofInt_value]

theorem narrow_mul_low : narrow (isSigned t) (typeBits t) (((low t x).toNat : Int) * (low t y).toNat) = delivered t (value t x * value t y) := by
  rw [narrow_eq_delivered, delivered, delivered, BitVec.ofInt_mul, BitVec.ofInt_mul]
  simp [ofInt_value]

theorem quotient_of_low : (if (low t y).toNat = 0 then extend (isSigned t) (typeBits t) (2 ^ typeBits t - 1)
      else narrow (isSigned t) (typeBits t) ((valueOf (isSigned t) (typeBits t) (low t x).toNat).tdiv (valueOf (isSigned t) (typeBits t) (low t y).toNat))) =
    quotient t x y := by
  rw [quotient, if_congr (low_toNat_eq_zero_iff t y) rfl rfl, valueOf_low, valueOf_low, narrow_eq_delivered, ← extend_toNat, BitVec.toNat_allOnes]

theorem remainder_of_low : (if (low t y).toNat = 0 then extend (isSigned t) (typeBits t) (low t x).toNat
      else narrow (isSigned t) (typeBits t) ((valueOf (isSigned t) (typeBits t) (low t x).toNat).tmod (valueOf (isSigned t) (typeBits t) (low t y).toNat))) =
    remainder t x y := by
  rw [remainder, if_congr (low_toNat_eq_zero_iff t y) rfl rfl, valueOf_low, valueOf_low, narrow_eq_delivered, extend_toNat]

theorem ofBit_eq_low : ofBit ((low t x).toNat == (low t y).toNat) = bit (low t x = low t y) := by
  simp [ofBit, bit, BitVec.toNat_inj]

theorem ofBit_ne_low : ofBit ((low t x).toNat != (low t y).toNat) = bit (low t x ≠ low t y) := by
  simp [ofBit, bit, BitVec.toNat_inj]

theorem ofBit_decide (p : Prop) [Decidable p] : ofBit (decide p) = bit p := by simp [ofBit, bit]

end

/-! ### The forms -/

/-- A scalar form whose sources are among its registers gives its destination a value. -/
theorem State.scalar_gives {s : State} (hat : AtInstr s) {d : BitVec 7} {rs : List (BitVec 7)} (hf : SFull s.wave ((d :: rs).map BitVec.toNat))
    {srcs : List Nat} (hsrc : srcs = rs.map BitVec.toNat) {f v : Wave → Word} (h : ∀ w, f w = v w) :
    s.scalar srcs [d.toNat] 1 (fun w => w.setS d.toNat (f w)) = .next (done s 1 fun w => w.setS d.toNat (v w)) := by
  subst hsrc
  obtain ⟨hs, hp⟩ := hat
  have hregs : ∀ n ∈ rs.map BitVec.toNat ++ [d.toNat], n < s.wave.sregN ∧ s.wave.sFull n = true := by
    intro n hn
    exact hf n (by simpa [or_comm] using hn)
  rw [State.scalar_next hs hp hregs, done, h]

/-- A compact form gives its destination what it computes from the low N bits of A and B (R143). -/
theorem State.sc2_gives {s : State} (hat : AtInstr s) {d a b : BitVec 7} (hf : SFull s.wave ([d, a, b].map BitVec.toNat)) {t : BitVec 3}
    {f : Bool → Nat → Nat → Nat → Word} {v : Wave → Word}
    (h : ∀ w : Wave, f (isSigned t) (typeBits t) (low t (w.sreg a.toNat)).toNat (low t (w.sreg b.toNat)).toNat = v w) :
    s.sc2 d a b t f = .next (done s 1 fun w => w.setS d.toNat (v w)) :=
  State.scalar_gives hat hf rfl fun w => by rw [← h, tWidth_eq_typeBits, tSigned_eq_isSigned, toNat_low, toNat_low]

/-- The same for the source A alone. -/
theorem State.sc1_gives {s : State} (hat : AtInstr s) {d a : BitVec 7} (hf : SFull s.wave ([d, a].map BitVec.toNat)) {t : BitVec 3}
    {f : Bool → Nat → Nat → Word} {v : Wave → Word}
    (h : ∀ w : Wave, f (isSigned t) (typeBits t) (low t (w.sreg a.toNat)).toNat = v w) :
    s.sc1 d a t f = .next (done s 1 fun w => w.setS d.toNat (v w)) :=
  State.scalar_gives hat hf rfl fun w => by rw [← h, tWidth_eq_typeBits, tSigned_eq_isSigned, toNat_low]

/-- Each row of the table is what the model computes from the low N bits of the sources (R144, R145). -/
theorem exec_of_scalarEffect : ScalarFormsGiveTheirResult := by
  intro i d rs f s hi hat hf
  unfold scalarEffect at hi
  split at hi <;> cases hi
  case h_1 a b t => exact (exec_sadd ..).trans (State.sc2_gives hat hf fun w => narrow_add_low t _ _)
  case h_2 a b t => exact (exec_ssub ..).trans (State.sc2_gives hat hf fun w => narrow_sub_low t _ _)
  case h_3 a b t => exact (exec_smul ..).trans (State.sc2_gives hat hf fun w => narrow_mul_low t _ _)
  case h_4 a b t => exact (exec_smulh ..).trans (State.sc2_gives hat hf fun w => by rw [valueOf_low, valueOf_low, narrow_eq_delivered])
  case h_5 a b t => exact (exec_sdiv ..).trans (State.sc2_gives hat hf fun w => quotient_of_low t _ _)
  case h_6 a b t => exact (exec_srem ..).trans (State.sc2_gives hat hf fun w => remainder_of_low t _ _)
  case h_7 a b t => exact (exec_smin ..).trans (State.sc2_gives hat hf fun w => by rw [valueOf_low, valueOf_low, narrow_eq_delivered])
  case h_8 a b t => exact (exec_smax ..).trans (State.sc2_gives hat hf fun w => by rw [valueOf_low, valueOf_low, narrow_eq_delivered])
  case h_9 a b t => exact (exec_sand ..).trans (State.sc2_gives hat hf fun w => extend_and_low t _ _)
  case h_10 a b t => exact (exec_sor ..).trans (State.sc2_gives hat hf fun w => extend_or_low t _ _)
  case h_11 a b t => exact (exec_sxor ..).trans (State.sc2_gives hat hf fun w => extend_xor_low t _ _)
  case h_12 a b t => exact (exec_sandn ..).trans (State.sc2_gives hat hf fun w => extend_andn_low t _ _)
  case h_13 a b t => exact (exec_sshl ..).trans (State.sc2_gives hat hf fun w => extend_shl_low t _ _)
  case h_14 a b t => exact (exec_sshr ..).trans (State.sc2_gives hat hf fun w => by rw [valueOf_low, low_toNat_mod_typeBits, narrow_eq_delivered])
  case h_15 a b t => exact (exec_srot ..).trans (State.sc2_gives hat hf fun w => extend_rot_low t _ _)
  case h_16 a t => exact (exec_sclz ..).trans (State.sc1_gives hat hf fun w => by rw [toNat_clz])
  case h_17 a b t => exact (exec_seq ..).trans (State.sc2_gives hat hf fun w => ofBit_eq_low t _ _)
  case h_18 a b t => exact (exec_sne ..).trans (State.sc2_gives hat hf fun w => ofBit_ne_low t _ _)
  case h_19 a b t => exact (exec_slt ..).trans (State.sc2_gives hat hf fun w => by rw [valueOf_low, valueOf_low, ofBit_decide])
  case h_20 a b t => exact (exec_sle ..).trans (State.sc2_gives hat hf fun w => by rw [valueOf_low, valueOf_low, ofBit_decide])
  case h_21 a b t =>
    refine (exec_ssel ..).trans (State.scalar_gives hat hf rfl fun w => ?_)
    rw [tWidth_eq_typeBits, tSigned_eq_isSigned, ← extend_toNat, toNat_low, extend_mod, ite_not, apply_ite w.sreg]
  case h_22 a t => exact (exec_spopc ..).trans (State.sc1_gives hat hf fun w => by rw [popCount_low])
  case h_23 a t => exact (exec_sctz ..).trans (State.sc1_gives hat hf fun w => by rw [toNat_ctz])
  case h_24 a t => exact (exec_sbrev ..).trans (State.sc1_gives hat hf fun w => by rw [← toNat_reverse, extend_toNat])
  case h_25 a t => exact (exec_smov ..).trans (State.sc1_gives hat hf fun w => extend_toNat t _)

/-! ### The corners of a division (R145) -/

/-- The value that an instruction gives a register counts only at the wave as it stands. -/
theorem done_setS_congr {s : State} {v : Wave → Word} {y : Word} (h : v s.wave = y) (n r : Nat) :
    done s n (fun w => w.setS r (v w)) = done s n fun w => w.setS r y := by
  rw [done, done, h]

theorem quotient_of_zero {t : BitVec 3} {y : Word} (x : Word) (hy : value t y = 0) :
    quotient t x y = extended t (BitVec.allOnes (typeBits t)) := if_pos hy

theorem remainder_of_zero {t : BitVec 3} {y : Word} (x : Word) (hy : value t y = 0) : remainder t x y = extended t (low t x) := if_pos hy

/-- The most negative value and its negation have the same N bits. -/
theorem ofInt_two_pow_pred (n : Nat) : BitVec.ofInt n ((2 ^ (n - 1) : Nat) : Int) = BitVec.ofInt n (-((2 ^ (n - 1) : Nat) : Int)) := by
  have hmin : BitVec.ofInt n ((2 ^ (n - 1) : Nat) : Int) = BitVec.intMin n := by
    apply BitVec.eq_of_toNat_eq
    rw [BitVec.ofInt_natCast, BitVec.toNat_ofNat, BitVec.toNat_intMin]
  rw [BitVec.ofInt_neg, hmin, BitVec.neg_intMin]

theorem quotient_of_overflow {t : BitVec 3} {x y : Word} (hy : value t y = -1) (hx : value t x = -(2 ^ (typeBits t - 1) : Nat)) :
    quotient t x y = extended t (low t x) := by
  have h0 : value t y ≠ 0 := by omega
  rw [quotient, if_neg h0, hy, Int.tdiv_neg, Int.tdiv_one, delivered, hx, Int.neg_neg, ofInt_two_pow_pred, ← hx, ofInt_value]

theorem remainder_of_minus_one {t : BitVec 3} {y : Word} (x : Word) (hy : value t y = -1) : remainder t x y = 0 := by
  have h0 : value t y ≠ 0 := by omega
  rw [remainder, if_neg h0, hy, Int.tmod_neg, Int.tmod_one, delivered]
  simp [extended, BitVec.signExtend]

theorem divisionCorners : DivisionCorners := by
  intro d a b t s hat hf
  have hdiv := exec_of_scalarEffect (.sdiv d a b t) d [a, b] _ s rfl hat hf
  have hrem := exec_of_scalarEffect (.srem d a b t) d [a, b] _ s rfl hat hf
  refine ⟨fun hy => ⟨?_, ?_⟩, fun _ hy hx => ⟨?_, ?_⟩⟩
  · exact hdiv.trans (congrArg _ (done_setS_congr (quotient_of_zero _ hy) 1 _))
  · exact hrem.trans (congrArg _ (done_setS_congr (remainder_of_zero _ hy) 1 _))
  · exact hdiv.trans (congrArg _ (done_setS_congr (quotient_of_overflow hy hx) 1 _))
  · exact hrem.trans (congrArg _ (done_setS_congr (remainder_of_minus_one _ hy) 1 _))

/-! ### Bit fields (R146) -/

theorem bitsOf_fieldLo (p : Word) : Bits.of p 5 0 = fieldLo p := by
  simp [Bits.of, field, fieldLo]

theorem bitsOf_fieldLen (t : BitVec 3) (p : Word) : min (Bits.of p 14 8) (typeBits t) = fieldLen t p := by
  simp [Bits.of, field, fieldLen, Nat.shiftRight_eq_div_pow]

/-- A field read under a sign and kept to N bits is the field extended to N bits. -/
theorem ofInt_valueOf (g : Bool) {len : Nat} (n : Nat) (f : BitVec len) :
    BitVec.ofInt n (valueOf g len f.toNat) = if g then f.signExtend n else f.setWidth n := by
  rw [valueOf_toNat]
  cases g with
  | true => rfl
  | false => simp

/-- A field of no bits has the value 0. -/
theorem valueOf_toNat_zero (g : Bool) (len : Nat) (f : BitVec len) : (if len = 0 then 0 else valueOf g len f.toNat) = valueOf g len f.toNat := by
  split
  · rename_i h
    subst h
    rw [valueOf_toNat, BitVec.of_length_zero (x := f)]
    simp
  · rfl

theorem narrow_field (t : BitVec 3) (x p : Word) :
    narrow (isSigned t) (typeBits t) (if fieldLen t p = 0 then 0
      else valueOf (isSigned t) (fieldLen t p) (x.toNat % 2 ^ typeBits t / 2 ^ fieldLo p % 2 ^ fieldLen t p)) =
    extended t (if isSigned t then ((low t x >>> fieldLo p).setWidth (fieldLen t p)).signExtend (typeBits t)
      else ((low t x >>> fieldLo p).setWidth (fieldLen t p)).setWidth (typeBits t)) := by
  have hf : x.toNat % 2 ^ typeBits t / 2 ^ fieldLo p % 2 ^ fieldLen t p = ((low t x >>> fieldLo p).setWidth (fieldLen t p)).toNat := by
    rw [BitVec.toNat_setWidth, BitVec.toNat_ushiftRight, toNat_low, Nat.shiftRight_eq_div_pow]
  rw [hf, valueOf_toNat_zero, narrow_eq_delivered, delivered, ofInt_valueOf]

/-- The bits of D that `sbfi` replaces (R146). -/
def fieldMask (t : BitVec 3) (p : Word) : BitVec (typeBits t) := BitVec.ofNat (typeBits t) (2 ^ fieldLen t p - 1) <<< fieldLo p

theorem toNat_fieldMask (t : BitVec 3) (p : Word) :
    (fieldMask t p).toNat = (2 ^ fieldLen t p - 1) * 2 ^ fieldLo p % 2 ^ typeBits t := by
  rw [fieldMask, BitVec.toNat_shiftLeft, BitVec.toNat_ofNat, Nat.shiftLeft_eq, Nat.mod_mul_mod]

/-- Keeping the bits outside the mask and putting the shifted source inside it, on numbers and on words of N bits. -/
theorem extend_insert (t : BitVec 3) (old x p : Word) :
    extend (isSigned t) (typeBits t)
      ((old.toNat % 2 ^ typeBits t &&& (2 ^ typeBits t - 1 - (2 ^ fieldLen t p - 1) * 2 ^ fieldLo p % 2 ^ typeBits t)) |||
        (x.toNat % 2 ^ typeBits t * 2 ^ fieldLo p &&& (2 ^ fieldLen t p - 1) * 2 ^ fieldLo p % 2 ^ typeBits t)) =
    extended t ((low t old &&& ~~~fieldMask t p) ||| ((low t x <<< fieldLo p) &&& fieldMask t p)) := by
  rw [← toNat_fieldMask]
  generalize fieldMask t p = m
  have hkept : old.toNat % 2 ^ typeBits t &&& (2 ^ typeBits t - 1 - m.toNat) = (low t old &&& ~~~m).toNat := by
    rw [BitVec.toNat_and, BitVec.toNat_not, toNat_low]
  have hput : (x.toNat % 2 ^ typeBits t * 2 ^ fieldLo p &&& m.toNat) % 2 ^ typeBits t = ((low t x <<< fieldLo p) &&& m).toNat := by
    rw [Nat.and_mod_two_pow, Nat.mod_eq_of_lt m.isLt, BitVec.toNat_and, BitVec.toNat_shiftLeft, toNat_low, Nat.shiftLeft_eq]
  rw [hkept, ← extend_mod, Nat.or_mod_two_pow, hput, Nat.mod_eq_of_lt (low t old &&& ~~~m).isLt, ← BitVec.toNat_or, extend_toNat]

theorem exec_of_fieldEffect : BitFieldsMoveTheirField := by
  intro i d rs f s hi hat hf
  unfold fieldEffect at hi
  split at hi <;> cases hi
  case h_1 a b t =>
    refine (exec_sbfx ..).trans (State.scalar_gives hat hf rfl fun w => ?_)
    rw [tWidth_eq_typeBits, tSigned_eq_isSigned, bitsOf_fieldLo, bitsOf_fieldLen, narrow_field]
  case h_2 a b t =>
    refine (exec_sbfi ..).trans (State.scalar_gives hat hf rfl fun w => ?_)
    rw [tWidth_eq_typeBits, tSigned_eq_isSigned, bitsOf_fieldLo, bitsOf_fieldLen, extend_insert]
    rfl

/-- Settles O9: every compact form and bit field of the tables, and the corners of a division as values of `quotient` and `remainder`. -/
theorem scalarFormsGiveTheirResults : Obligations.ScalarFormsGiveTheirResults :=
  ⟨exec_of_scalarEffect, divisionCorners, exec_of_fieldEffect⟩

end Sys2Proof.Machine
end

section
/-!
PROOFS. What a trap of an instruction leaves of its wave (R459, R462), and the bits of TFEV: those of the registers within the allocation, and beyond it
free values (log 32), which refute the clause of `Trapped` that speaks of every register.
-/
namespace Sys2Proof.Machine
open Sys2Proof.Claim

/-- The sum of the powers of two at the places where `p` holds. -/
def bitSum (p : Nat → Bool) (n : Nat) : Nat := (List.range n).foldl (fun m i => if p i then m + 2 ^ i else m) 0

theorem bitSum_succ (p : Nat → Bool) (n : Nat) : bitSum p (n + 1) = bitSum p n + 2 ^ n * (p n).toNat := by
  rw [bitSum, List.range_succ, List.foldl_append, ← bitSum]
  cases h : p n <;> simp [h]

theorem bitSum_lt (p : Nat → Bool) (n : Nat) : bitSum p n < 2 ^ n := by
  induction n with
  | zero => simp [bitSum]
  | succ n ih =>
    have hbit : 2 ^ n * (p n).toNat ≤ 2 ^ n * 1 := Nat.mul_le_mul_left _ (Bool.toNat_le _)
    rw [bitSum_succ, Nat.pow_succ]
    omega

theorem testBit_bitSum (p : Nat → Bool) {n i : Nat} (hi : i < n) : (bitSum p n).testBit i = p i := by
  induction n with
  | zero => omega
  | succ n ih =>
    rw [bitSum_succ, Nat.add_comm, Nat.testBit_two_pow_mul_add _ (bitSum_lt p n)]
    split
    · exact ih ‹_›
    · have : i = n := by omega
      subst this
      cases h : p i <;> simp

theorem fullWord_eq_bitSum (full : Nat → Bool) (k : Nat) : fullWord full k = BitVec.ofNat 64 (bitSum (fun i => full (64 * k + i)) 64) := rfl

/-- A row of full/empty bits shows the bit of each of its registers. -/
theorem getLsbD_fullWord (full : Nat → Bool) (k : Nat) {i : Nat} (hi : i < 64) : (fullWord full k).getLsbD i = full (64 * k + i) := by
  rw [fullWord_eq_bitSum, BitVec.getLsbD_ofNat, testBit_bitSum _ hi]
  simp [hi]

/-- TFEV shows for each register what `vShown` says: beyond the allocation a free value (R462, log 32). -/
theorem Wave.getLsbD_vFulls (w : Wave) {k i : Nat} (hk : k < 4) (hi : i < 64) : w.vFulls.getLsbD (64 * k + i) = w.vShown (64 * k + i) := by
  have hword := getLsbD_fullWord w.vShown k hi
  rw [Wave.vFulls]
  obtain rfl | rfl | rfl | rfl : k = 0 ∨ k = 1 ∨ k = 2 ∨ k = 3 := by omega
  · rw [BitVec.getLsbD_append, if_pos (by omega), ← hword, Nat.mul_zero, Nat.zero_add]
  · rw [BitVec.getLsbD_append, if_neg (by omega), BitVec.getLsbD_append, if_pos (by omega), ← hword, Nat.mul_one, Nat.add_sub_cancel_left]
  · rw [BitVec.getLsbD_append, if_neg (by omega), BitVec.getLsbD_append, if_neg (by omega), BitVec.getLsbD_append, if_pos (by omega), ← hword,
      show 64 * 2 + i - 64 - 64 = i by omega]
  · rw [BitVec.getLsbD_append, if_neg (by omega), BitVec.getLsbD_append, if_neg (by omega), BitVec.getLsbD_append, if_neg (by omega), ← hword,
      show 64 * 3 + i - 64 - 64 - 64 = i by omega]

/-! ### The wave in its handler -/

theorem State.withdraw_of_not_waiting {s : State} {k : Nat} (hw : (s.waveAt k).waiting = none) :
    s.withdraw k = (s.forget (waveWaiter k)).setWaveAt k { s.waveAt k with waiting := none, blockedAt := none, held := false } := by
  simp [State.withdraw, hw]

/-- A wave that waits for nothing, once it has entered its handler with a trap of its instruction (R459, R462). -/
def Wave.entered (w : Wave) (a : TrapArgs) (entry : Word) : Wave :=
  { w with
    waiting := none, blockedAt := none, held := false, redo := none, inHandler := true
    icount := if a.counts then w.icount + 1 else w.icount
    trap := w.trapState a.code a.info a.imp (a.next.getD w.nextIdx) a.dmask a.mstat a.mpc
    tfev := w.vFulls, phase := .fetch, pc := entry, idx := 0, resume := .no }

/-- A trap of an instruction in a kernel with a trap entry: the wave enters its handler, and what walks returned to it is forgotten. -/
theorem State.trapIn_enters {s : State} {k : Nat} {entry : Word} (hh : (s.waveAt k).inHandler = false) (hw : (s.waveAt k).waiting = none)
    (he : s.trapEntry (s.waveAt k) = some entry) {a : TrapArgs} (ha : a.header = none) :
    s.trapIn k a = (s.forget (waveWaiter k)).setWaveAt k ((s.waveAt k).entered a entry) := by
  have he' : ∀ v, v.gang = (s.waveAt k).gang → ∀ w, ((s.forget (waveWaiter k)).setWaveAt k w).trapEntry v = some entry := by
    intro v hv w
    rw [← he, State.trapEntry, State.trapEntry, hv]
    rfl
  rw [State.trapIn, State.withdraw_of_not_waiting hw]
  simp only [State.waveAt_setWaveAt, hh, ha, he', State.setWaveAt_setWaveAt]
  rfl

theorem State.wave_trap {s : State} {entry : Word} (hh : s.wave.inHandler = false) (hw : s.wave.waiting = none)
    (hu : s.unfinished s.cur = false) (he : s.trapEntry s.wave = some entry) (code : Code) (info : Word) :
    (s.trap code info).wave = s.wave.entered { code := code, info := info } entry := by
  rw [State.trap, hu, if_neg Bool.false_ne_true, State.trapIn_enters hh hw he rfl]
  exact State.waveAt_setWaveAt ..

/-- The statement's account of a wave in its handler is right but for TFEV, and right there exactly where TFEV shows each of the 256 registers as it is. -/
theorem trapped_entered_iff {w : Wave} (hp : w.phase = .issue) (code : Code) (info entry : Word) :
    Trapped w (w.entered { code := code, info := info } entry) entry code info w.idx ↔ ∀ n, n < 256 → w.vShown n = w.vFull n := by
  have hidx : w.nextIdx = w.idx := by simp [Wave.nextIdx, hp]
  have hkind : w.hwait = false := by simp [Wave.hwait, hp]
  have hhdr : w.unfetched = false := by simp [Wave.unfetched, hp]
  constructor
  · rintro ⟨-, -, -, -, -, -, -, -, -, -, -, -, -, -, -, -, -, htfev⟩ n hn
    have hbit := w.getLsbD_vFulls (k := n / 64) (i := n % 64) (by omega) (by omega)
    have hfull := htfev (n / 64) (n % 64) (by omega) (by omega)
    rw [Nat.div_add_mod] at hbit hfull
    exact hbit.symm.trans hfull
  · intro hshown
    refine ⟨rfl, rfl, rfl, rfl, rfl, ?_, ?_, rfl, ?_, rfl, ?_, ?_, rfl, rfl, fun _ => ⟨rfl, rfl⟩, fun _ => ⟨rfl, rfl⟩, fun _ => rfl, fun k i hk hi => ?_⟩
    · simp [Wave.entered, Wave.trapState, hidx]
    · simp [Wave.entered, Wave.trapState, hidx, instrAddr]
    · simp [Wave.entered, Wave.trapState, hkind]
    · simp [Wave.entered, Wave.trapState, hhdr]
    · simp [Wave.entered, Wave.trapState, hidx]
    · exact (w.getLsbD_vFulls hk hi).trans (hshown _ (by omega))

/-! ### A register beyond the allocation -/

/-- A wave that owns eight vector registers, in a kernel with a trap entry. Its table also lists v8, beyond the allocation, with the opposite of the
full/empty bit that TFEV shows there (log 32). -/
def spareRegister : State :=
  { State.reset with
    waves := [(0, { Wave.blank with status := .live, phase := .issue, vregN := 8, v := [(8, ⟨zeroLanes, !Config.spareFull 8⟩)] })]
    launches := [(0, { Launch.blank with kernel := { Kernel.blank with trap := 0x100 } })] }

theorem spareRegister_shown_ne_full : spareRegister.wave.vShown 8 ≠ spareRegister.wave.vFull 8 := by
  have hshown : spareRegister.wave.vShown 8 = Config.spareFull 8 := rfl
  have hfull : spareRegister.wave.vFull 8 = !Config.spareFull 8 := rfl
  rw [hshown, hfull]
  exact (Bool.not_ne_self _).symm

/-- Refutes O22: the statement says that TFEV holds the full/empty bits of all 256 vector registers of the wave. The model shows them for the registers that
the wave owns; beyond them it shows a free value (log 32), and for v8 of `spareRegister` that is not the register's bit. -/
theorem not_trapsEnterTheHandler : ¬ Obligations.TrapsEnterTheHandler := by
  intro ⟨_, hentry⟩
  obtain ⟨htrapped, _⟩ := hentry Code.illegal 0 spareRegister 0x100 ⟨rfl, rfl⟩ rfl rfl rfl rfl
  rw [State.wave_trap (entry := 0x100) rfl rfl rfl rfl, trapped_entered_iff rfl] at htrapped
  exact spareRegister_shown_ne_full (htrapped 8 (by decide))

end Sys2Proof.Machine
end

section
/-!
PROOFS. Lanes and predicates (R16 to R18, R174): which lanes take part, what a masked write leaves in a predicate or a vector register, and that going
on behind an instruction changes no register.
-/
namespace Sys2Proof.Machine
open Sys2Proof.Claim

theorem bitAt_toNat {n : Nat} (x : BitVec n) (i : Nat) : bitAt x.toNat i = x.getLsbD i := by
  rw [bitAt_eq_testBit, BitVec.testBit_toNat]

theorem Wave.takes_eq (w : Wave) (p l : Nat) : w.takes p l = (w.pred p).getLsbD l := bitAt_toNat _ _

theorem laneMask_eq_bitSum (p : Nat → Bool) : laneMask p = BitVec.ofNat 32 (bitSum p 32) := rfl

theorem getLsbD_laneMask (p : Nat → Bool) {l : Nat} (hl : l < 32) : (laneMask p).getLsbD l = p l := by
  rw [laneMask_eq_bitSum, BitVec.getLsbD_ofNat, testBit_bitSum p hl, decide_eq_true hl, Bool.true_and]

/-- The bits that vp`d` has after a write of `f` in the lanes that take part under vp`p` (R17). -/
def Wave.predAfter (w : Wave) (p d : Nat) (f : Nat → Bool) : BitVec 32 :=
  laneMask fun l => if w.takes p l then f l else bitAt (w.pred d).toNat l

theorem Wave.writePred_eq (w : Wave) (p d : Nat) (f : Nat → Bool) : w.writePred p d f = w.setPred d (w.predAfter p d f) := rfl

theorem Wave.getLsbD_predAfter (w : Wave) (p d : Nat) (f : Nat → Bool) {l : Nat} (hl : l < 32) :
    (w.predAfter p d f).getLsbD l = if (w.pred p).getLsbD l then f l else (w.pred d).getLsbD l := by
  rw [Wave.predAfter, getLsbD_laneMask _ hl, Wave.takes_eq, bitAt_toNat]

theorem Wave.lane_setV (w : Wave) (n l : Nat) (x : List Lane) : (w.setV n x).lane n l = nth 0 x l := by
  rw [Wave.lane, Wave.vreg_setV]

/-- A masked write of a vector register, lane by lane. -/
theorem Wave.lane_writeLanes (w : Wave) (p d : Nat) (f : Nat → Option Lane) {l : Nat} (hl : l < 32) :
    (w.writeLanes p d f).lane d l = if (w.pred p).getLsbD l then (f l).getD (w.lane d l) else w.lane d l := by
  rw [Wave.writeLanes, Wave.lane_setV, nth_eq, ← Wave.takes_eq]
  simp [hl]

@[simp] theorem Wave.v_retire (w : Wave) (n : Nat) : (w.retire n).v = w.v := by
  unfold Wave.retire Wave.advance Wave.endClause
  split
  · split <;> rfl
  · rfl

theorem Wave.lane_retire (w : Wave) (n r l : Nat) : (w.retire n).lane r l = w.lane r l := by
  rw [Wave.lane, Wave.vreg, Wave.v_retire, Wave.lane, Wave.vreg]

/-- What an instruction does counts only at the wave as it stands. -/
theorem done_congr {s : State} {f g : Wave → Wave} (h : f s.wave = g s.wave) (n : Nat) : done s n f = done s n g := by
  rw [done, done, h]

end Sys2Proof.Machine
end

section
/-!
PROOFS. The checks of vector forms (R67, R198): operands of one register each, and a form that is not legal.
-/
namespace Sys2Proof.Machine
open Sys2Proof.Claim

theorem Wave.has_vOp {w : Wave} {n : Nat} (h : VFull w [n]) (slot : Nat) : w.has (vOp [n] slot) := h

theorem Wave.has_sOp {w : Wave} {n : Nat} (h : SFull w [n]) (slot : Nat) : w.has (sOp n slot) := h

/-- An empty policy changes nothing for an operand that is there. -/
theorem Wave.has_fe {w : Wave} {o : Opnd} (h : w.has o) (fe : Nat) : w.has (o.fe fe) := h

theorem sFull_pair {w : Wave} {a b : Nat} (h : SFull w [a, b]) : SFull w [a] ∧ SFull w [b] := by
  simpa [SFull] using h

theorem vFull_pair {w : Wave} {a b : Nat} (h : VFull w [a, b]) : VFull w [a] ∧ VFull w [b] := by
  simpa [VFull] using h

/-- A vector form that is not legal is ILLEGAL, whatever its operands. -/
theorem State.vector_illegal {s : State} (hat : AtInstr s) (x : VArgs) (srcs dsts : List Opnd) (eff : Wave → Wave) :
    s.vector x false srcs dsts eff = .next s.illegal := by
  obtain ⟨hs, hp⟩ := hat
  rw [State.vector, Bool.false_and, State.issue_illegal hs hp Wave.opndCheck_illegal]

/-- A vector form that has its operands does its effect. -/
theorem State.vector_done {s : State} (hat : AtInstr s) (hh : s.wave.inHandler = false) {srcs dsts : List Opnd}
    (h : ∀ o ∈ srcs ++ dsts, s.wave.has o) (x : VArgs) (eff : Wave → Wave) :
    s.vector x true srcs dsts eff = .next (done s x.len eff) :=
  State.vector_next hat.1 hat.2 hh h eff

end Sys2Proof.Machine
end

section
/-!
PROOFS. Compares (R182, R183): each row of the statement's table is `vcmp` of the model under a condition and a type, and `vcmp` writes the bits of its
predicate in the lanes that take part.
-/
namespace Sys2Proof.Machine
open Sys2Proof.Claim

/-! ### Conditions and orders -/

theorem Cond.holds_eq (o : Option Ordering) : Cond.eq.holds o = (o == some .eq) := by
  rcases o with _ | _ | _ | _ <;> rfl
theorem Cond.holds_ne (o : Option Ordering) : Cond.ne.holds o = (o != some .eq) := by
  rcases o with _ | _ | _ | _ <;> rfl
theorem Cond.holds_lt (o : Option Ordering) : Cond.lt.holds o = (o == some .lt) := by
  rcases o with _ | _ | _ | _ <;> rfl
theorem Cond.holds_le (o : Option Ordering) : Cond.le.holds o = (o == some .lt || o == some .eq) := by
  rcases o with _ | _ | _ | _ <;> rfl
theorem Cond.holds_gt (o : Option Ordering) : Cond.gt.holds o = (o == some .gt) := by
  rcases o with _ | _ | _ | _ <;> rfl
theorem Cond.holds_ge (o : Option Ordering) : Cond.ge.holds o = (o == some .gt || o == some .eq) := by
  rcases o with _ | _ | _ | _ <;> rfl

/-- The type codes of the three groups of compares: `.i32`, `.n32` and `.f32`. -/
def compareCodes : List Nat := [1, 2, 3]

/-- A compare accepts TYPE 0 and its group's own type. -/
theorem typeFor_own {code t : Nat} (h : t = 0 ∨ t = code) : typeFor code [code] t = eType code := by
  rcases h with rfl | rfl <;> simp [typeFor]

theorem typeFor_other {code t : Nat} (h0 : t ≠ 0) (hc : t ≠ code) : typeFor code [code] t = none := by
  simp [typeFor, h0, hc]

/-- The type that a compare's code names, and the order of two lanes under it. -/
theorem eType_order {code : Nat} (h : code ∈ compareCodes) : ∃ ty, eType code = some ty ∧ ∀ a b, cmpLanes ty a b = order code a b := by
  obtain rfl | rfl | rfl : code = 1 ∨ code = 2 ∨ code = 3 := by simpa [compareCodes] using h
  · refine ⟨.int true 32, rfl, fun a b => ?_⟩
    have hsigned (x : Lane) : valueOf true 32 x.toNat = x.toInt := by rw [valueOf_toNat, if_pos rfl]
    rw [cmpLanes, hsigned, hsigned]
    rfl
  · refine ⟨.int false 32, rfl, fun a b => ?_⟩
    have hunsigned (x : Lane) : valueOf false 32 x.toNat = (x.toNat : Int) := by rw [valueOf_toNat, if_neg Bool.false_ne_true]
    rw [cmpLanes, hunsigned, hunsigned]
    simp [order, compare, compareOfLessAndEq]
  · exact ⟨.flt fp32, rfl, fun a b => rfl⟩

/-! ### The instruction -/

/-- Every row of the table is `vcmp` of the model with that row's fields, code and operands, under a condition that means the row's. -/
theorem exec_eq_vcmp {i : Instr} {s : State} {x : VArgs} {code : Nat} {c : Option Ordering → Bool} {d : BitVec 3} {a b : BitVec 8}
    (h : compareForm s.wave i = some (x, code, c, d, a, b)) :
    code ∈ compareCodes ∧ ∃ k : Cond, (∀ o, k.holds o = c o) ∧ exec i s = s.vcmp x code k d a b := by
  unfold compareForm at h
  split at h <;> cases h
  -- `.f32`, each compact form before its long twin
  case h_1 | h_2 => exact ⟨by decide, .eq, Cond.holds_eq, rfl⟩
  case h_3 | h_4 => exact ⟨by decide, .ne, Cond.holds_ne, rfl⟩
  case h_5 | h_6 => exact ⟨by decide, .lt, Cond.holds_lt, rfl⟩
  case h_7 | h_8 => exact ⟨by decide, .le, Cond.holds_le, rfl⟩
  case h_9 | h_10 => exact ⟨by decide, .gt, Cond.holds_gt, rfl⟩
  case h_11 | h_12 => exact ⟨by decide, .ge, Cond.holds_ge, rfl⟩
  -- `.i32`
  case h_13 | h_14 => exact ⟨by decide, .eq, Cond.holds_eq, rfl⟩
  case h_15 | h_16 => exact ⟨by decide, .ne, Cond.holds_ne, rfl⟩
  case h_17 | h_18 => exact ⟨by decide, .lt, Cond.holds_lt, rfl⟩
  case h_19 | h_20 => exact ⟨by decide, .le, Cond.holds_le, rfl⟩
  case h_21 | h_22 => exact ⟨by decide, .gt, Cond.holds_gt, rfl⟩
  case h_23 | h_24 => exact ⟨by decide, .ge, Cond.holds_ge, rfl⟩
  -- `.n32`
  case h_25 | h_26 => exact ⟨by decide, .lt, Cond.holds_lt, rfl⟩
  case h_27 | h_28 => exact ⟨by decide, .le, Cond.holds_le, rfl⟩
  case h_29 | h_30 => exact ⟨by decide, .gt, Cond.holds_gt, rfl⟩
  case h_31 | h_32 => exact ⟨by decide, .ge, Cond.holds_ge, rfl⟩

/-- A compare under a type that is not its group's is ILLEGAL. -/
theorem State.vcmp_illegal {s : State} (hat : AtInstr s) {x : VArgs} {code : Nat} (h0 : x.type ≠ 0) (hc : x.type ≠ code) (k : Cond)
    (d : BitVec 3) (a b : BitVec 8) : s.vcmp x code k d a b = .next s.illegal := by
  rw [State.vcmp, typeFor_other h0 hc]
  exact State.vector_illegal hat ..

/-- A compare that has its operands writes its predicate under the lane predicate (R17, R182). -/
theorem State.vcmp_done {s : State} (hat : AtInstr s) (hh : s.wave.inHandler = false) {x : VArgs} {code : Nat} (hcode : code ∈ compareCodes)
    (ht : x.type = 0 ∨ x.type = code) {a b : BitVec 8} (hf : VFull s.wave [a.toNat, b.toNat]) (k : Cond) (d : BitVec 3) :
    s.vcmp x code k d a b = .next (done s x.len fun w =>
      w.writePred x.pred d.toNat fun l => k.holds (Claim.order code (w.lane a.toNat l) (w.lane b.toNat l))) := by
  obtain ⟨ty, hty, horder⟩ := eType_order hcode
  obtain ⟨ha, hb⟩ := vFull_pair hf
  have hops : ∀ o ∈ [(vOp [a.toNat] 0).fe x.fe, (vOp [b.toNat] 1).fe x.fe] ++ [], s.wave.has o := by
    simp [Wave.has_fe (Wave.has_vOp ha 0), Wave.has_fe (Wave.has_vOp hb 1)]
  rw [State.vcmp, typeFor_own ht, hty]
  simp only [Option.getD_some, horder]
  exact State.vector_done hat hh hops x _

/-- Settles O29: each row of the table is `vcmp` of the model, which is ILLEGAL under another type and else writes its predicate in the lanes that take
part. -/
theorem comparesWriteTheirPredicate : Obligations.ComparesWriteTheirPredicate := by
  intro i x code c d a b s hi hat hh
  obtain ⟨hcode, k, hk, hexec⟩ := exec_eq_vcmp hi
  rw [hexec]
  refine ⟨fun h0 hc => State.vcmp_illegal hat h0 hc k d a b, fun ht hf => ?_⟩
  refine ⟨s.wave.predAfter x.pred d.toNat fun l => k.holds (order code (s.wave.lane a.toNat l) (s.wave.lane b.toNat l)), ?_, fun l hl => ?_⟩
  · rw [State.vcmp_done hat hh hcode ht hf]
    exact congrArg _ (done_congr (Wave.writePred_eq ..) x.len)
  · rw [Wave.getLsbD_predAfter _ _ _ _ hl, hk]

end Sys2Proof.Machine
end

section
/-!
PROOFS. Predicate logic and votes (R192, R194), and the predicate that is always true (R16, R174). A vote sees the bits of its predicate in the lanes
that take part; the statements speak of the lanes `chosen`, those of them whose bit is 1.
-/
namespace Sys2Proof.Machine
open Sys2Proof.Claim

/-! ### Predicate logic -/

/-- Every row of the table is `plogic` of the model with that row's predicates and function. -/
theorem exec_eq_plogic {i : Instr} {d a b : BitVec 3} {f : Bool → Bool → Bool} (h : logicForm i = some (d, a, b, f)) (s : State) :
    exec i s = s.plogic d a b f := by
  unfold logicForm at h
  split at h <;> cases h
  case h_1 => exact exec_vpand ..
  case h_2 => exact exec_vpor ..
  case h_3 =>
    have hxor : (fun p q : Bool => p ^^ q) = fun p q => p != q := by decide
    rw [hxor]
    exact exec_vpxor ..
  case h_4 => exact exec_vpandn ..

theorem State.plogic_done {s : State} (hat : AtInstr s) (hh : s.wave.inHandler = false) (d a b : BitVec 3) (f : Bool → Bool → Bool) :
    s.plogic d a b f = .next (done s 1 fun w => w.writePred s.wave.compact.pred d.toNat fun l =>
      f ((w.pred a.toNat).getLsbD l) ((w.pred b.toNat).getLsbD l)) := by
  rw [State.plogic]
  simp only [bitAt_toNat]
  exact State.vector_done hat hh (by simp) _ _

/-! ### Votes -/

theorem Wave.lanesOf_eq (w : Wave) (p : Nat) : w.lanesOf p = (List.range 32).filter (w.pred p).getLsbD := by
  rw [Wave.lanesOf, funext (w.takes_eq p)]

theorem chosen_eq_filter (w : Wave) (p a : Nat) : chosen w p a = (w.lanesOf p).filter (w.pred a).getLsbD := by
  rw [Wave.lanesOf_eq, List.filter_filter, chosen]
  simp only [Bool.and_comm]

/-- Under vp0 every lane that takes part is chosen. -/
theorem chosen_zero (w : Wave) (p : Nat) : chosen w p 0 = w.lanesOf p := by
  rw [chosen, Wave.lanesOf_eq, Wave.pred_zero]
  refine List.filter_congr fun l hl => ?_
  have hall : (0xffffffff : BitVec 32).getLsbD l = true := by
    have hones : (0xffffffff : BitVec 32) = BitVec.allOnes 32 := by decide
    rw [hones, BitVec.getLsbD_allOnes, decide_eq_true (List.mem_range.1 hl)]
  rw [hall, Bool.and_true]

/-- The bits of vp`a` in the lanes that take part under vp`p`, in lane order. -/
def votes (w : Wave) (p a : Nat) : List Bool := (w.lanesOf p).map (w.pred a).getLsbD

theorem any_votes (w : Wave) (p a : Nat) : (votes w p a).any id = decide (chosen w p a ≠ []) := by
  rw [Bool.eq_iff_iff, votes, chosen_eq_filter]
  simp [List.filter_eq_nil_iff]

theorem count_votes (w : Wave) (p a : Nat) : ((votes w p a).filter id).length = (chosen w p a).length := by
  rw [votes, chosen_eq_filter, List.filter_map, List.length_map, Function.id_comp]

theorem all_votes (w : Wave) (p a : Nat) : (votes w p a).all id = decide (chosen w p a = chosen w p 0) := by
  rw [Bool.eq_iff_iff, votes, chosen_zero, chosen_eq_filter, decide_eq_true_iff, List.filter_eq_self]
  simp

/-- A vote that has its destination writes there what it makes of the bits it sees (R194). -/
theorem State.vote_done {s : State} (hat : AtInstr s) (hh : s.wave.inHandler = false) {d : BitVec 7} (hf : SFull s.wave [d.toNat]) (a : BitVec 3)
    {f : List Bool → Word} {v : Word} (hv : f (votes s.wave s.wave.compact.pred a.toNat) = v) :
    s.vote d a f = .next (done s 1 fun w => w.setS d.toNat v) := by
  have hops : ∀ o ∈ [] ++ [sOp d.toNat], s.wave.has o := by simp [Wave.has_sOp hf 2]
  have hbits : ((List.range 32).filter (s.wave.takes s.wave.compact.pred)).map (bitAt (s.wave.pred a.toNat).toNat) =
      votes s.wave s.wave.compact.pred a.toNat := by
    rw [votes, Wave.lanesOf, funext (bitAt_toNat (s.wave.pred a.toNat))]
  refine (State.vector_done hat hh hops _ _).trans (congrArg _ (done_congr ?_ 1))
  simp only [hbits, hv]

/-! ### The statements -/

theorem predicateLogicAndVotes : PredicateLogicAndVotes := by
  intro s hat hh
  refine ⟨fun i d a b f hi => ?_, fun d a hf => ⟨?_, ?_, ?_⟩⟩
  · refine ⟨s.wave.predAfter s.wave.compact.pred d.toNat fun l => f ((s.wave.pred a.toNat).getLsbD l) ((s.wave.pred b.toNat).getLsbD l), ?_,
      fun l hl => Wave.getLsbD_predAfter _ _ _ _ hl⟩
    rw [exec_eq_plogic hi, State.plogic_done hat hh]
    exact congrArg _ (done_congr (Wave.writePred_eq ..) 1)
  · refine (exec_vvany ..).trans (State.vote_done hat hh hf a ?_)
    rw [any_votes, ofBit_decide, bit, ite_not]
  · refine (exec_vpcnt ..).trans (State.vote_done hat hh hf a ?_)
    rw [count_votes]
  · refine (exec_vvall ..).trans (State.vote_done hat hh hf a ?_)
    rw [all_votes, ofBit_decide, bit]

theorem predicateZero : PredicateZero := fun w m => ⟨w.pred_zero, w.setPred_zero m, fun p hp => w.pred_setPred p m hp⟩

/-- Settles O30: predicate logic and votes as the model's `plogic` and `vote` over the lanes that take part, and vp0. -/
theorem predicatesAndVotes : Obligations.PredicatesAndVotes := ⟨predicateLogicAndVotes, predicateZero⟩

end Sys2Proof.Machine
end

section
/-!
PROOFS. Moves between the register files and single lanes (R189 to R191, R193), in a trap handler too (R198), and moves of the vector register that a
scalar names (R190).
-/
namespace Sys2Proof.Machine
open Sys2Proof.Claim

/-! ### The four instructions that a handler may issue -/

/-- What one of the four needs of an operand: its registers are owned and full, but for the bits of vector registers, which do not count in a handler
(R198). -/
def Wave.reaches (w : Wave) (o : Opnd) : Prop :=
  ∀ n ∈ o.regs, n < (if o.vec then w.vregN else w.sregN) ∧ (w.full o.vec n = true ∨ (o.vec = true ∧ w.inHandler = true))

theorem Wave.reaches_of_has {w : Wave} {o : Opnd} (h : w.has o) : w.reaches o := fun n hn => ⟨(h n hn).1, .inl (h n hn).2⟩

theorem Wave.reaches_sOp {w : Wave} {n : Nat} (h : SFull w [n]) (slot : Nat) : w.reaches (sOp n slot) := Wave.reaches_of_has (Wave.has_sOp h slot)

theorem Wave.reaches_vOp {w : Wave} {n : Nat} (h : VFull w [n]) (slot : Nat) : w.reaches (vOp [n] slot) := Wave.reaches_of_has (Wave.has_vOp h slot)

theorem Wave.reaches_vOp_handler {w : Wave} {n : Nat} (hh : w.inHandler = true) (h : n < w.vregN) (slot : Nat) : w.reaches (vOp [n] slot) := by
  intro m hm
  obtain rfl : m = n := by simpa [vOp] using hm
  exact ⟨h, .inr ⟨rfl, hh⟩⟩

theorem Wave.opndOk_of_reaches {w : Wave} {o : Opnd} (h : w.reaches o) : w.opndOk o = true := by
  simp only [Wave.opndOk, List.all_eq_true, decide_eq_true_eq]
  exact fun n hn => (h n hn).1

/-- What the four wait for is there: all operands outside a handler, the scalar ones inside. -/
theorem Wave.allReady_of_reaches {w : Wave} {os : List Opnd} (h : ∀ o ∈ os, w.reaches o) :
    w.allReady (if w.inHandler then os.filter (!·.vec) else os) = true := by
  simp only [Wave.allReady, List.all_eq_true]
  intro o ho n hn
  cases hh : w.inHandler with
  | false =>
    rw [hh, if_neg Bool.false_ne_true] at ho
    simpa [hh] using (h o ho n hn).2
  | true =>
    rw [hh, if_pos rfl, List.mem_filter] at ho
    obtain ⟨hmem, hscalar⟩ := ho
    have hvec : o.vec = false := by simpa using hscalar
    simpa [hvec] using (h o hmem n hn).2

/-- One of the four that reaches its operands does its effect. -/
theorem State.handlerVector_done {s : State} (hat : AtInstr s) {srcs dsts : List Opnd} (h : ∀ o ∈ srcs ++ dsts, s.wave.reaches o)
    (eff : Wave → Wave) : s.handlerVector srcs dsts eff = .next (done s 1 eff) := by
  obtain ⟨hs, hp⟩ := hat
  have hok : (srcs ++ dsts).all s.wave.opndOk = true := List.all_eq_true.2 fun o ho => Wave.opndOk_of_reaches (h o ho)
  have hsrcs := Wave.allReady_of_reaches fun o ho => h o (List.mem_append_left dsts ho)
  have hdsts := Wave.allReady_of_reaches fun o ho => h o (List.mem_append_right srcs ho)
  rw [State.handlerVector]
  simp only [hok, hsrcs, hdsts]
  exact congrArg _ (State.issue_go hs hp rfl _)

/-- `vgetl` reads its lane wherever it reaches its registers (R191). -/
theorem exec_vgetl_done {s : State} (hat : AtInstr s) {d b : BitVec 7} {a : BitVec 8} (hf : SFull s.wave [d.toNat, b.toNat])
    (ha : s.wave.reaches (vOp [a.toNat] 0)) :
    exec (.vgetl d a b) s = .next (done s 1 fun w => w.setS d.toNat ((w.lane a.toNat ((w.sreg b.toNat).toNat % 32)).setWidth 64)) := by
  obtain ⟨hd, hb⟩ := sFull_pair hf
  refine (exec_vgetl ..).trans (State.handlerVector_done hat ?_ _)
  simp [ha, Wave.reaches_sOp hb 1, Wave.reaches_sOp hd 2]

/-- The wave after `vputl` has put its lane: outside a handler the register is full, inside its bit stays (R191, R198). -/
def Wave.putLane (w : Wave) (d l : Nat) (x : Lane) : Wave :=
  if w.inHandler then w.setLane d l x else (w.setLane d l x).setVFull d true

theorem Wave.putLane_handler {w : Wave} (hh : w.inHandler = true) (d l : Nat) (x : Lane) : w.putLane d l x = w.setLane d l x := if_pos hh

theorem Wave.putLane_outside {w : Wave} (hh : w.inHandler = false) (d l : Nat) (x : Lane) :
    w.putLane d l x = w.setV d ((w.vreg d).set l x) := by
  rw [Wave.putLane, hh, if_neg Bool.false_ne_true]
  simp [Wave.setLane, Wave.setVFull, Wave.setV, Wave.vreg]

/-- `vputl` puts its lane wherever it reaches its registers (R191). -/
theorem exec_vputl_done {s : State} (hat : AtInstr s) {a b : BitVec 7} {d : BitVec 8} (hf : SFull s.wave [a.toNat, b.toNat])
    (hd : s.wave.reaches (vOp [d.toNat] 2)) :
    exec (.vputl d a b) s =
      .next (done s 1 fun w => w.putLane d.toNat ((w.sreg b.toNat).toNat % 32) ((w.sreg a.toNat).setWidth 32)) := by
  obtain ⟨ha, hb⟩ := sFull_pair hf
  refine (exec_vputl ..).trans (State.handlerVector_done hat ?_ _)
  simp [hd, Wave.reaches_sOp ha 0, Wave.reaches_sOp hb 1]

/-! ### The register that a scalar names -/

/-- The check of the scalar and of the fixed register passes. -/
theorem Wave.vindexed_check {w : Wave} (hh : w.inHandler = false) {idx fixed : Nat} (hi : SFull w [idx]) (hv : VFull w [fixed]) (slot : Nat) :
    w.opndCheck (!w.inHandler && w.opndOk (vOp [fixed])) [sOp idx slot] [] = .go := by
  rw [hh, Wave.opndOk_of_reaches (Wave.reaches_vOp hv 2)]
  exact Wave.opndCheck_go (by simp [Wave.has_sOp hi slot])

/-- An index beyond the allocation is ILLEGAL (R190). -/
theorem State.vindexed_illegal {s : State} (hat : AtInstr s) (hh : s.wave.inHandler = false) {idx : BitVec 7} {fixed : BitVec 8}
    (hi : SFull s.wave [idx.toNat]) (hv : VFull s.wave [fixed.toNat]) (hout : s.wave.vregN ≤ (s.wave.sreg idx.toNat).toNat) (slot : Nat)
    (get : Bool) : s.vindexed idx slot fixed get = .next s.illegal := by
  obtain ⟨hs, hp⟩ := hat
  rw [State.vindexed]
  simp only [Wave.vindexed_check hh hi hv, decide_eq_false (Nat.not_lt.2 hout)]
  exact congrArg _ (State.issue_illegal hs hp rfl _)

/-- A move of a register named within the allocation: the lanes that take part are copied, the others keep theirs (R190). -/
theorem State.vindexed_lanes {s : State} (hat : AtInstr s) (hh : s.wave.inHandler = false) {idx : BitVec 7} {fixed : BitVec 8}
    (hi : SFull s.wave [idx.toNat]) (hv : VFull s.wave [fixed.toNat]) (hn : VFull s.wave [(s.wave.sreg idx.toNat).toNat]) (slot : Nat)
    (get : Bool) {src dst : Nat} (hsrc : src = if get then (s.wave.sreg idx.toNat).toNat else fixed.toNat)
    (hdst : dst = if get then fixed.toNat else (s.wave.sreg idx.toNat).toNat) :
    ∃ t, s.vindexed idx slot fixed get = .next t ∧ ∀ l, l < 32 → t.wave.lane dst l =
      if (s.wave.pred s.wave.compact.pred).getLsbD l then s.wave.lane src l else s.wave.lane dst l := by
  obtain ⟨hs, hp⟩ := hat
  obtain ⟨hin, hnamed⟩ := hn _ List.mem_cons_self
  obtain ⟨-, hfixed⟩ := hv _ List.mem_cons_self
  have hfull : (s.wave.vFull src && s.wave.vFull dst) = true := by
    cases get <;> simp [hsrc, hdst, hnamed, hfixed]
  refine ⟨done s 1 fun w => w.writeLanes s.wave.compact.pred dst fun l => some (w.lane src l), ?_, fun l hl => ?_⟩
  · rw [State.vindexed]
    simp only [Wave.vindexed_check hh hi hv, decide_eq_true hin, ← hsrc, ← hdst, hfull]
    exact congrArg _ (State.issue_go hs hp rfl _)
  · rw [done, State.wave_setWave, Wave.lane_retire, Wave.lane_writeLanes _ _ _ _ hl, Option.getD_some]

/-! ### The statement -/

/-- Settles O31: the four moves that a handler may issue do their effect wherever they reach their registers; the two moves of an indexed register copy
lanes, or are ILLEGAL. -/
theorem registerFileMoves : Obligations.RegisterFileMoves := by
  intro s hat
  refine ⟨fun d b a hf hv => ?_, fun d a b hh hf hv => ?_, fun d b a hh hf ha => ?_, fun d a b hh hf hd => ?_, fun d a hf => ?_, fun d a hf => ?_,
    fun d a hh hf hv => ⟨fun _ hn => ?_, fun hout => ?_⟩, fun d a hh hf hv => ⟨fun _ hn => ?_, fun hout => ?_⟩⟩
  -- `vgetl` and `vputl` outside a handler, then inside
  · exact exec_vgetl_done hat hf (Wave.reaches_vOp hv 0)
  · rw [exec_vputl_done hat hf (Wave.reaches_vOp hv 2)]
    exact congrArg _ (done_congr (Wave.putLane_outside hh ..) 1)
  · exact exec_vgetl_done hat hf (Wave.reaches_vOp_handler hh ha 0)
  · rw [exec_vputl_done hat hf (Wave.reaches_vOp_handler hh hd 2)]
    exact congrArg _ (done_congr (Wave.putLane_handler hh ..) 1)
  -- `vpmov` and `vpget`
  · exact (exec_vpmov ..).trans (State.handlerVector_done hat (by simp [Wave.reaches_sOp hf 0]) _)
  · exact (exec_vpget ..).trans (State.handlerVector_done hat (by simp [Wave.reaches_sOp hf 2]) _)
  -- `vgetr` and `vsetr`, with an index within the allocation and beyond it
  · exact State.vindexed_lanes hat hh hf hv hn 0 true rfl rfl
  · exact (exec_vgetr ..).trans (State.vindexed_illegal hat hh hf hv hout 0 true)
  · exact State.vindexed_lanes hat hh hf hv hn 2 false rfl rfl
  · exact (exec_vsetr ..).trans (State.vindexed_illegal hat hh hf hv hout 2 false)

end Sys2Proof.Machine
end
